-- ==== Sys2Proof/Word.lean ====
section
/-! DEFINITION. The word types of the UC640 and the plainest facts of them (00 R4: little-endian, bit 0 least significant). -/
namespace Sys2Proof

/-- A byte of memory. -/
abbrev Byte := BitVec 8
/-- One lane of a vector register or queue entry, and one instruction word (02 R17, 07 R153). -/
abbrev W32 := BitVec 32
/-- A scalar register, a virtual address or a literal (07 R159, 02 R18). -/
abbrev W64 := BitVec 64
/-- A mask over the 128 lanes of a warp, bit `n` for lane `n` (07 R160). -/
abbrev Mask := BitVec 128

/-- The lanes of a warp (07 R153). -/
def lanes : Nat := 128

end Sys2Proof
end

