-- ==== Sys2Proof/Machine/Bits.lean ====
section
/-! DEFINITION. Bit fields, sign extension and byte order, used by the decoder and by every unit (00 R4). -/
namespace Sys2Proof.Machine

/-- The `n` bits of `w` from bit `lo` up. -/
def bitsAt (w lo n : Nat) : Nat := w / 2 ^ lo % 2 ^ n

/-- The value whose fields, from bit 0 up, are the pairs (width, value). -/
def joinBits : List (Nat × Nat) → Nat
  | [] => 0
  | (n, v) :: rest => v % 2 ^ n + 2 ^ n * joinBits rest

/-- `x`, of `n` bits, read as two's complement. -/
def signed (n x : Nat) : Int := if 2 * (x % 2 ^ n) < 2 ^ n then (x % 2 ^ n : Int) else (x % 2 ^ n : Int) - (2 ^ n : Int)

/-- The `n`-bit two's-complement pattern of `i`. -/
def wrapInt (n : Nat) (i : Int) : Nat := (i % (2 ^ n : Int)).toNat

/-- `i` clamped to `lo` .. `hi`. -/
def clampInt (lo hi i : Int) : Int := if i < lo then lo else if hi < i then hi else i

/-- The little-endian value of a list of bytes (00 R4). -/
def leNat : List Byte → Nat
  | [] => 0
  | b :: bs => b.toNat + 256 * leNat bs

/-- The `n` little-endian bytes of a value (00 R4). -/
def leBytes : Nat → Nat → List Byte
  | 0, _ => []
  | n + 1, x => BitVec.ofNat 8 x :: leBytes n (x / 256)

/-- Bit `l` of a mask (07 R160). -/
def hasLane (m : Mask) (l : Nat) : Bool := m.getLsbD l

/-- The mask of the lanes below 128 that satisfy `p`. -/
def maskOfAux (p : Nat → Bool) : Nat → Nat
  | 0 => 0
  | n + 1 => maskOfAux p n + (if p n then 2 ^ n else 0)

/-- The mask of the lanes that satisfy `p` (07 R160). -/
def maskOf (p : Nat → Bool) : Mask := BitVec.ofNat 128 (maskOfAux p 128)

/-- The lanes of a mask, ascending. -/
def maskLanes (m : Mask) : List Nat := (List.range 128).filter (hasLane m)

/-- The lowest lane of a mask, or 128 when it is empty. -/
def lowLane (m : Mask) : Nat := ((List.range 128).find? (hasLane m)).getD 128

/-- The number of set bits among the `n` low bits of `x`. -/
def popBits : Nat → Nat → Nat
  | 0, _ => 0
  | n + 1, x => x % 2 + popBits n (x / 2)

/-- The smallest multiple of `k` that is not below `x`. -/
def roundUp (x k : Nat) : Nat := (x + k - 1) / k * k

/-- `x / k`, rounded up. -/
def ceilDiv (x k : Nat) : Nat := (x + k - 1) / k

/-- Whether the test holds of every number below `n`. -/
def allBelow (n : Nat) (p : Nat → Bool) : Bool := (List.range n).all p

end Sys2Proof.Machine
end

