-- ==== Sys2Proof/Syntax.lean ====
section
/-! DEFINITION. The instructions and events of the UC640: one constructor of `Instr` for each row of spec/opcode_table.json. -/
namespace Sys2Proof

/-- Operand types, in the order of their codes 0 to 14 (02 Table 02-6). -/
inductive Ty where
  | i32 | n32 | f32 | f16 | bf16 | t8 | t6 | i8 | n8 | i4 | i16 | n16 | i64 | n64 | b32
  deriving DecidableEq, Repr

/-- Rounding modes of an instruction (02 Table 02-7); `sr` carries its Drizzle class (R33). -/
inductive Rnd where
  | rne | rtz | rup | rdn | rna
  | sr (k : BitVec 4)
  | dyn
  deriving DecidableEq, Repr

/-- Sources. The 5-bit fields of base forms (02 R23) and the 11-bit specifiers (02 Table 02-5) name the same things:
queue entry of age `n + 1`, named register, scalar register, mask pair, and the special operands. `unused` is a
field that the minor does not use (R30, R176). -/
inductive Src where
  | queue (n : BitVec 4)
  | vec (n : BitVec 9)
  | sca (n : BitVec 6)
  | msk (n : BitVec 5)
  | lit | zero | one | lane | plane
  | int (n : BitVec 4)
  | unused
  deriving DecidableEq, Repr

/-- Destinations (02 R23, R31): the queue only, a named register and the queue, a scalar, a mask, or nothing. -/
inductive Dst where
  | queue
  | vec (n : BitVec 9)
  | sca (n : BitVec 6)
  | msk (n : BitVec 5)
  | discard
  deriving DecidableEq, Repr

/-- The operands of the majors MASK, INTA, INTB, CMP, FLTA, FLTB, PKD, CVT and XLANE, in base form (`ext = false`)
or extended form (02 Tables 02-3, 02-4). `neg` and `abs` hold bit 0 for OPA, bit 1 for OPB, bit 2 for OPC (R34);
`mod` is the modifier of a minor that defines one and does not round (R24, R176). -/
structure Op where
  ext : Bool
  lit : Option W64
  u   : Bool
  ty  : Ty
  rnd : Rnd
  sat : Bool
  neg : BitVec 3
  abs : BitVec 3
  tr  : Bool
  mod : BitVec 3
  a   : Src
  b   : Src
  c   : Src
  d   : Dst
  deriving DecidableEq, Repr

/-- The operands of the INTI major, format I (02 R26, 08 R181). -/
structure Imm where
  u   : Bool
  tr  : Bool
  mod : BitVec 3
  imm : BitVec 10
  a   : Src
  deriving DecidableEq, Repr

/-- Access sizes of the LDST and ATOM base forms: 2^n bytes (02 R25). -/
inductive Size where
  | byte | half | word | double | quad
  deriving DecidableEq, Repr

/-- Cache hints (06 R129). -/
inductive Hint where
  | default | evictFirst | keep
  deriving DecidableEq, Repr

/-- A load of the LDST major, format M (02 R25, 06 Table 06-1). In LDU, `adr` and `dst` name scalars. -/
structure Load where
  lit  : Option W64
  adr  : Src
  dst  : Dst
  size : Size
  base : BitVec 4
  hint : Hint
  deriving DecidableEq, Repr

/-- A store of the LDST major, format M. In STU, `adr` and `src` name scalars. -/
structure Store where
  lit  : Option W64
  adr  : Src
  src  : Src
  size : Size
  base : BitVec 4
  hint : Hint
  deriving DecidableEq, Repr

/-- An atomic (06 R135): the base form, which returns nothing, or the extended form. `ord` bit 0 is .acq, bit 1 .rel. -/
inductive Atom where
  | base (lit : Option W64) (adr src : Src) (double : Bool) (sb : BitVec 4) (ord : BitVec 2)
  | ext (a b c : Src) (d : Dst) (ty : Ty) (sb : BitVec 4) (ord : BitVec 2) (tr : Bool)
  deriving DecidableEq, Repr

/-- The operands that the three SAMPLE minors share (11 Table 11-6). `addr` is 0 CLAMP, 1 WRAP, 2 BORDER. -/
structure Samp where
  lit  : Option W64
  si   : BitVec 6
  addr : BitVec 2
  near : Bool
  u    : Src
  v    : Src
  d    : BitVec 9
  tr   : Bool
  deriving DecidableEq, Repr

/-- The operands of TLDG and TSTG (06 R143). -/
structure TileRun where
  lit  : Option W64
  tile : BitVec 7
  ofs  : BitVec 8
  ty   : Ty
  rnd  : Rnd
  b0   : Src
  e0   : Src
  n    : Src
  tr   : Bool
  deriving DecidableEq, Repr

/-- The engines and fixed-function units that hold work (06 R146, 11 Table 11-1). -/
inductive Engine where
  | copy (cluster : Nat) (k : BitVec 1)
  | dma (tower : Nat)
  | raster (tower : Nat) (k : BitVec 2)
  | classify (cluster : Nat)
  | attr (cluster : Nat)
  | traverse (cluster : Nat)
  | blend (tower : Nat)
  | matrix (cluster : Nat)
  | sampler (core : Nat)
  | host
  | peer
  deriving DecidableEq, Repr

/-- What translates an address: a lane group of a core, with the caches of R65, an engine with its own (03 R68), the firmware for a
context, or one of its eight control cores for itself (03 R59, 16 R397). -/
inductive Walker where
  | core (core group : Nat)
  | engine (e : Engine)
  | firmware
  | control (n : Nat)
  deriving DecidableEq, Repr

/-- Kinds of access presented for translation (03 R56). -/
inductive Access where
  | read | write | atomic | fetch
  deriving DecidableEq, Repr

/-- Where the distributor puts one workgroup: a core, and the lane group of each of its warps (14 R345). The choice is
made at run time, so it is an argument of the placing events. -/
structure Place where
  core   : Nat
  groups : List Nat
  deriving DecidableEq, Repr

/-- What a trap records and where it goes (15 R363, R364): the cause, %trapaddr and %trapmask, the offsets and the mode
of its TRAP entry, and the values of the handler queue, youngest first, lane by lane. -/
structure Trap where
  cause  : BitVec 8
  addr   : W64
  mask   : Mask
  resume : W32
  rpc    : W32
  mode   : BitVec 2
  log    : BitVec 4
  hq     : List (List W32)
  deriving DecidableEq, Repr

/-- A message of the host link: the header of 16 Table 16-1 and its payload. -/
structure Msg where
  ty      : BitVec 8
  resp    : Bool
  zero    : BitVec 3
  ctx     : BitVec 12
  qi      : BitVec 8
  seq     : W32
  ackn    : W32
  len     : W32
  addr    : W64
  arg     : W32
  crc     : W32
  payload : List Byte
  deriving DecidableEq, Repr

/-- The storage an uncorrectable error can strike (05 R105, 09 R230, 10 R253): a sector of memory by physical address,
or a 32-byte sector of a cluster's tile memory, accumulators, cells or stream store. -/
inductive EccSite where
  | memory (pa : Nat)
  | tile (cluster byte : Nat)
  | acc (cluster byte : Nat)
  | cells (cluster byte : Nat)
  | exps (cluster byte : Nat)
  | stream (cluster byte : Nat)
  deriving DecidableEq, Repr

/-- The instructions and events: one constructor for each row of spec/opcode_table.json, in its order of majors.
An event carries the agent it happens to and what the outside world or a run-time choice supplies. -/
inductive Instr where
  -- SYS
  | nop
  | exit
  | brk (code : BitVec 16)
  | trap (code : BitVec 16)
  | rtt (skip : Bool)
  | yield (cyc : BitVec 10)
  | icpf (lines : BitVec 4) (d : BitVec 15)
  | srd (half : BitVec 2) (spr : BitVec 5) (sd : BitVec 6)
  | swr (half : BitVec 2) (spr : BitVec 5) (ss : BitVec 6)
  | swrLit (half : BitVec 2) (spr : BitVec 5) (lit : W64)
  | ntdrain
  | lease (units : BitVec 11) (level : BitVec 2) (sd : BitVec 6)
  | claim (sd : BitVec 6) (n : BitVec 7)
  | claimLit (sd : BitVec 6) (n : BitVec 7) (lit : W64)
  | giveback (n : BitVec 7)
  | chmapC (role : BitVec 2) (dm1 : BitVec 4) (ch : BitVec 3) (n : BitVec 9)
  | chmapP (ch : BitVec 3) (n : BitVec 9)
  | waitmem (sv : BitVec 6) (w64 acq : Bool) (cond : BitVec 3) (sa : BitVec 5)
  | waitmemLit (lit : W64) (w64 acq : Bool) (cond : BitVec 3) (sa : BitVec 5)
  | waitmemRecheck (warp : Nat)
  | claimWaitLimit (warp : Nat)
  -- FLOW
  | bra (off : BitVec 19)
  | brs (z : Bool) (a : BitVec 6) (off : BitVec 19)
  | brm (m : BitVec 5) (off : BitVec 19) (join : W32)
  | brany (m : BitVec 5) (off : BitVec 19)
  | brall (m : BitVec 5) (off : BitVec 19)
  | call (off : BitVec 19)
  | callm (m : BitVec 5) (off : BitVec 19)
  | ret
  | plset (m : BitVec 5) (p : BitVec 2)
  | plsw (lit : Option W64) (a : Src)
  | loop (lit : Option W64) (n : Src) (off : BitVec 19) (step : Option (BitVec 6 × BitVec 6))
  | loopx (z : Bool) (a : BitVec 6)
  -- MASK
  | mset (o : Op)
  | mget (o : Op)
  | mand (o : Op)
  | mor (o : Op)
  | mxor (o : Op)
  | mandn (o : Op)
  | mnot (o : Op)
  | mpop (o : Op)
  | mfirst (o : Op)
  | mlit (lit : W64) (half : BitVec 2) (d : BitVec 5)
  -- INTA
  | iadd (o : Op)
  | isub (o : Op)
  | imul (o : Op)
  | imulh (o : Op)
  | imad (o : Op)
  | imin (o : Op)
  | imax (o : Op)
  | iabs (o : Op)
  | ineg (o : Op)
  | iadds (o : Op)
  | isubs (o : Op)
  | lea (o : Op)
  | iadd64 (o : Op)
  | isub64 (o : Op)
  | idiv (o : Op)
  | irem (o : Op)
  -- INTB
  | and (o : Op)
  | or (o : Op)
  | xor (o : Op)
  | andn (o : Op)
  | not (o : Op)
  | shl (o : Op)
  | shr (o : Op)
  | sra (o : Op)
  | rot (o : Op)
  | bfe (o : Op)
  | bfi (o : Op)
  | popc (o : Op)
  | clz (o : Op)
  | brev (o : Op)
  | sel (o : Op)
  | mov (o : Op)
  -- INTI
  | iaddi (i : Imm)
  | andi (i : Imm)
  | ori (i : Imm)
  | xori (i : Imm)
  | shli (i : Imm)
  | shri (i : Imm)
  | srai (i : Imm)
  | movi (i : Imm)
  | icmpi (i : Imm)
  -- CMP
  | icmp (o : Op)
  | icmpn (o : Op)
  | fcmp (o : Op)
  | fcmpx (o : Op)
  -- FLTA
  | fadd (o : Op)
  | fsub (o : Op)
  | fmul (o : Op)
  | ffma (o : Op)
  | fmin (o : Op)
  | fmax (o : Op)
  | fabs (o : Op)
  | fneg (o : Op)
  | frnd (o : Op)
  | ffrac (o : Op)
  | fldexp (o : Op)
  | fclass (o : Op)
  | fcopysign (o : Op)
  | fdiv (o : Op)
  | fsqrt (o : Op)
  -- FLTB
  | frcp (o : Op)
  | frsq (o : Op)
  | fexp2 (o : Op)
  | flog2 (o : Op)
  | fsinp (o : Op)
  | fcosp (o : Op)
  | ftanh (o : Op)
  | fsigm (o : Op)
  -- PKD
  | hadd2 (o : Op)
  | hmul2 (o : Op)
  | hfma2 (o : Op)
  | badd2 (o : Op)
  | bmul2 (o : Op)
  | bfma2 (o : Op)
  | padd16 (o : Op)
  | psub16 (o : Op)
  | pmin16 (o : Op)
  | pmax16 (o : Op)
  | padds16 (o : Op)
  | pdot4t8 (o : Op)
  | pdot8i4 (o : Op)
  | pshf (o : Op)
  -- CVT
  | cvt (o : Op) (sty : Ty) (sel : BitVec 3)
  | cvtsr (o : Op) (sty : Ty) (sel : BitVec 3)
  | pack (o : Op) (sty : Ty) (sel : BitVec 3)
  | unpack (o : Op) (sel : BitVec 3)
  -- XLANE
  | shfl (o : Op)
  | vote (o : Op)
  | redu (o : Op)
  | scan (o : Op) (excl : Bool)
  | bcast (o : Op)
  | qdx (o : Op)
  | qdy (o : Op)
  | qswp (o : Op)
  -- LDST
  | ld (m : Load)
  | st (m : Store)
  | lde (m : Load)
  | ste (m : Store)
  | lds (m : Load)
  | sts (m : Store)
  | ldu (m : Load)
  | stu (m : Store)
  | ntst (m : Store)
  | prf (lit : Option W64) (adr : Src) (base : BitVec 4) (hint : Hint)
  | ld64 (m : Load)
  | st64 (m : Store)
  | loadReturn (warp : Nat)
  -- ATOM
  | aadd (o : Atom)
  | amin (o : Atom)
  | amax (o : Atom)
  | aand (o : Atom)
  | aor (o : Atom)
  | axor (o : Atom)
  | axch (o : Atom)
  | acas (o : Atom)
  | afadd (o : Atom)
  | ainc (o : Atom)
  -- LAYOUT
  | ldt (lit : Option W64) (h c : Src) (d : Dst) (tr : Bool)
  | stt (lit : Option W64) (h c src : Src) (rnd : Rnd) (tr : Bool)
  | lhbind (lit : Option W64) (h src : Src) (tr : Bool)
  | lhinv (lit : Option W64) (h : Src) (tr : Bool)
  | lhq (lit : Option W64) (h i : Src) (d : Dst) (tr : Bool)
  -- ENGINE
  | push (sd : BitVec 6) (cb : BitVec 3) (eng : BitVec 4)
  | yldc (eng : BitVec 4) (k : Src) (off : W32)
  | cwait (k : BitVec 5) (eng : BitVec 4)
  | ctest (sd : BitVec 6) (eng : BitVec 4)
  -- TILE
  | tldv (lit : Option W64) (tile slice : Src) (d : Dst) (tr : Bool)
  | tstv (p : Bool) (lit : Option W64) (tile slice src : Src) (tr : Bool)
  | tldg (t : TileRun)
  | tstg (t : TileRun)
  | mwait (lit : Option W64) (b : Src) (tr : Bool)
  | mtest (sd : BitVec 6) (lit : Option W64) (b : Src) (tr : Bool)
  | tileTransferComplete (warp : Nat)
  -- MTX
  | mldb (mode : BitVec 2) (ty : Ty) (lit : Option W64) (a : Src)
  | mlda (ty : Ty) (lit : Option W64) (a : Src)
  | mmul (lit : Option W64) (a : Src)
  | mlutb (lit : Option W64) (a : Src)
  | mlut (wc : BitVec 2) (lit : Option W64) (a : Src)
  | mzero (lit : Option W64) (a : Src)
  | mdrain (ty : Ty) (lit : Option W64) (a : Src) (d : Option (BitVec 6))
  | mbatch (d : Option (BitVec 6))
  | mwaitb (lit : Option W64) (a : Src)
  | mwaitf (lit : Option W64) (a : Src)
  | matrixOperationPerformed (cluster : Nat)
  | batchComplete (cluster : Nat)
  | isobarWindow (cluster : Nat)
  | cimScrub (cluster : Nat)
  -- SYNC
  | spawn (lit : Option W64) (h : Src) (n : BitVec 9)
  | spawnu (lit : Option W64) (h : Src) (n : BitVec 6)
  | await
  | bar (n : BitVec 5) (k : BitVec 3)
  | bara (n : BitVec 5) (k : BitVec 3)
  | barw (k : BitVec 3)
  | nodeq (sh sd : BitVec 6)
  | frameq (lane : BitVec 8) (sd : BitVec 6)
  | binLaunch (cluster bin : Nat) (p : Place)
  | binTimerExpiry (cluster bin : Nat) (p : Place)
  | threadComplete (frame lane : Nat)
  | continuationSteal (warp core group : Nat)
  | channelDequeueWake (warp : Nat)
  -- GFX
  | sample (m : Samp)
  | samplel (m : Samp) (lod : Src)
  | sampleg (m : Samp) (vg : BitVec 9)
  | imgld (lit : Option W64) (si : BitVec 6) (lvl : BitVec 4) (x y : Src) (d : Dst) (tr : Bool)
  | imgst (lit : Option W64) (si : BitVec 6) (lvl : BitVec 4) (x y src : Src) (tr : Bool)
  | trace (lit : Option W64) (sr : BitVec 6) (s any : Bool) (vr : BitVec 9) (vp : BitVec 9) (vd : Option (BitVec 9)) (tr : Bool)
  | hitrd (lit : Option W64) (w : Src) (d : Dst) (tr : Bool)
  -- STRM
  | sgen (zd : BitVec 3) (k : BitVec 4) (f32 : Bool) (lit : Option W64) (p : Src)
  | sand (zd za zb : BitVec 3)
  | sor (zd za zb : BitVec 3)
  | sandc (zd za zb : BitVec 3)
  | sorc (zd za zb : BitVec 3)
  | snot (zd za : BitVec 3)
  | smux (zd zc za zb : BitVec 3)
  | scnt (za : BitVec 3) (d : Dst) (tr : Bool)
  | scvtVal (za : BitVec 3) (d : Dst) (tr : Bool)
  | scvtDraw (k : BitVec 4) (d : Dst) (tr : Bool)
  | scvtWord (za : BitVec 3) (lit : Option W64) (w : Src) (d : Dst) (tr : Bool)
  | sregen (zd za : BitVec 3) (k : BitVec 4)
  | sseed (lit : Option W64) (a : Src)
  | slen (sub : BitVec 2)
  | scls (za : BitVec 3) (d : Dst) (tr : Bool)
  -- commands of the engines and fixed-function units
  | copyCmd (e : Engine)
  | copy2d (e : Engine)
  | fill (e : Engine)
  | convert (e : Engine)
  | decomp (e : Engine)
  | notify
  | run (cluster : Nat)
  | runComplete (cluster : Nat)
  | rasterRecord (tower : Nat) (k : BitVec 2)
  | close (tower : Nat) (k : BitVec 2)
  | tileClosed (pass tile : Nat)
  | classify (cluster : Nat)
  | tileRelease (pass tile : Nat)
  | fragmentRecord (tower : Nat)
  | advance (tower : Nat)
  -- translation, traps, scheduling, power
  | pageWalk (u : Walker) (ctx : Nat) (va : W64) (kind : Access)
  | trapEntry (t : Trap)
  | placeWorkgroup (launch : Nat) (ps : List Place)
  | workgroupEvict (group : Nat)
  | workgroupResume (group : Nat) (ps : List Place)
  | preemptDeadline (group : Nat)
  | matrixSetRelease (cluster : Nat)
  | quantumEnd
  | barometerWindow (cluster : Nat)
  | nearThresholdEntry (cluster group : Nat)
  | nearThresholdExit (cluster group : Nat)
  | yieldExpiry (warp : Nat)
  | icacheFill (cluster ctx line : Nat)
  | leaseRefill (cluster : Nat)
  | leaseTick (warp : Nat)
  | stackThermalChange (tower : Nat) (level : BitVec 2)
  | watchdogFire (ctx : Nat)
  | eccUncorrectable (site : EccSite)
  | contextStop (ctx : Nat)
  | contextResume (ctx : Nat)
  -- packets and CONFIG items, by the queue that holds them
  | launch (ctx qi : Nat)
  | copyPacket (ctx qi : Nat)
  | waitev (ctx qi : Nat)
  | signal (ctx qi : Nat)
  | mapupdInval (ctx qi : Nat)
  | mapupdInvalall (ctx qi : Nat)
  | mapupdWrite (ctx qi : Nat)
  | mapupdMigrate (ctx qi : Nat)
  | ctxnew (ctx qi : Nat)
  | ctxend (ctx qi : Nat)
  | queue (ctx qi : Nat)
  | l2part (ctx qi : Nat)
  | ltab (ctx qi : Nat)
  | ntab (ctx qi : Nat)
  | areas (ctx qi : Nat)
  | trapctl (ctx qi : Nat)
  | power (ctx qi : Nat)
  | weights (ctx qi : Nat)
  | sched (ctx qi : Nat)
  | quote (ctx qi : Nat)
  | peer (ctx qi : Nat)
  | ctxstat (ctx qi : Nat)
  | packetReread (ctx qi : Nat)
  -- the host link, firmware, peers, reset
  | ack (m : Msg)
  | write (m : Msg)
  | read (m : Msg)
  | kick (m : Msg)
  | complete (m : Msg)
  | sync (m : Msg)
  | hostReadResponse (m : Msg)
  | ackTimer
  | resendTimeout
  | hostWindowWrite (m : Msg)
  | standbyImageBoot (m : Msg)
  | standbyTakeover (failed : Bool)
  | peerAccess (warp : Nat) (data : List Byte)
  | deviceReset
  | peerJoin (p : Nat)
  | signedTestToken (token : List Byte)
  deriving DecidableEq, Repr

end Sys2Proof
end

