-- ==== Sys2Proof/Machine/Forms.lean ====
section
/-! DEFINITION. The forms of the instructions: which operands, types, modifiers and field values each minor takes
(02 R23 to R37, 08 R173 to R199 and the encoding rules of chapters 06, 07 and 09 to 15). `Instr.formOk` is the check
that WellFormed names; it stands in Machine so that a form can be mended. -/
namespace Sys2Proof.Machine

/-- What an operand field of a minor holds: nothing, a source of any kind, a mask (08 R198), or a 64-bit pair (08 R178). -/
inductive Slot where
  | no | src | msk | pair
  deriving DecidableEq, Repr

/-- What the destination of a minor is: a vector destination, a mask, or a register pair. -/
inductive DSlot where
  | vec | msk | pair
  deriving DecidableEq, Repr

/-- What MOD is to a minor: nothing, the rounding mode (whether stochastic rounding is valid), or a value below `n` (08 R176). -/
inductive ModKind where
  | none
  | round (sr : Bool)
  | upto (n : Nat)
  deriving DecidableEq, Repr

/-- The form of one minor of the arithmetic majors. `sign` has a bit for each slot that takes NEG and ABS with a float type. -/
structure Sig where
  a    : Slot
  b    : Slot
  c    : Slot
  d    : DSlot
  base : Bool
  a3   : Bool
  uni  : Bool
  vty  : List Ty
  uty  : List Ty
  vdef : Ty
  udef : Ty
  mod  : ModKind
  sat  : Bool
  sign : BitVec 3
  deriving DecidableEq, Repr

/-- The code of a type (02 Table 02-6). -/
def tyCode : Ty → Nat
  | .i32 => 0 | .n32 => 1 | .f32 => 2 | .f16 => 3 | .bf16 => 4 | .t8 => 5 | .t6 => 6 | .i8 => 7
  | .n8 => 8 | .i4 => 9 | .i16 => 10 | .n16 => 11 | .i64 => 12 | .n64 => 13 | .b32 => 14

/-- The type of a code; 15 is reserved (02 Table 02-6). -/
def tyOf : Nat → Option Ty
  | 0 => some .i32 | 1 => some .n32 | 2 => some .f32 | 3 => some .f16 | 4 => some .bf16 | 5 => some .t8 | 6 => some .t6
  | 7 => some .i8 | 8 => some .n8 | 9 => some .i4 | 10 => some .i16 | 11 => some .n16 | 12 => some .i64 | 13 => some .n64
  | 14 => some .b32 | _ => none

/-- Whether NEG and ABS act on the type (02 R34). -/
def tyFloat : Ty → Bool
  | .f32 | .f16 | .bf16 => true
  | _ => false

/-- Whether the type is 64 bits wide. -/
def tyWide : Ty → Bool
  | .i64 | .n64 => true
  | _ => false

/-- The MASK minors of format A (08 R198): type b32, no uniform form. -/
def maskOp (a b : Slot) (d : DSlot) : Sig :=
  ⟨a, b, .no, d, true, false, false, [.b32], [], .b32, .b32, .none, false, 0⟩
/-- INTA (08 R177, Table 08-1). -/
def inta2 : Sig := ⟨.src, .src, .no, .vec, true, false, true, [.i32, .n32], [.i32, .n32, .i64, .n64], .i32, .i64, .none, false, 0⟩
/-- IADD64 and ISUB64 (08 R178). -/
def pair2 : Sig := ⟨.pair, .pair, .no, .pair, true, false, true, [.i64, .n64], [.i64, .n64], .i64, .i64, .none, false, 0⟩
/-- INTB (08 R179). -/
def intb2 : Sig :=
  ⟨.src, .src, .no, .vec, true, false, true, [.b32, .i32, .n32], [.b32, .i32, .n32, .i64, .n64], .b32, .n64, .none, false, 0⟩
/-- CMP (08 R182): `n` conditions. -/
def cmpOp (vty uty : List Ty) (vdef udef : Ty) (n : Nat) (sign : BitVec 3) : Sig :=
  ⟨.src, .src, .no, .msk, true, false, true, vty, uty, vdef, udef, .upto n, false, sign⟩
/-- FLTA with two sources (08 R185). -/
def flt2 : Sig := ⟨.src, .src, .no, .vec, true, false, true, [.f32], [.f32], .f32, .f32, .none, false, 3⟩
/-- FLTA and FLTB with one source (08 R185, R187). -/
def flt1 : Sig := ⟨.src, .no, .no, .vec, true, false, true, [.f32], [.f32], .f32, .f32, .none, false, 1⟩
/-- PKD (08 R188): the first type is the base form's. -/
def pkd2 (tys : List Ty) (sign : BitVec 3) (m : ModKind) : Sig :=
  ⟨.src, .src, .no, .vec, true, false, false, tys, [], tys.headD .b32, .b32, m, false, sign⟩
/-- XLANE with one source (08 R196, R197, 11 R271). -/
def xl1 (tys : List Ty) (n : Nat) (sign : BitVec 3) : Sig :=
  ⟨.src, .no, .no, .vec, true, false, false, tys, [], tys.headD .b32, .b32, .upto n, false, sign⟩
/-- REDU and SCAN: f32 for ADD, MIN and MAX, b32 for AND, OR and XOR (08 R197). -/
def reduOp (mod : Nat) : Sig := xl1 ([.i32, .n32] ++ if mod < 3 then [.f32] else [.b32]) 6 1
/-- The types a vector conversion takes (08 R191). -/
def cvtTys : List Ty := [.i32, .n32, .f32, .f16, .bf16, .t8, .t6, .i8, .n8, .i4, .i16, .n16]
/-- The types narrower than 32 bits (08 R192 to R194). -/
def narrowTys : List Ty := [.f16, .bf16, .t8, .t6, .i8, .n8, .i4, .i16, .n16]
/-- The CVT major, extended only (08 Table 08-9). -/
def cvtOp : Sig := ⟨.src, .no, .no, .vec, false, false, false, cvtTys, [], .f32, .f32, .none, false, 1⟩

/-- The form of each minor of the arithmetic majors (02 Table 02-9, chapter 08); BCAST, REDU and SCAN depend on MOD. -/
def sigOf (maj mn mod : Nat) : Option Sig :=
  match maj, mn with
  | 2, 0 => some (maskOp .src .no .msk)
  | 2, 1 => some (maskOp .msk .no .vec)
  | 2, 2 => some (maskOp .msk .msk .msk)
  | 2, 3 => some (maskOp .msk .msk .msk)
  | 2, 4 => some (maskOp .msk .msk .msk)
  | 2, 5 => some (maskOp .msk .msk .msk)
  | 2, 6 => some (maskOp .msk .no .msk)
  | 2, 7 => some (maskOp .msk .no .vec)
  | 2, 8 => some (maskOp .msk .no .vec)
  | 4, 0 => some { inta2 with sat := true }
  | 4, 1 => some { inta2 with sat := true }
  | 4, 2 => some inta2
  | 4, 3 => some inta2
  | 4, 4 => some { inta2 with c := .src, a3 := true, sat := true }
  | 4, 5 => some inta2
  | 4, 6 => some inta2
  | 4, 7 => some { inta2 with b := .no, vty := [.i32], uty := [.i32, .i64], sat := true }
  | 4, 8 => some { inta2 with b := .no, sat := true }
  | 4, 9 => some inta2
  | 4, 10 => some inta2
  | 4, 11 => some { pair2 with b := .src, mod := .upto 8 }
  | 4, 12 => some pair2
  | 4, 13 => some pair2
  | 4, 14 => some inta2
  | 4, 15 => some inta2
  | 5, 0 => some intb2
  | 5, 1 => some intb2
  | 5, 2 => some intb2
  | 5, 3 => some intb2
  | 5, 4 => some { intb2 with b := .no }
  | 5, 5 => some intb2
  | 5, 6 => some intb2
  | 5, 7 => some intb2
  | 5, 8 => some intb2
  | 5, 9 => some { intb2 with c := .src, a3 := true }
  | 5, 10 => some { intb2 with c := .src, a3 := true }
  | 5, 11 => some { intb2 with b := .no }
  | 5, 12 => some { intb2 with b := .no }
  | 5, 13 => some { intb2 with b := .no }
  | 5, 14 => some { intb2 with c := .src, a3 := true }
  | 5, 15 => some { intb2 with b := .no }
  | 7, 0 => some (cmpOp [.i32] [.i32, .i64] .i32 .i64 6 0)
  | 7, 1 => some (cmpOp [.n32] [.n32, .n64] .n32 .n64 6 0)
  | 7, 2 => some (cmpOp [.f32] [.f32] .f32 .f32 8 3)
  | 7, 3 => some (cmpOp [.f32] [.f32] .f32 .f32 8 3)
  | 8, 0 => some { flt2 with mod := .round true }
  | 8, 1 => some { flt2 with mod := .round true }
  | 8, 2 => some { flt2 with mod := .round true }
  | 8, 3 => some { flt2 with c := .src, a3 := true, sign := 7, mod := .round true }
  | 8, 4 => some flt2
  | 8, 5 => some flt2
  | 8, 6 => some flt1
  | 8, 7 => some flt1
  | 8, 8 => some { flt1 with mod := .round false }
  | 8, 9 => some { flt1 with mod := .round false }
  | 8, 10 => some { flt2 with sign := 1, mod := .round true }
  | 8, 11 => some flt1
  | 8, 12 => some flt2
  | 8, 13 => some { flt2 with mod := .round true }
  | 8, 14 => some { flt1 with mod := .round true }
  | 9, 0 => some flt1
  | 9, 1 => some flt1
  | 9, 2 => some flt1
  | 9, 3 => some flt1
  | 9, 4 => some flt1
  | 9, 5 => some flt1
  | 9, 6 => some flt1
  | 9, 7 => some flt1
  | 10, 0 => some (pkd2 [.f16] 3 (.round false))
  | 10, 1 => some (pkd2 [.f16] 3 (.round false))
  | 10, 2 => some { pkd2 [.f16] 7 (.round false) with c := .src, a3 := true }
  | 10, 3 => some (pkd2 [.bf16] 3 (.round false))
  | 10, 4 => some (pkd2 [.bf16] 3 (.round false))
  | 10, 5 => some { pkd2 [.bf16] 7 (.round false) with c := .src, a3 := true }
  | 10, 6 => some (pkd2 [.i16, .n16] 0 .none)
  | 10, 7 => some (pkd2 [.i16, .n16] 0 .none)
  | 10, 8 => some (pkd2 [.i16, .n16] 0 .none)
  | 10, 9 => some (pkd2 [.i16, .n16] 0 .none)
  | 10, 10 => some (pkd2 [.i16, .n16] 0 .none)
  | 10, 11 => some { pkd2 [.t8] 0 (.round false) with c := .src, a3 := true }
  | 10, 12 => some { pkd2 [.i4] 0 .none with c := .src, a3 := true, sat := true }
  | 10, 13 => some (pkd2 [.b32] 0 .none)
  | 12, 0 => some { xl1 [.b32] 4 0 with b := .src }
  | 12, 1 => some (xl1 [.b32] 4 0)
  | 12, 2 => some (reduOp mod)
  | 12, 4 => some { xl1 [.b32] 3 0 with b := if mod = 2 then .src else .no }
  | 12, 5 => some (xl1 [.f32] 2 1)
  | 12, 6 => some (xl1 [.f32] 2 1)
  | 12, 7 => some (xl1 [.b32] 3 0)
  | 12, 3 => some (reduOp mod)
  | 11, 0 => some { cvtOp with uni := true, uty := cvtTys ++ [.i64, .n64], mod := .round true }
  | 11, 1 => some { cvtOp with b := .src, vty := narrowTys }
  | 11, 2 => some { cvtOp with b := .src, vty := narrowTys, mod := .round true }
  | 11, 3 => some { cvtOp with vty := narrowTys, sign := 0 }
  | _, _ => none

/-- One instruction of the arithmetic majors: its major and minor, operands, and what CVT and SCAN carry in EXT19. -/
structure Alu where
  maj  : Nat
  mn   : Nat
  op   : Op
  sty  : Ty
  sel  : BitVec 3
  excl : Bool
  deriving DecidableEq, Repr

/-- The arithmetic instructions, by major and minor (02 Table 02-9). -/
def aluOf : Instr → Option Alu
  | .mset o => some ⟨2, 0, o, .i32, 0, false⟩
  | .mget o => some ⟨2, 1, o, .i32, 0, false⟩
  | .mand o => some ⟨2, 2, o, .i32, 0, false⟩
  | .mor o => some ⟨2, 3, o, .i32, 0, false⟩
  | .mxor o => some ⟨2, 4, o, .i32, 0, false⟩
  | .mandn o => some ⟨2, 5, o, .i32, 0, false⟩
  | .mnot o => some ⟨2, 6, o, .i32, 0, false⟩
  | .mpop o => some ⟨2, 7, o, .i32, 0, false⟩
  | .mfirst o => some ⟨2, 8, o, .i32, 0, false⟩
  | .iadd o => some ⟨4, 0, o, .i32, 0, false⟩
  | .isub o => some ⟨4, 1, o, .i32, 0, false⟩
  | .imul o => some ⟨4, 2, o, .i32, 0, false⟩
  | .imulh o => some ⟨4, 3, o, .i32, 0, false⟩
  | .imad o => some ⟨4, 4, o, .i32, 0, false⟩
  | .imin o => some ⟨4, 5, o, .i32, 0, false⟩
  | .imax o => some ⟨4, 6, o, .i32, 0, false⟩
  | .iabs o => some ⟨4, 7, o, .i32, 0, false⟩
  | .ineg o => some ⟨4, 8, o, .i32, 0, false⟩
  | .iadds o => some ⟨4, 9, o, .i32, 0, false⟩
  | .isubs o => some ⟨4, 10, o, .i32, 0, false⟩
  | .lea o => some ⟨4, 11, o, .i32, 0, false⟩
  | .iadd64 o => some ⟨4, 12, o, .i32, 0, false⟩
  | .isub64 o => some ⟨4, 13, o, .i32, 0, false⟩
  | .idiv o => some ⟨4, 14, o, .i32, 0, false⟩
  | .irem o => some ⟨4, 15, o, .i32, 0, false⟩
  | .and o => some ⟨5, 0, o, .i32, 0, false⟩
  | .or o => some ⟨5, 1, o, .i32, 0, false⟩
  | .xor o => some ⟨5, 2, o, .i32, 0, false⟩
  | .andn o => some ⟨5, 3, o, .i32, 0, false⟩
  | .not o => some ⟨5, 4, o, .i32, 0, false⟩
  | .shl o => some ⟨5, 5, o, .i32, 0, false⟩
  | .shr o => some ⟨5, 6, o, .i32, 0, false⟩
  | .sra o => some ⟨5, 7, o, .i32, 0, false⟩
  | .rot o => some ⟨5, 8, o, .i32, 0, false⟩
  | .bfe o => some ⟨5, 9, o, .i32, 0, false⟩
  | .bfi o => some ⟨5, 10, o, .i32, 0, false⟩
  | .popc o => some ⟨5, 11, o, .i32, 0, false⟩
  | .clz o => some ⟨5, 12, o, .i32, 0, false⟩
  | .brev o => some ⟨5, 13, o, .i32, 0, false⟩
  | .sel o => some ⟨5, 14, o, .i32, 0, false⟩
  | .mov o => some ⟨5, 15, o, .i32, 0, false⟩
  | .icmp o => some ⟨7, 0, o, .i32, 0, false⟩
  | .icmpn o => some ⟨7, 1, o, .i32, 0, false⟩
  | .fcmp o => some ⟨7, 2, o, .i32, 0, false⟩
  | .fcmpx o => some ⟨7, 3, o, .i32, 0, false⟩
  | .fadd o => some ⟨8, 0, o, .i32, 0, false⟩
  | .fsub o => some ⟨8, 1, o, .i32, 0, false⟩
  | .fmul o => some ⟨8, 2, o, .i32, 0, false⟩
  | .ffma o => some ⟨8, 3, o, .i32, 0, false⟩
  | .fmin o => some ⟨8, 4, o, .i32, 0, false⟩
  | .fmax o => some ⟨8, 5, o, .i32, 0, false⟩
  | .fabs o => some ⟨8, 6, o, .i32, 0, false⟩
  | .fneg o => some ⟨8, 7, o, .i32, 0, false⟩
  | .frnd o => some ⟨8, 8, o, .i32, 0, false⟩
  | .ffrac o => some ⟨8, 9, o, .i32, 0, false⟩
  | .fldexp o => some ⟨8, 10, o, .i32, 0, false⟩
  | .fclass o => some ⟨8, 11, o, .i32, 0, false⟩
  | .fcopysign o => some ⟨8, 12, o, .i32, 0, false⟩
  | .fdiv o => some ⟨8, 13, o, .i32, 0, false⟩
  | .fsqrt o => some ⟨8, 14, o, .i32, 0, false⟩
  | .frcp o => some ⟨9, 0, o, .i32, 0, false⟩
  | .frsq o => some ⟨9, 1, o, .i32, 0, false⟩
  | .fexp2 o => some ⟨9, 2, o, .i32, 0, false⟩
  | .flog2 o => some ⟨9, 3, o, .i32, 0, false⟩
  | .fsinp o => some ⟨9, 4, o, .i32, 0, false⟩
  | .fcosp o => some ⟨9, 5, o, .i32, 0, false⟩
  | .ftanh o => some ⟨9, 6, o, .i32, 0, false⟩
  | .fsigm o => some ⟨9, 7, o, .i32, 0, false⟩
  | .hadd2 o => some ⟨10, 0, o, .i32, 0, false⟩
  | .hmul2 o => some ⟨10, 1, o, .i32, 0, false⟩
  | .hfma2 o => some ⟨10, 2, o, .i32, 0, false⟩
  | .badd2 o => some ⟨10, 3, o, .i32, 0, false⟩
  | .bmul2 o => some ⟨10, 4, o, .i32, 0, false⟩
  | .bfma2 o => some ⟨10, 5, o, .i32, 0, false⟩
  | .padd16 o => some ⟨10, 6, o, .i32, 0, false⟩
  | .psub16 o => some ⟨10, 7, o, .i32, 0, false⟩
  | .pmin16 o => some ⟨10, 8, o, .i32, 0, false⟩
  | .pmax16 o => some ⟨10, 9, o, .i32, 0, false⟩
  | .padds16 o => some ⟨10, 10, o, .i32, 0, false⟩
  | .pdot4t8 o => some ⟨10, 11, o, .i32, 0, false⟩
  | .pdot8i4 o => some ⟨10, 12, o, .i32, 0, false⟩
  | .pshf o => some ⟨10, 13, o, .i32, 0, false⟩
  | .shfl o => some ⟨12, 0, o, .i32, 0, false⟩
  | .vote o => some ⟨12, 1, o, .i32, 0, false⟩
  | .redu o => some ⟨12, 2, o, .i32, 0, false⟩
  | .bcast o => some ⟨12, 4, o, .i32, 0, false⟩
  | .qdx o => some ⟨12, 5, o, .i32, 0, false⟩
  | .qdy o => some ⟨12, 6, o, .i32, 0, false⟩
  | .qswp o => some ⟨12, 7, o, .i32, 0, false⟩
  | .scan o excl => some ⟨12, 3, o, .i32, 0, excl⟩
  | .cvt o sty sel => some ⟨11, 0, o, sty, sel, false⟩
  | .cvtsr o sty sel => some ⟨11, 1, o, sty, sel, false⟩
  | .pack o sty sel => some ⟨11, 2, o, sty, sel, false⟩
  | .unpack o sel => some ⟨11, 3, o, .i32, sel, false⟩
  | _ => none

/-- The instruction of a major and a minor with the operands given. -/
def mkAlu (x : Alu) : Option Instr :=
  match x.maj, x.mn with
  | 2, 0 => some (.mset x.op)
  | 2, 1 => some (.mget x.op)
  | 2, 2 => some (.mand x.op)
  | 2, 3 => some (.mor x.op)
  | 2, 4 => some (.mxor x.op)
  | 2, 5 => some (.mandn x.op)
  | 2, 6 => some (.mnot x.op)
  | 2, 7 => some (.mpop x.op)
  | 2, 8 => some (.mfirst x.op)
  | 4, 0 => some (.iadd x.op)
  | 4, 1 => some (.isub x.op)
  | 4, 2 => some (.imul x.op)
  | 4, 3 => some (.imulh x.op)
  | 4, 4 => some (.imad x.op)
  | 4, 5 => some (.imin x.op)
  | 4, 6 => some (.imax x.op)
  | 4, 7 => some (.iabs x.op)
  | 4, 8 => some (.ineg x.op)
  | 4, 9 => some (.iadds x.op)
  | 4, 10 => some (.isubs x.op)
  | 4, 11 => some (.lea x.op)
  | 4, 12 => some (.iadd64 x.op)
  | 4, 13 => some (.isub64 x.op)
  | 4, 14 => some (.idiv x.op)
  | 4, 15 => some (.irem x.op)
  | 5, 0 => some (.and x.op)
  | 5, 1 => some (.or x.op)
  | 5, 2 => some (.xor x.op)
  | 5, 3 => some (.andn x.op)
  | 5, 4 => some (.not x.op)
  | 5, 5 => some (.shl x.op)
  | 5, 6 => some (.shr x.op)
  | 5, 7 => some (.sra x.op)
  | 5, 8 => some (.rot x.op)
  | 5, 9 => some (.bfe x.op)
  | 5, 10 => some (.bfi x.op)
  | 5, 11 => some (.popc x.op)
  | 5, 12 => some (.clz x.op)
  | 5, 13 => some (.brev x.op)
  | 5, 14 => some (.sel x.op)
  | 5, 15 => some (.mov x.op)
  | 7, 0 => some (.icmp x.op)
  | 7, 1 => some (.icmpn x.op)
  | 7, 2 => some (.fcmp x.op)
  | 7, 3 => some (.fcmpx x.op)
  | 8, 0 => some (.fadd x.op)
  | 8, 1 => some (.fsub x.op)
  | 8, 2 => some (.fmul x.op)
  | 8, 3 => some (.ffma x.op)
  | 8, 4 => some (.fmin x.op)
  | 8, 5 => some (.fmax x.op)
  | 8, 6 => some (.fabs x.op)
  | 8, 7 => some (.fneg x.op)
  | 8, 8 => some (.frnd x.op)
  | 8, 9 => some (.ffrac x.op)
  | 8, 10 => some (.fldexp x.op)
  | 8, 11 => some (.fclass x.op)
  | 8, 12 => some (.fcopysign x.op)
  | 8, 13 => some (.fdiv x.op)
  | 8, 14 => some (.fsqrt x.op)
  | 9, 0 => some (.frcp x.op)
  | 9, 1 => some (.frsq x.op)
  | 9, 2 => some (.fexp2 x.op)
  | 9, 3 => some (.flog2 x.op)
  | 9, 4 => some (.fsinp x.op)
  | 9, 5 => some (.fcosp x.op)
  | 9, 6 => some (.ftanh x.op)
  | 9, 7 => some (.fsigm x.op)
  | 10, 0 => some (.hadd2 x.op)
  | 10, 1 => some (.hmul2 x.op)
  | 10, 2 => some (.hfma2 x.op)
  | 10, 3 => some (.badd2 x.op)
  | 10, 4 => some (.bmul2 x.op)
  | 10, 5 => some (.bfma2 x.op)
  | 10, 6 => some (.padd16 x.op)
  | 10, 7 => some (.psub16 x.op)
  | 10, 8 => some (.pmin16 x.op)
  | 10, 9 => some (.pmax16 x.op)
  | 10, 10 => some (.padds16 x.op)
  | 10, 11 => some (.pdot4t8 x.op)
  | 10, 12 => some (.pdot8i4 x.op)
  | 10, 13 => some (.pshf x.op)
  | 12, 0 => some (.shfl x.op)
  | 12, 1 => some (.vote x.op)
  | 12, 2 => some (.redu x.op)
  | 12, 4 => some (.bcast x.op)
  | 12, 5 => some (.qdx x.op)
  | 12, 6 => some (.qdy x.op)
  | 12, 7 => some (.qswp x.op)
  | 12, 3 => some (.scan x.op x.excl)
  | 11, 0 => some (.cvt x.op x.sty x.sel)
  | 11, 1 => some (.cvtsr x.op x.sty x.sel)
  | 11, 2 => some (.pack x.op x.sty x.sel)
  | 11, 3 => some (.unpack x.op x.sel)
  | _, _ => none

/-- The INTI instructions (08 R181), by minor. -/
def immOf : Instr → Option (Nat × Imm)
  | .iaddi i => some (0, i)
  | .andi i => some (1, i)
  | .ori i => some (2, i)
  | .xori i => some (3, i)
  | .shli i => some (4, i)
  | .shri i => some (5, i)
  | .srai i => some (6, i)
  | .movi i => some (7, i)
  | .icmpi i => some (8, i)
  | _ => none

/-- The INTI instruction of a minor. -/
def mkImm (mn : Nat) (i : Imm) : Option Instr :=
  match mn with
  | 0 => some (.iaddi i)
  | 1 => some (.andi i)
  | 2 => some (.ori i)
  | 3 => some (.xori i)
  | 4 => some (.shli i)
  | 5 => some (.shri i)
  | 6 => some (.srai i)
  | 7 => some (.movi i)
  | 8 => some (.icmpi i)
  | _ => none

/-- The ATOM instructions (06 R135), by minor. -/
def atomOf : Instr → Option (Nat × Atom)
  | .aadd o => some (0, o)
  | .amin o => some (1, o)
  | .amax o => some (2, o)
  | .aand o => some (3, o)
  | .aor o => some (4, o)
  | .axor o => some (5, o)
  | .axch o => some (6, o)
  | .acas o => some (7, o)
  | .afadd o => some (8, o)
  | .ainc o => some (9, o)
  | _ => none

/-- The ATOM instruction of a minor. -/
def mkAtom (mn : Nat) (o : Atom) : Option Instr :=
  match mn with
  | 0 => some (.aadd o)
  | 1 => some (.amin o)
  | 2 => some (.amax o)
  | 3 => some (.aand o)
  | 4 => some (.aor o)
  | 5 => some (.axor o)
  | 6 => some (.axch o)
  | 7 => some (.acas o)
  | 8 => some (.afadd o)
  | 9 => some (.ainc o)
  | _ => none

/-- A source of the extended form, of kind KIND 00 or 01 only with U = 0 (02 R30, R36). -/
def srcExt (u : Bool) : Src → Bool
  | .queue _ | .vec _ => !u
  | .sca _ | .lit | .zero | .one | .lane | .plane | .int _ => true
  | .msk _ | .unused => false

/-- A source that a 5-bit field can name (02 R23). -/
def srcBase (u : Bool) : Src → Bool
  | .queue _ => !u
  | .vec n => !u && n.toNat < 16
  | .sca n => u && n.toNat < 32
  | _ => false

/-- KIND 10, the literal or a small integer: what warp-scalar operands take (06 R143, 09 R208, R224, 12 R303). -/
def srcScalar : Src → Bool
  | .sca _ | .lit | .zero | .one | .int _ => true
  | _ => false

def isMsk : Src → Bool
  | .msk _ => true
  | _ => false

/-- A literal: named, it is present and, unless it feeds a 64-bit operand, its high half is zero; not named, it is
absent or all zero (02 R35). -/
def litOk (lit : Option W64) (named wide : Bool) : Bool :=
  match lit with
  | none => !named
  | some v => if named then wide || v.toNat < 2 ^ 32 else v == 0

/-- A named literal only: where an unnamed one is no form of the minor (09 R208, 10 R241). -/
def litNamed (lit : Option W64) (named wide : Bool) : Bool := litOk lit named wide && lit.isSome == named

/-- One source slot of an arithmetic instruction in extended form (02 R30, 08 R178, R198). -/
def slotExt (u : Bool) (s : Slot) (x : Src) : Bool :=
  match s with
  | .no => x == .unused
  | .src => srcExt u x
  | .msk => isMsk x
  | .pair => srcExt u x && (match x with | .queue _ => false | _ => true)

/-- One source slot in base form; SB may hold the literal (02 R28). -/
def slotBase (u : Bool) (s : Slot) (x : Src) : Bool :=
  match s with
  | .no => x == .unused
  | .src => srcBase u x
  | .msk => isMsk x
  | .pair => srcBase u x && (match x with | .queue _ => false | _ => true)

/-- The destination in extended form (02 R31, R36, 08 R178, R183, R198). -/
def dstExt (u : Bool) (s : DSlot) (x : Dst) : Bool :=
  match s, x with
  | .msk, .msk _ => !u
  | .msk, .sca _ => u
  | .msk, .discard => u
  | .msk, _ => false
  | _, .discard => true
  | _, .sca _ => u
  | _, .vec _ => !u
  | .vec, .queue => !u
  | _, _ => false

/-- The destination in base form (02 R23, R37, 08 R174, R178). -/
def dstBase (u : Bool) (s : DSlot) (x : Dst) : Bool :=
  match s, x with
  | .msk, .msk _ => !u
  | _, .sca n => u && n.toNat < 32
  | .vec, .queue => !u
  | .vec, .vec n => !u && n.toNat < 16
  | .pair, .vec n => !u && n.toNat < 16
  | _, _ => false

/-- MOD and RND of an arithmetic instruction (02 R24, R33, 08 R176). -/
def modOk (k : ModKind) (ext : Bool) (o : Op) : Bool :=
  match k with
  | .none => o.mod == 0 && o.rnd == .rne
  | .upto n => o.mod.toNat < n && o.rnd == .rne
  | .round sr => o.mod == 0 && (match o.rnd with | .sr _ => ext && sr | _ => true)

/-- NEG and ABS: only on used slots of a float type that the minor allows (02 R34). -/
def signOk (g : Sig) (ty : Ty) (o : Op) : Bool :=
  let m : BitVec 3 := if tyFloat ty then g.sign else 0
  (o.neg &&& ~~~m) == 0 && (o.abs &&& ~~~m) == 0

/-- Whether every operand that names the literal is 64 bits wide; `ty` is the type of the sources. -/
def litWide (g : Sig) (ty : Ty) (o : Op) : Bool :=
  let one (s : Slot) (x : Src) : Bool := x != .lit || s == .pair || (tyWide ty && g.a != .pair)
  one g.a o.a && one g.b o.b && one g.c o.c

/-- The form check of an arithmetic instruction: `ty` is the type its sources have (STYP in the CVT major). -/
def opOk (g : Sig) (ty : Ty) (o : Op) : Bool :=
  (!o.u || g.uni) &&
  modOk g.mod o.ext o &&
  (if o.ext then
    (if o.u then g.uty.contains o.ty else g.vty.contains o.ty) &&
    slotExt o.u g.a o.a && slotExt o.u g.b o.b && slotExt o.u g.c o.c && dstExt o.u g.d o.d &&
    (!o.sat || g.sat) && signOk g ty o &&
    litOk o.lit (o.a == .lit || o.b == .lit || o.c == .lit) (litWide g ty o)
  else
    g.base && o.ty == (if o.u then g.udef else g.vdef) && !o.sat && o.neg == 0 && o.abs == 0 &&
    slotBase o.u g.a o.a &&
    (if o.b == .lit then (g.b == .src || g.b == .pair) else slotBase o.u g.b o.b) && slotBase o.u g.c o.c &&
    litNamed o.lit (o.b == .lit) (g.b == .pair || (tyWide o.ty && g.a != .pair)) &&
    (if g.a3 then
      (if o.u then (match o.c, o.d with | .sca n, .sca k => n == k | _, _ => false) else o.d == .queue)
     else dstBase o.u g.d o.d))

/-- The element positions of a type within a 32-bit lane (08 R190). -/
def selCount : Ty → Nat
  | .f16 | .bf16 | .i16 | .n16 => 2
  | .t8 | .i8 | .n8 => 4
  | .t6 => 5
  | .i4 => 8
  | _ => 1

/-- STYP and SEL of the CVT major (08 R190 to R194). -/
def cvtOk (x : Alu) : Bool :=
  match x.mn with
  | 0 => (cvtTys.contains x.sty || (x.op.u && tyWide x.sty)) && x.sel.toNat < selCount x.sty
  | 1 => cvtTys.contains x.sty && x.sel.toNat < selCount x.sty
  | 2 => cvtTys.contains x.sty && x.sel.toNat < selCount x.op.ty
  | _ => x.sty == .i32 && x.sel.toNat < selCount x.op.ty

/-- The form check of the arithmetic majors. -/
def aluOk (x : Alu) : Bool :=
  match sigOf x.maj x.mn x.op.mod.toNat with
  | none => false
  | some g =>
    if x.maj == 11 then x.op.ext && opOk g (if x.mn == 3 then x.op.ty else x.sty) x.op && cvtOk x
    else opOk g x.op.ty x.op && (!x.excl || x.op.ext)

/-- The form check of INTI (08 R181): shifts leave IMM10[9:6] zero, MOVI with U = 0 leaves SA zero. -/
def immOk (mn : Nat) (i : Imm) : Bool :=
  (mn == 8 || i.mod == 0) &&
  (if mn == 7 && !i.u then i.a == .unused else srcBase i.u i.a) &&
  (!(mn == 4 || mn == 5 || mn == 6) || i.imm.toNat < 64)

/-- Bytes of an access size (02 R25). -/
def sizeBytes : Size → Nat
  | .byte => 1 | .half => 2 | .word => 4 | .double => 8 | .quad => 16

/-- A base-form vector source (02 R23). -/
def baseDst (d : Dst) : Bool :=
  match d with
  | .queue => true
  | .vec n => n.toNat < 16
  | _ => false

def isVec16 : Src → Bool
  | .vec n => n.toNat < 16
  | _ => false

/-- The form check of a load (06 Table 06-1): `pair` for LD64, `scratch` for LDS, `elem` for LDE. -/
def loadOk (pair scratch elem : Bool) (m : Load) : Bool :=
  (if pair then isVec16 m.adr && m.base == 0 else srcBase false m.adr) && baseDst m.dst &&
  (!scratch || m.hint == .default) && (!elem || m.size == .word)

/-- The form check of a store: a double or quad needs a named register range (06 R125). -/
def storeOk (pair hints elem : Bool) (m : Store) : Bool :=
  (if pair then isVec16 m.adr && m.base == 0 else srcBase false m.adr) && srcBase false m.src &&
  (hints || m.hint == .default) && (!elem || m.size == .word) && (decide (sizeBytes m.size ≤ 4) || isVec16 m.src)

/-- LDU and STU: scalar operands, at most a double, no hint (06 Table 06-1). -/
def uniOk (adr : Src) (size : Size) (hint : Hint) : Bool := srcBase true adr && size != .quad && hint == .default

def atomTyDouble (t : Ty) : Bool := tyWide t

/-- The form check of an atomic (06 R135): ACAS, minor 7, has no base form; AFADD, minor 8, is f32 and a word. -/
def atomOk (mn : Nat) : Atom → Bool
  | .base _ adr src double _ _ =>
    mn != 7 && srcBase false adr && srcBase false src && (!double || isVec16 src) && !(mn == 8 && double)
  | .ext a b c d ty _ _ _ =>
    let noQueue (x : Src) : Bool := !(tyWide ty) || (match x with | .queue _ => false | _ => true)
    srcExt false a && a != .lit && srcExt false b && b != .lit && noQueue b &&
    (if mn == 7 then srcExt false c && c != .lit && noQueue c else c == .unused) &&
    (if mn == 8 then ty == .f32 else [Ty.i32, .n32, .b32, .i64, .n64].contains ty) &&
    (match d with | .vec _ | .discard => true | .queue => !(tyWide ty) | _ => false)

/-- A destination of KIND 00 or queue only (09 R224, 10 Table 10-7, 11 Table 11-6). -/
def dstPush : Dst → Bool
  | .vec _ | .queue => true
  | _ => false

def litHigh (lit : W64) : Bool := lit.toNat < 2 ^ 32

/-- Widths of the special registers (07 Table 07-1); 0 for the reserved numbers. -/
def sprWidth (n : Nat) : Nat :=
  match n with
  | 0 | 15 => 128
  | 1 | 12 | 14 | 16 | 17 | 21 => 64
  | _ => if n < 24 then 32 else 0

/-- The HALF field and the register pair of SRD and SWR (07 R164, R165). -/
def sprOk (half : BitVec 2) (spr : BitVec 5) (s : BitVec 6) : Bool :=
  spr.toNat < 24 &&
  (if sprWidth spr.toNat == 128 then half != 3 && !(half == 0 && s.toNat % 2 == 1) else half == 0)

def tileOk (store : Bool) (t : TileRun) : Bool :=
  srcScalar t.b0 && srcScalar t.e0 && srcScalar t.n && [Ty.f32, .f16, .bf16, .i32].contains t.ty &&
  litOk t.lit (t.b0 == .lit || t.e0 == .lit || t.n == .lit) true &&
  (store || t.rnd == .rne || t.ty == .f16 || t.ty == .bf16)

def sampOk (m : Samp) (c : Src) : Bool :=
  srcExt false m.u && srcExt false m.v && m.addr != 3 && litOk m.lit (m.u == .lit || m.v == .lit || c == .lit) false

/-- An MTX descriptor: LEN = 11 exactly when OPA names the literal (09 R208). -/
def mtxOk (lit : Option W64) (a : Src) : Bool := srcScalar a && litNamed lit (a == .lit) true

def placeOk (p : Place) : Bool := p.core < 640 && p.groups.all (· < 4)

def engineOk : Engine → Bool
  | .copy c _ | .classify c | .attr c | .traverse c | .matrix c => c < 160
  | .dma t | .raster t _ | .blend t => t < 8
  | .sampler c => c < 640
  | .host | .peer => true

/-- Whether an instruction is one that its major's rules allow: every check of 02 Table 02-10 that the decoded
instruction still shows; for an event, that it names an agent the device has. -/
def formOk (i : Instr) : Bool :=
  match aluOf i, immOf i, atomOf i with
  | some x, _, _ => aluOk x
  | _, some (mn, m), _ => immOk mn m
  | _, _, some (mn, o) => atomOk mn o
  | none, none, none =>
    match i with
    | .srd half spr sd => sprOk half spr sd
    | .swr half spr ss => sprOk half spr ss
    | .swrLit half spr lit =>
      sprOk half spr 0 && !(sprWidth spr.toNat == 128 && half == 0) && (decide (64 ≤ sprWidth spr.toNat) || litHigh lit)
    | .lease units level _ => level != 3 && (if level == 0 then units == 0 else units != 0)
    | .claim _ n | .giveback n => 1 ≤ n.toNat && n.toNat ≤ 64
    | .claimLit _ n lit => 1 ≤ n.toNat && n.toNat ≤ 64 && litHigh lit
    | .waitmem _ _ _ cond _ => cond.toNat < 6
    | .waitmemLit lit w64 _ cond _ => cond.toNat < 6 && (w64 || litHigh lit)
    | .brm _ _ join => join.toNat % 4 == 0
    | .plsw lit a => srcExt false a && litOk lit (a == .lit) false
    | .loop lit n off _ =>
      srcScalar n && litOk lit (n == .lit) false && off.toNat < 2 ^ 18 && (if lit.isSome then 5 else 3) < off.toNat
    | .mlit _ half _ => half != 3
    | .ld m => loadOk false false false m
    | .lde m => loadOk false false true m
    | .lds m => loadOk false true false m
    | .ld64 m => loadOk true false false m
    | .st m => storeOk false true false m
    | .ste m => storeOk false true true m
    | .sts m | .ntst m => storeOk false false false m
    | .st64 m => storeOk true true false m
    | .ldu m => uniOk m.adr m.size m.hint && (match m.dst with | .sca n => n.toNat < 32 | _ => false)
    | .stu m => uniOk m.adr m.size m.hint && srcBase true m.src
    | .prf _ adr _ hint => srcBase false adr && hint != .evictFirst
    | .ldt lit h c d _ =>
      srcExt false h && litOk lit (h == .lit) false && (match c with | .queue _ | .vec _ | .sca _ => true | _ => false) &&
      (match d with | .vec _ | .queue | .discard => true | _ => false)
    | .stt lit h c src _ _ =>
      srcExt false h && srcExt false src && litOk lit (h == .lit || src == .lit) false &&
      (match c with | .queue _ | .vec _ | .sca _ => true | _ => false)
    | .lhbind lit h src _ =>
      (srcScalar h || h == .lane || h == .plane) && (match src with | .sca _ | .lit => true | _ => false) &&
      litOk lit (h == .lit || src == .lit) (h != .lit)
    | .lhinv lit h _ => (srcScalar h || h == .lane || h == .plane) && litOk lit (h == .lit) false
    | .lhq lit h k d _ =>
      srcExt false h && srcExt false k && litOk lit (h == .lit || k == .lit) false &&
      (match d with | .vec _ | .queue | .discard => true | _ => false)
    | .yldc _ k off => srcScalar k && k != .lit && off.toNat % 4 == 0
    | .tldv lit t sl d _ => srcScalar t && srcScalar sl && dstPush d && litOk lit (t == .lit || sl == .lit) false
    | .tstv _ lit t sl src _ =>
      srcScalar t && srcScalar sl && srcExt false src && litOk lit (t == .lit || sl == .lit || src == .lit) false
    | .tldg t => tileOk false t
    | .tstg t => tileOk true t
    | .mwait lit b _ => srcScalar b && litOk lit (b == .lit) false
    | .mtest _ lit b _ => srcScalar b && litOk lit (b == .lit) false
    | .mldb mode ty lit a =>
      mtxOk lit a && (if mode == 0 then [Ty.f32, .f16, .bf16, .t8, .t6, .i8].contains ty else ty == .i8)
    | .mlda ty lit a => mtxOk lit a && [Ty.f32, .f16, .bf16, .t8, .t6, .i8].contains ty
    | .mmul lit a | .mlutb lit a | .mzero lit a | .mwaitb lit a | .mwaitf lit a => mtxOk lit a
    | .mlut wc lit a => mtxOk lit a && wc != 0
    | .mdrain ty lit a _ => mtxOk lit a && [Ty.f32, .f16, .bf16].contains ty
    | .spawn lit h _ => srcScalar h && litOk lit (h == .lit) false && (match lit with | some v => v.toNat < 2 ^ 16 | none => true)
    | .spawnu lit h _ => srcScalar h && litOk lit (h == .lit) false && (match lit with | some v => v.toNat < 2 ^ 16 | none => true)
    | .bar n _ | .bara n _ => n.toNat ≤ 16
    | .frameq lane _ => lane.toNat ≤ 128
    | .sample m => sampOk m .unused
    | .samplel m lod => srcExt false lod && sampOk m lod
    | .sampleg m _ => sampOk m .unused
    | .imgld lit _ _ x y d _ => srcExt false x && srcExt false y && dstPush d && litOk lit (x == .lit || y == .lit) false
    | .imgst lit _ _ x y src _ =>
      srcExt false x && srcExt false y && srcExt false src && litOk lit (x == .lit || y == .lit || src == .lit) false
    | .trace lit _ s _ _ vp vd _ => litOk lit false false && (s || (vp == 0 && vd.isSome))
    | .hitrd lit w d _ => srcExt false w && dstPush d && litOk lit (w == .lit) false
    | .sgen _ _ _ lit p => srcExt false p && litNamed lit (p == .lit) false
    | .scnt _ d _ | .scvtVal _ d _ | .scvtDraw _ d _ | .scls _ d _ => dstPush d
    | .scvtWord _ lit w d _ => srcExt false w && dstPush d && litNamed lit (w == .lit) false
    | .sseed lit a => (match a with | .sca _ | .lit => true | _ => false) && litNamed lit (a == .lit) true
    | .slen sub => sub != 3
    | .batchComplete c | .isobarWindow c | .cimScrub c | .matrixOperationPerformed c | .run c | .runComplete c | .classify c
    | .matrixSetRelease c | .barometerWindow c | .leaseRefill c => c < 160
    | .nearThresholdEntry c g | .nearThresholdExit c g => c < 160 && g < 4
    | .icacheFill c _ _ => c < 160
    | .binLaunch c b p | .binTimerExpiry c b p => c < 160 && b < 64 && placeOk p
    | .continuationSteal _ c g => c < 640 && g < 4
    | .copyCmd e | .copy2d e | .fill e | .convert e | .decomp e => engineOk e
    | .rasterRecord t _ | .close t _ | .fragmentRecord t | .advance t => t < 8
    | .stackThermalChange t l => t < 8 && l != 3
    | .placeWorkgroup _ ps | .workgroupResume _ ps => ps.all placeOk
    | .peerJoin p => p < 4096
    | _ => true

end Sys2Proof.Machine
end

