-- ==== Sys2Proof/WellFormed.lean ====
section
/-! DEFINITION. Well-formed instructions: those that some encoding of chapter 02 stands for, and events of agents the
device has. The checks themselves are `Machine.formOk`. -/
namespace Sys2Proof

/-- An instruction that the device's encodings can hold (02 R23 to R37), or an event of an existing agent. -/
abbrev WellFormed (i : Instr) : Prop := Machine.formOk i = true

end Sys2Proof
end

