-- ==== Sys2Proof/Decode.lean ====
section
/-! DEFINITION. The decoder of chapter 02, total on any list of words, and after it the encoder written from the same
tables. Words are little-endian in memory (R17); the decoder takes them as numbers, first word first. -/
namespace Sys2Proof

open Machine

/-- Why a decoder refuses (02 R41): the words end early, the pair is unassigned or the fetching context may not run it
(ILLEGAL_INSTRUCTION), or some field holds a reserved value (ILLEGAL_ENCODING). -/
inductive Reject where
  | truncated
  | illegalInstruction
  | illegalEncoding
  deriving DecidableEq, Repr

/-- What fetches an instruction (02 Table 02-10): a warp, a trap handler, or a matrix sequencer. -/
inductive Where where
  | warp | handler | sequencer
  deriving DecidableEq, Repr

/-- The fields of word 0 (02 Table 02-1), with `x` its bits [31:13], the word E and the literal that LEN gives. -/
structure Raw where
  ext : Bool
  lit : Option W64
  maj : Nat
  u   : Nat
  mn  : Nat
  x   : Nat
  e   : Nat
  deriving DecidableEq, Repr

/-- The number of words that LEN gives (02 Table 02-2). -/
def wordCount (w0 : Nat) : Nat :=
  match w0 % 4 with
  | 0 => 1
  | 3 => 5
  | _ => 3

def twoWords (lo hi : W32) : Nat := lo.toNat + 2 ^ 32 * hi.toNat

/-- Word 0, then E, then the literal (02 R17, R18). -/
def rawOf (ws : List W32) : Option Raw :=
  match ws with
  | [] => none
  | w :: rest =>
    let w0 := w.toNat
    let mk (ext : Bool) (lit : Option W64) (e : Nat) : Raw :=
      ⟨ext, lit, bitsAt w0 2 6, bitsAt w0 8 1, bitsAt w0 9 4, bitsAt w0 13 19, e⟩
    match w0 % 4, rest with
    | 0, _ => some (mk false none 0)
    | 1, l0 :: l1 :: _ => some (mk false (some (BitVec.ofNat 64 (twoWords l0 l1))) 0)
    | 2, e0 :: e1 :: _ => some (mk true none (twoWords e0 e1))
    | 3, e0 :: e1 :: l0 :: l1 :: _ => some (mk true (some (BitVec.ofNat 64 (twoWords l0 l1))) (twoWords e0 e1))
    | _, _ => none

/-- The fields of E (02 Table 02-4). -/
structure Ext where
  a   : Nat
  b   : Nat
  c   : Nat
  d   : Nat
  rnd : Nat
  sat : Nat
  neg : Nat
  abs : Nat
  t   : Nat
  ty  : Nat
  x5  : Nat
  deriving DecidableEq, Repr

def extOf (e : Nat) : Ext :=
  ⟨bitsAt e 0 11, bitsAt e 11 11, bitsAt e 22 11, bitsAt e 33 11, bitsAt e 44 3, bitsAt e 47 1, bitsAt e 48 3,
    bitsAt e 51 3, bitsAt e 54 1, bitsAt e 55 4, bitsAt e 59 5⟩

/-- A source from an 11-bit specifier (02 Table 02-5). -/
def readSrc (n : Nat) : Option Src :=
  let r := n % 512
  match n / 512 with
  | 0 => some (.vec (BitVec.ofNat 9 r))
  | 1 => if r < 16 then some (.queue (BitVec.ofNat 4 r)) else none
  | 2 => if r < 64 then some (.sca (BitVec.ofNat 6 r)) else none
  | _ =>
    match r with
    | 0 => some .lit
    | 1 => some .zero
    | 2 => some .one
    | 3 => some .lane
    | 4 => some .plane
    | _ => if r < 21 then some (.int (BitVec.ofNat 4 (r - 5))) else none

/-- A specifier in a slot of a minor; a slot the minor does not use is zero (02 R30). -/
def readSlot (s : Slot) (n : Nat) : Option Src :=
  match s with
  | .no => if n = 0 then some .unused else none
  | .msk => if n < 32 then some (.msk (BitVec.ofNat 5 n)) else none
  | _ => readSrc n

/-- OPD (02 R31, 08 R183). -/
def readDst (s : DSlot) (u n : Nat) : Option Dst :=
  if s = .msk ∧ u = 0 then (if n < 32 then some (.msk (BitVec.ofNat 5 n)) else none)
  else if n = 0x601 then some .discard
  else if n = 0x200 then some .queue
  else
    match n / 512 with
    | 0 => some (.vec (BitVec.ofNat 9 n))
    | 2 => if n % 512 < 64 then some (.sca (BitVec.ofNat 6 n)) else none
    | _ => none

/-- A 5-bit source field (02 R23). -/
def readSrc5 (u n : Nat) : Src :=
  if u = 1 then .sca (BitVec.ofNat 6 n) else if n < 16 then .queue (BitVec.ofNat 4 n) else .vec (BitVec.ofNat 9 (n - 16))

def readSlot5 (s : Slot) (u n : Nat) : Option Src :=
  match s with
  | .no => if n = 0 then some .unused else none
  | .msk => some (.msk (BitVec.ofNat 5 n))
  | _ => some (readSrc5 u n)

/-- DS: 0 is the queue only, 1 to 15 are reserved (02 R23). -/
def readDst5 (u n : Nat) : Option Dst :=
  if u = 1 then some (.sca (BitVec.ofNat 6 n))
  else if n = 0 then some .queue
  else if n < 16 then none
  else some (.vec (BitVec.ofNat 9 (n - 16)))

def readDSlot5 (s : DSlot) (u n : Nat) : Option Dst :=
  match s with
  | .msk => if u = 1 then some (.sca (BitVec.ofNat 6 n)) else some (.msk (BitVec.ofNat 5 n))
  | _ => readDst5 u n

/-- RND with X5 (02 R33, Table 02-7). -/
def readRnd (rnd x5 : Nat) : Option Rnd :=
  match rnd with
  | 0 => if x5 = 0 then some .rne else none
  | 1 => if x5 = 0 then some .rtz else none
  | 2 => if x5 = 0 then some .rup else none
  | 3 => if x5 = 0 then some .rdn else none
  | 4 => if x5 = 0 then some .rna else none
  | 5 => if x5 < 16 then some (.sr (BitVec.ofNat 4 x5)) else none
  | 6 => if x5 = 0 then some .dyn else none
  | _ => none

/-- The operands of an arithmetic minor in extended form; `m` is the MOD that EXT19 carries (02 R29 to R35). -/
def readAluExt (g : Sig) (r : Raw) (m : Nat) : Option Op :=
  let e := extOf r.e
  match readSlot g.a e.a, readSlot g.b e.b, readSlot g.c e.c, readDst g.d r.u e.d, tyOf e.ty, readRnd e.rnd e.x5 with
  | some a, some b, some c, some d, some ty, some rnd =>
    some { ext := true, lit := r.lit, u := r.u == 1, ty, rnd, sat := e.sat == 1, neg := BitVec.ofNat 3 e.neg,
           abs := BitVec.ofNat 3 e.abs, tr := e.t == 1, mod := BitVec.ofNat 3 m, a, b, c, d }
  | _, _, _, _, _, _ => none

/-- The operands of an arithmetic minor in base form A or A3 (02 Table 02-3, R28, 08 R174, R176). -/
def readAluBase (g : Sig) (r : Raw) : Option Op :=
  let sa := bitsAt r.x 0 5
  let sb := bitsAt r.x 5 5
  let ds := bitsAt r.x 10 5
  let m := bitsAt r.x 16 3
  let b := if r.lit.isSome then (if sb = 0 then some .lit else none) else readSlot5 g.b r.u sb
  let c := if g.a3 then readSlot5 g.c r.u ds else some .unused
  let d := if g.a3 then (if r.u = 1 then some (.sca (BitVec.ofNat 6 ds)) else some .queue) else readDSlot5 g.d r.u ds
  let rnd := match g.mod with | .round _ => readRnd m 0 | _ => some .rne
  let mod := match g.mod with | .round _ => 0 | _ => m
  match readSlot5 g.a r.u sa, b, c, d, rnd with
  | some a, some b, some c, some d, some rnd =>
    some { ext := false, lit := r.lit, u := r.u == 1, ty := if r.u = 1 then g.udef else g.vdef, rnd, sat := false,
           neg := 0, abs := 0, tr := bitsAt r.x 15 1 == 1, mod := BitVec.ofNat 3 mod, a, b, c, d }
  | _, _, _, _, _ => none

/-- An instruction of the arithmetic majors: MOD decides the form of BCAST, REDU and SCAN, and EXT19 holds STYP and SEL
in the CVT major and EX in SCAN (08 Table 08-9, R195). -/
def readAlu (r : Raw) : Option Instr :=
  let m := if r.maj = 11 then 0 else if r.ext then r.x % 8 else bitsAt r.x 16 3
  match sigOf r.maj r.mn m with
  | none => none
  | some g =>
    let mk (o : Op) (sty : Ty) (sel : Nat) (excl : Bool) : Option Instr :=
      mkAlu ⟨r.maj, r.mn, o, sty, BitVec.ofNat 3 sel, excl⟩
    if r.maj = 11 then
      -- the fourth minor, UNPACK, has STYP fixed at 0 (08 Table 08-9)
      if r.ext ∧ r.x < 128 ∧ (r.mn < 3 ∨ r.x % 16 = 0) then
        match readAluExt g r 0, tyOf (r.x % 16) with
        | some o, some sty => mk o sty (r.x / 16) false
        | _, _ => none
      else none
    else if r.ext then
      if r.maj = 12 ∧ r.mn = 3 then
        if r.x < 16 then (readAluExt g r m).bind fun o => mk o .i32 0 (r.x / 8 == 1) else none
      else if r.x < 8 then (readAluExt g r m).bind fun o => mk o .i32 0 false else none
    else if g.base then (readAluBase g r).bind fun o => mk o .i32 0 false else none

/-- Whether the fields RND, SAT, NEG, ABS and X5 of E are all zero. -/
def Ext.quiet (e : Ext) : Bool := e.rnd == 0 && e.sat == 0 && e.neg == 0 && e.abs == 0 && e.x5 == 0

/-- An instruction of the SYS major, format S (02 R27, R28); word 0 has U = 0. -/
def readSys (r : Raw) : Option Instr :=
  let x := r.x
  let f (lo n : Nat) : Nat := bitsAt x lo n
  match r.mn, r.lit with
  | 0, none => if x = 0 then some .nop else none
  | 1, none => if x = 0 then some .exit else none
  | 2, none => if x < 2 ^ 16 then some (.brk (BitVec.ofNat 16 x)) else none
  | 3, none => if x < 2 ^ 16 then some (.trap (BitVec.ofNat 16 x)) else none
  | 4, none => if x < 2 then some (.rtt (x == 1)) else none
  | 5, none => if x < 2 ^ 10 then some (.yield (BitVec.ofNat 10 x)) else none
  | 6, none => some (.icpf (BitVec.ofNat 4 (f 15 4)) (BitVec.ofNat 15 (f 0 15)))
  | 7, none => if x < 2 ^ 13 then some (.srd (BitVec.ofNat 2 (f 11 2)) (BitVec.ofNat 5 (f 6 5)) (BitVec.ofNat 6 (f 0 6))) else none
  | 8, none => if x < 2 ^ 13 then some (.swr (BitVec.ofNat 2 (f 11 2)) (BitVec.ofNat 5 (f 6 5)) (BitVec.ofNat 6 (f 0 6))) else none
  | 8, some v => if x < 2 ^ 13 ∧ f 0 6 = 0 then some (.swrLit (BitVec.ofNat 2 (f 11 2)) (BitVec.ofNat 5 (f 6 5)) v) else none
  | 9, none => if x = 0 then some .ntdrain else none
  | 10, none => some (.lease (BitVec.ofNat 11 (f 8 11)) (BitVec.ofNat 2 (f 6 2)) (BitVec.ofNat 6 (f 0 6)))
  | 11, none => if x < 2 ^ 13 then some (.claim (BitVec.ofNat 6 (f 7 6)) (BitVec.ofNat 7 (f 0 7))) else none
  | 11, some v => if x < 2 ^ 13 then some (.claimLit (BitVec.ofNat 6 (f 7 6)) (BitVec.ofNat 7 (f 0 7)) v) else none
  | 12, none => if x < 2 ^ 7 then some (.giveback (BitVec.ofNat 7 x)) else none
  | 13, none =>
    if f 16 1 = 1 then
      some (.chmapC (BitVec.ofNat 2 (f 17 2)) (BitVec.ofNat 4 (f 12 4)) (BitVec.ofNat 3 (f 9 3)) (BitVec.ofNat 9 (f 0 9)))
    else if x < 2 ^ 12 then some (.chmapP (BitVec.ofNat 3 (f 9 3)) (BitVec.ofNat 9 (f 0 9))) else none
  | 14, none =>
    if x < 2 ^ 16 then
      some (.waitmem (BitVec.ofNat 6 (f 10 6)) (f 9 1 == 1) (f 8 1 == 1) (BitVec.ofNat 3 (f 5 3)) (BitVec.ofNat 5 (f 0 5)))
    else none
  | 14, some v =>
    if x < 2 ^ 10 then some (.waitmemLit v (f 9 1 == 1) (f 8 1 == 1) (BitVec.ofNat 3 (f 5 3)) (BitVec.ofNat 5 (f 0 5))) else none
  | _, _ => none

def isSca (n : Nat) : Bool := n / 512 == 2 && n % 512 < 64

/-- An instruction of the FLOW major (13 Table 13-2, R330). -/
def readFlow (r : Raw) : Option Instr :=
  let off := BitVec.ofNat 19 r.x
  if !r.ext then
    if r.u = 1 ∨ r.lit.isSome then none
    else
      match r.mn with
      | 0 => some (.bra off)
      | 5 => some (.call off)
      | 7 => if r.x = 0 then some .ret else none
      | _ => none
  else
    let e := extOf r.e
    let quiet := e.rnd == 0 && e.sat == 0 && e.neg == 0 && e.abs == 0 && e.t == 0 && e.d == 0x601
    let zero := quiet && e.x5 == 0
    let one (i : Instr) (c : Bool) : Option Instr := if c then some i else none
    let msk := BitVec.ofNat 5 e.a
    let only := r.lit.isNone && r.u == 0 && zero && e.ty == 0 && e.a < 32 && e.b == 0 && e.c == 0
    match r.mn with
    | 1 => one (.brs (e.x5 == 1) (BitVec.ofNat 6 e.a) off)
        (r.lit.isNone && r.u == 1 && quiet && e.x5 < 2 && e.ty == 0 && isSca e.a && e.b == 0 && e.c == 0)
    | 2 =>
      match r.lit with
      | some v => one (.brm msk off (v.setWidth 32))
          (litHigh v && r.u == 0 && zero && e.ty == 0 && e.a < 32 && e.b == 0x600 && e.c == 0)
      | none => none
    | 3 => one (.brany msk off) only
    | 4 => one (.brall msk off) only
    | 6 => one (.callm msk off) only
    | 8 => one (.plset msk (BitVec.ofNat 2 r.x)) (only && r.x < 4)
    | 9 =>
      match readSrc e.a with
      | some a => one (.plsw r.lit a) (r.u == 0 && zero && e.ty == 1 && r.x == 0 && e.b == 0 && e.c == 0)
      | none => none
    | 10 =>
      match readSrc e.a with
      | some a =>
        let step := if e.b = 0 ∧ e.c = 0 then none else some (BitVec.ofNat 6 e.b, BitVec.ofNat 6 e.c)
        one (.loop r.lit a off step)
          (r.u == 1 && zero && e.ty == 0 && ((e.b == 0 && e.c == 0) || (isSca e.b && isSca e.c)))
      | none => none
    | 11 => one (.loopx (e.x5 == 1) (BitVec.ofNat 6 e.a))
        (r.lit.isNone && r.u == 1 && quiet && e.x5 < 2 && e.ty == 0 && isSca e.a && e.b == 0 && e.c == 0 && r.x == 0)
    | _ => none

def sizeOfCode : Nat → Option Size
  | 0 => some .byte | 1 => some .half | 2 => some .word | 3 => some .double | 4 => some .quad | _ => none

def hintOf : Nat → Option Hint
  | 0 => some .default | 1 => some .evictFirst | 2 => some .keep | _ => none

/-- An instruction of the LDST major, format M (02 R25, 06 Table 06-1). -/
def readLdst (r : Raw) : Option Instr :=
  if r.ext then none
  else
    let adr := readSrc5 r.u (bitsAt r.x 0 5)
    let dat := bitsAt r.x 5 5
    let base := BitVec.ofNat 4 (bitsAt r.x 13 4)
    match sizeOfCode (bitsAt r.x 10 3), hintOf (bitsAt r.x 17 2) with
    | some size, some hint =>
      let load (k : Load → Instr) : Option Instr := (readDst5 r.u dat).map fun d => k ⟨r.lit, adr, d, size, base, hint⟩
      let store (k : Store → Instr) : Option Instr := some (k ⟨r.lit, adr, readSrc5 r.u dat, size, base, hint⟩)
      if (r.mn == 6 || r.mn == 7) != (r.u == 1) then none
      else
        match r.mn with
        | 0 => load .ld
        | 1 => store .st
        | 2 => load .lde
        | 3 => store .ste
        | 4 => load .lds
        | 5 => store .sts
        | 6 => load .ldu
        | 7 => store .stu
        | 8 => store .ntst
        | 9 => if size = .byte ∧ dat = 0 then some (.prf r.lit adr base hint) else none
        | 10 => load .ld64
        | 11 => store .st64
        | _ => none
    | _, _ => none

/-- An instruction of the ATOM major (06 R135). -/
def readAtom (r : Raw) : Option Instr :=
  if r.u = 1 then none
  else if r.ext then
    let e := extOf r.e
    if r.lit.isSome || !e.quiet || decide (2 ^ 6 ≤ r.x) then none
    else
      match readSrc e.a, readSrc e.b, readSlot (if r.mn = 7 then .src else .no) e.c, readDst .vec 0 e.d, tyOf e.ty with
      | some a, some b, some c, some d, some ty =>
        mkAtom r.mn (.ext a b c d ty (BitVec.ofNat 4 (r.x % 16)) (BitVec.ofNat 2 (r.x / 16)) (e.t == 1))
      | _, _, _, _, _ => none
  else
    let sz := bitsAt r.x 10 3
    if sz = 2 ∨ sz = 3 then
      mkAtom r.mn (.base r.lit (readSrc5 0 (bitsAt r.x 0 5)) (readSrc5 0 (bitsAt r.x 5 5)) (sz == 3)
        (BitVec.ofNat 4 (bitsAt r.x 13 4)) (BitVec.ofNat 2 (bitsAt r.x 17 2)))
    else none

/-- An instruction of the LAYOUT major (06 R142): TYP is b32, EXT19 is zero. -/
def readLayout (r : Raw) : Option Instr :=
  let e := extOf r.e
  if !r.ext || r.u == 1 || r.x != 0 || e.ty != 14 || e.sat != 0 || e.neg != 0 || e.abs != 0 then none
  else
    let tr := e.t == 1
    match r.mn with
    | 0 =>
      match readSrc e.a, readSrc e.b, readDst .vec 0 e.d with
      | some h, some c, some d => if e.quiet && e.c == 0 then some (.ldt r.lit h c d tr) else none
      | _, _, _ => none
    | 1 =>
      match readSrc e.a, readSrc e.b, readSrc e.c, readRnd e.rnd e.x5 with
      | some h, some c, some s, some rnd => if e.d = 0x601 then some (.stt r.lit h c s rnd tr) else none
      | _, _, _, _ => none
    | 2 =>
      match readSrc e.a, readSrc e.b with
      | some h, some s => if e.quiet && e.c == 0 && e.d == 0x601 then some (.lhbind r.lit h s tr) else none
      | _, _ => none
    | 3 =>
      match readSrc e.a with
      | some h => if e.quiet && e.b == 0 && e.c == 0 && e.d == 0x601 then some (.lhinv r.lit h tr) else none
      | none => none
    | 4 =>
      match readSrc e.a, readSrc e.b, readDst .vec 0 e.d with
      | some h, some k, some d => if e.quiet && e.c == 0 then some (.lhq r.lit h k d tr) else none
      | _, _, _ => none
    | _ => none

/-- An instruction of the ENGINE major (06 R146, R151, R152). -/
def readEngine (r : Raw) : Option Instr :=
  let f (lo n : Nat) : Nat := bitsAt r.x lo n
  if r.u = 1 then none
  else if r.ext then
    let e := extOf r.e
    match r.mn, r.lit, readSrc e.a with
    | 1, some v, some k =>
      if r.x < 16 && e.quiet && e.t == 0 && e.ty == 0 && e.b == 0x600 && e.c == 0 && e.d == 0x601 && litHigh v then
        some (.yldc (BitVec.ofNat 4 r.x) k (v.setWidth 32))
      else none
    | _, _, _ => none
  else if r.lit.isSome then none
  else
    match r.mn with
    | 0 => if r.x < 2 ^ 13 then some (.push (BitVec.ofNat 6 (f 7 6)) (BitVec.ofNat 3 (f 4 3)) (BitVec.ofNat 4 (f 0 4))) else none
    | 2 => if r.x < 2 ^ 9 then some (.cwait (BitVec.ofNat 5 (f 4 5)) (BitVec.ofNat 4 (f 0 4))) else none
    | 3 => if r.x < 2 ^ 10 then some (.ctest (BitVec.ofNat 6 (f 4 6)) (BitVec.ofNat 4 (f 0 4))) else none
    | _ => none

/-- An instruction of the TILE major (06 R143, 09 R224, R226). -/
def readTile (r : Raw) : Option Instr :=
  let e := extOf r.e
  let tr := e.t == 1
  if !r.ext || r.u == 1 || e.sat != 0 || e.neg != 0 || e.abs != 0 then none
  else
    let run (k : TileRun → Instr) : Option Instr :=
      match readSrc e.a, readSrc e.b, readSrc e.c, tyOf e.ty, readRnd e.rnd e.x5 with
      | some b0, some e0, some n, some ty, some rnd =>
        if e.d = 0x601 ∧ r.x < 2 ^ 15 then
          some (k ⟨r.lit, BitVec.ofNat 7 (r.x % 128), BitVec.ofNat 8 (r.x / 128), ty, rnd, b0, e0, n, tr⟩)
        else none
      | _, _, _, _, _ => none
    match r.mn with
    | 0 =>
      match readSrc e.a, readSrc e.b, readDst .vec 0 e.d with
      | some t, some s, some d => if e.quiet && e.c == 0 && e.ty == 14 && r.x == 0 then some (.tldv r.lit t s d tr) else none
      | _, _, _ => none
    | 1 =>
      match readSrc e.a, readSrc e.b, readSrc e.c with
      | some t, some s, some v =>
        if e.quiet && e.d == 0x601 && e.ty == 14 && r.x < 2 then some (.tstv (r.x == 1) r.lit t s v tr) else none
      | _, _, _ => none
    | 2 => run .tldg
    | 3 => run .tstg
    | 4 =>
      match readSrc e.a with
      | some b =>
        if e.quiet && e.b == 0 && e.c == 0 && e.d == 0x601 && e.ty == 1 && r.x == 0 then some (.mwait r.lit b tr) else none
      | none => none
    | 5 =>
      match readSrc e.a with
      | some b =>
        if e.quiet && e.b == 0 && e.c == 0 && e.d == 0x601 && e.ty == 1 && r.x < 64 then
          some (.mtest (BitVec.ofNat 6 r.x) r.lit b tr)
        else none
      | none => none
    | _ => none

/-- OPD of MDRAIN and MBATCH: a scalar or discard (09 Table 09-4). -/
def readOptSca (n : Nat) : Option (Option (BitVec 6)) :=
  if n = 0x601 then some none else if isSca n then some (some (BitVec.ofNat 6 n)) else none

/-- An instruction of the MTX major (09 R208, Table 09-4). -/
def readMtx (r : Raw) : Option Instr :=
  let e := extOf r.e
  if !r.ext || r.u == 0 || !e.quiet || e.t != 0 || e.b != 0 || e.c != 0 then none
  else
    let plain (k : Option W64 → Src → Instr) : Option Instr :=
      if e.ty = 0 ∧ r.x = 0 ∧ e.d = 0x601 then (readSrc e.a).map (k r.lit) else none
    match r.mn with
    | 0 =>
      match tyOf e.ty, readSrc e.a with
      | some ty, some a => if e.d = 0x601 ∧ r.x < 4 then some (.mldb (BitVec.ofNat 2 r.x) ty r.lit a) else none
      | _, _ => none
    | 1 =>
      match tyOf e.ty, readSrc e.a with
      | some ty, some a => if e.d = 0x601 ∧ r.x = 0 then some (.mlda ty r.lit a) else none
      | _, _ => none
    | 2 => plain .mmul
    | 3 => plain .mlutb
    | 4 => if e.ty = 0 ∧ r.x < 4 ∧ e.d = 0x601 then (readSrc e.a).map (.mlut (BitVec.ofNat 2 r.x) r.lit) else none
    | 5 => plain .mzero
    | 6 =>
      match tyOf e.ty, readSrc e.a, readOptSca e.d with
      | some ty, some a, some d => if r.x = 0 then some (.mdrain ty r.lit a d) else none
      | _, _, _ => none
    | 7 => if e.ty = 0 ∧ r.x = 0 ∧ e.a = 0 ∧ r.lit.isNone then (readOptSca e.d).map .mbatch else none
    | 8 => plain .mwaitb
    | 9 => plain .mwaitf
    | _ => none

/-- An instruction of the SYNC major (12 R302, R303, R307 to R311). -/
def readSync (r : Raw) : Option Instr :=
  let f (lo n : Nat) : Nat := bitsAt r.x lo n
  if r.u = 1 then none
  else if r.ext then
    let e := extOf r.e
    if r.x != 0 || !e.quiet || e.t != 0 || e.c != 0 || e.d != 0x601 || e.ty != 14 then none
    else
      match r.mn, readSrc e.a, readSrc e.b with
      | 0, some h, some (.vec n) => some (.spawn r.lit h n)
      | 1, some h, some (.sca n) => some (.spawnu r.lit h n)
      | _, _, _ => none
  else if r.lit.isSome then none
  else
    match r.mn with
    | 2 => if r.x = 0 then some .await else none
    | 3 => if r.x < 2 ^ 8 then some (.bar (BitVec.ofNat 5 (f 3 5)) (BitVec.ofNat 3 (f 0 3))) else none
    | 4 => if r.x < 2 ^ 8 then some (.bara (BitVec.ofNat 5 (f 3 5)) (BitVec.ofNat 3 (f 0 3))) else none
    | 5 => if r.x < 2 ^ 3 then some (.barw (BitVec.ofNat 3 r.x)) else none
    | 6 => if r.x < 2 ^ 12 then some (.nodeq (BitVec.ofNat 6 (f 6 6)) (BitVec.ofNat 6 (f 0 6))) else none
    | 7 => if r.x < 2 ^ 14 then some (.frameq (BitVec.ofNat 8 (f 6 8)) (BitVec.ofNat 6 (f 0 6))) else none
    | _ => none

/-- An instruction of the GFX major (11 R273, Table 11-6). -/
def readGfx (r : Raw) : Option Instr :=
  let e := extOf r.e
  let tr := e.t == 1
  if !r.ext || r.u == 1 || !e.quiet then none
  else
    let si := BitVec.ofNat 6 (r.x % 64)
    let samp (k : Samp → Instr) : Option Instr :=
      match readSrc e.a, readSrc e.b with
      | some u, some v =>
        if e.ty = 2 ∧ r.x < 2 ^ 9 ∧ e.d < 512 then
          some (k ⟨r.lit, si, BitVec.ofNat 2 (bitsAt r.x 6 2), bitsAt r.x 8 1 == 1, u, v, BitVec.ofNat 9 e.d, tr⟩)
        else none
      | _, _ => none
    match r.mn with
    | 0 => if e.c = 0 then samp .sample else none
    | 1 =>
      match readSrc e.c with
      | some l => samp fun m => .samplel m l
      | none => none
    | 2 => if e.c < 512 then samp fun m => .sampleg m (BitVec.ofNat 9 e.c) else none
    | 3 =>
      match readSrc e.a, readSrc e.b, readDst .vec 0 e.d with
      | some x, some y, some d =>
        if e.c == 0 && e.ty == 14 && r.x < 2 ^ 10 then some (.imgld r.lit si (BitVec.ofNat 4 (r.x / 64)) x y d tr) else none
      | _, _, _ => none
    | 4 =>
      match readSrc e.a, readSrc e.b, readSrc e.c with
      | some x, some y, some s =>
        if e.d == 0x601 && e.ty == 14 && r.x < 2 ^ 10 then some (.imgst r.lit si (BitVec.ofNat 4 (r.x / 64)) x y s tr) else none
      | _, _, _ => none
    | 5 =>
      let vd := if e.d = 0x601 then some none else if e.d < 512 then some (some (BitVec.ofNat 9 e.d)) else none
      match vd with
      | some vd =>
        if e.a < 512 && e.b < 512 && e.c == 0 && e.ty == 14 && r.x < 2 ^ 8 then
          some (.trace r.lit si (bitsAt r.x 6 1 == 1) (bitsAt r.x 7 1 == 1) (BitVec.ofNat 9 e.a) (BitVec.ofNat 9 e.b) vd tr)
        else none
      | none => none
    | 6 =>
      match readSrc e.a, readDst .vec 0 e.d with
      | some w, some d => if e.b == 0 && e.c == 0 && e.ty == 14 && r.x == 0 then some (.hitrd r.lit w d tr) else none
      | _, _ => none
    | _ => none

/-- An instruction of the STRM major (10 Tables 10-6, 10-7). -/
def readStrm (r : Raw) : Option Instr :=
  let e := extOf r.e
  let x := r.x
  let z (lo : Nat) : BitVec 3 := BitVec.ofNat 3 (bitsAt x lo 3)
  let k := BitVec.ofNat 4 (bitsAt x 12 4)
  let used (ms : List (Nat × Nat)) : Bool := x == joinBits ms
  let tr := e.t == 1
  if !r.ext || r.u == 1 || !e.quiet || e.b != 0 || e.c != 0 then none
  else
    let one (i : Instr) (c : Bool) : Option Instr := if c then some i else none
    let bare (ty : Nat) : Bool := r.lit.isNone && e.a == 0 && e.ty == ty
    let quietD : Bool := e.d == 0x601 && e.t == 0
    let zd := z 0
    let za := z 3
    let zb := z 6
    let tri : Bool := used [(3, bitsAt x 0 3), (3, bitsAt x 3 3), (3, bitsAt x 6 3)]
    let two : Bool := used [(3, bitsAt x 0 3), (3, bitsAt x 3 3)]
    let onlyZa : Bool := used [(3, 0), (3, bitsAt x 3 3)]
    match r.mn with
    | 0 =>
      match readSrc e.a with
      | some p =>
        one (.sgen zd k (e.ty == 2) r.lit p)
          (quietD && (e.ty == 2 || e.ty == 1) && used [(3, bitsAt x 0 3), (9, 0), (4, bitsAt x 12 4)])
      | none => none
    | 1 => one (.sand zd za zb) (bare 14 && quietD && tri)
    | 2 => one (.sor zd za zb) (bare 14 && quietD && tri)
    | 3 => one (.sandc zd za zb) (bare 14 && quietD && tri)
    | 4 => one (.sorc zd za zb) (bare 14 && quietD && tri)
    | 5 => one (.snot zd za) (bare 14 && quietD && two)
    | 6 => one (.smux zd (z 9) za zb) (bare 14 && quietD && decide (x < 2 ^ 12))
    | 7 => (readDst .vec 0 e.d).bind fun d => one (.scnt za d tr) (bare 1 && onlyZa)
    | 8 =>
      match bitsAt x 16 2, readDst .vec 0 e.d with
      | 0, some d => one (.scvtVal za d tr) (bare 2 && onlyZa)
      | 1, some d => one (.scvtDraw k d tr) (bare 1 && x == 2 ^ 16 + 2 ^ 12 * bitsAt x 12 4)
      | 2, some d =>
        match readSrc e.a with
        | some w => one (.scvtWord za r.lit w d tr) (e.ty == 14 && x == 2 ^ 17 + 8 * bitsAt x 3 3)
        | none => none
      | _, _ => none
    | 9 => one (.sregen zd za k)
        (bare 14 && quietD && used [(3, bitsAt x 0 3), (3, bitsAt x 3 3), (6, 0), (4, bitsAt x 12 4)])
    | 10 =>
      match readSrc e.a with
      | some a => one (.sseed r.lit a) (quietD && e.ty == 13 && x == 0)
      | none => none
    | 11 => one (.slen (BitVec.ofNat 2 (bitsAt x 16 2))) (bare 14 && quietD && x == 2 ^ 16 * bitsAt x 16 2)
    | 12 => (readDst .vec 0 e.d).bind fun d => one (.scls za d tr) (bare 14 && onlyZa)
    | _ => none

/-- MLIT (08 R199): LEN = 11, OPA the literal, TYP b32, everything else zero. -/
def readMlit (r : Raw) : Option Instr :=
  let e := extOf r.e
  match r.ext, r.lit with
  | true, some v =>
    if r.u == 0 && e.quiet && e.t == 0 && e.a == 0x600 && e.b == 0 && e.c == 0 && e.d < 32 && e.ty == 14 && r.x < 4 then
      some (.mlit v (BitVec.ofNat 2 r.x) (BitVec.ofNat 5 e.d))
    else none
  | _, _ => none

/-- INTI, format I: no literal and no extended form (02 R28, 08 R181). -/
def readInti (r : Raw) : Option Instr :=
  if r.ext || r.lit.isSome then none
  else
    let sa := bitsAt r.x 0 5
    let a := if r.mn = 7 ∧ r.u = 0 then (if sa = 0 then some Src.unused else none) else some (readSrc5 r.u sa)
    a.bind fun a =>
      mkImm r.mn ⟨r.u == 1, bitsAt r.x 15 1 == 1, BitVec.ofNat 3 (bitsAt r.x 16 3), BitVec.ofNat 10 (bitsAt r.x 5 10), a⟩

/-- Minors of each major (02 Table 02-9); 0 for an unassigned major, the diagnostic majors 0x3C to 0x3F among them (R43). -/
def minorCount (maj : Nat) : Nat :=
  match maj with
  | 0x00 => 15 | 0x01 => 12 | 0x02 => 10 | 0x04 => 16 | 0x05 => 16 | 0x06 => 9 | 0x07 => 4 | 0x08 => 15 | 0x09 => 8
  | 0x0A => 14 | 0x0B => 4 | 0x0C => 8 | 0x10 => 12 | 0x11 => 10 | 0x12 => 5 | 0x13 => 4 | 0x14 => 6 | 0x15 => 10
  | 0x16 => 8 | 0x17 => 7 | 0x18 => 13 | _ => 0

/-- The sequencer's subset (09 Table 09-2): U = 0 forms of the arithmetic majors are not in it (02 Table 02-10). -/
def inSubset (maj mn u : Nat) : Bool :=
  match maj with
  | 0x00 => mn == 0 || mn == 1 || mn == 6 || mn == 7 || mn == 8
  | 0x01 => mn == 0 || mn == 1 || mn == 5 || mn == 7 || mn == 10 || mn == 11
  | 0x04 | 0x05 | 0x06 | 0x07 | 0x08 | 0x09 => u == 1
  | 0x0B => mn == 0 && u == 1
  | 0x10 => mn == 6 || mn == 7
  | 0x13 => mn == 0
  | 0x15 => true
  | _ => false

/-- What a trap handler may not run (15 R369): EXIT, BRK, TRAP, PLSET, PLSW, SPAWN, SPAWNU, AWAIT, BAR, BARA, BARW. -/
def notInHandler (maj mn : Nat) : Bool :=
  match maj with
  | 0x00 => mn == 1 || mn == 2 || mn == 3
  | 0x01 => mn == 8 || mn == 9
  | 0x16 => mn < 6
  | _ => false

/-- Whether the fetching context may run the pair at all (02 R41, 09 R204, 15 R369, R374). -/
def assigned (w : Where) (r : Raw) : Bool :=
  decide (r.mn < minorCount r.maj) &&
  (match w with
   | .warp => r.maj != 0x15 && !(r.maj == 0 && r.mn == 4)
   | .handler => r.maj != 0x15 && !notInHandler r.maj r.mn
   | .sequencer => inSubset r.maj r.mn r.u)

/-- The instruction that the fields hold, whatever fetches it; none for a reserved value that the fields show. -/
def readInstr (r : Raw) : Option Instr :=
  match r.maj with
  | 0x00 => if r.ext || r.u == 1 then none else readSys r
  | 0x01 => readFlow r
  | 0x02 => if r.mn = 9 then readMlit r else readAlu r
  | 0x06 => readInti r
  | 0x10 => readLdst r
  | 0x11 => readAtom r
  | 0x12 => readLayout r
  | 0x13 => readEngine r
  | 0x14 => readTile r
  | 0x15 => readMtx r
  | 0x16 => readSync r
  | 0x17 => readGfx r
  | 0x18 => readStrm r
  | _ => readAlu r

/-- The sources that an instruction names, for the handler-queue check of 15 R368. -/
def srcsOf (i : Instr) : List Src :=
  match aluOf i, immOf i, atomOf i with
  | some x, _, _ => [x.op.a, x.op.b, x.op.c]
  | _, some (_, m), _ => [m.a]
  | _, _, some (_, .base _ adr src _ _ _) => [adr, src]
  | _, _, some (_, .ext a b c _ _ _ _ _) => [a, b, c]
  | none, none, none =>
    match i with
    | .ld m | .lde m | .lds m | .ldu m | .ld64 m => [m.adr]
    | .st m | .ste m | .sts m | .stu m | .ntst m | .st64 m => [m.adr, m.src]
    | .prf _ adr _ _ => [adr]
    | .plsw _ a => [a]
    | .ldt _ h c _ _ => [h, c]
    | .stt _ h c s _ _ => [h, c, s]
    | .lhq _ h k _ _ => [h, k]
    | .tstv _ _ _ _ s _ => [s]
    | .sample m => [m.u, m.v]
    | .samplel m l => [m.u, m.v, l]
    | .sampleg m _ => [m.u, m.v]
    | .imgld _ _ _ x y _ _ => [x, y]
    | .imgst _ _ _ x y s _ => [x, y, s]
    | .hitrd _ w _ _ => [w]
    | .sgen _ _ _ _ p => [p]
    | .scvtWord _ _ w _ _ => [w]
    | _ => []

/-- Whether no source is a queue entry of age 9 to 16, which a handler's queue does not have (15 R368). -/
def youngOnly (i : Instr) : Bool :=
  (srcsOf i).all fun s => match s with | .queue n => n.toNat < 8 | _ => true

/-- The instruction that a context fetches in these words, or why it refuses them (02 R41; ILLEGAL_INSTRUCTION comes
before ILLEGAL_ENCODING, R42). -/
def decode (w : Where) (ws : List W32) : Except Reject Instr :=
  match rawOf ws with
  | none => .error .truncated
  | some r =>
    if !assigned w r then .error .illegalInstruction
    else
      match readInstr r with
      | none => .error .illegalEncoding
      | some i => if formOk i && (w != .handler || youngOnly i) then .ok i else .error .illegalEncoding

/-! ### The encoder -/

def srcCode : Src → Nat
  | .vec n => n.toNat
  | .queue n => 512 + n.toNat
  | .sca n => 1024 + n.toNat
  | .msk n => n.toNat
  | .lit => 1536 | .zero => 1537 | .one => 1538 | .lane => 1539 | .plane => 1540
  | .int n => 1541 + n.toNat
  | .unused => 0

def dstCode : Dst → Nat
  | .vec n => n.toNat
  | .queue => 512
  | .sca n => 1024 + n.toNat
  | .msk n => n.toNat
  | .discard => 1537

def srcCode5 : Src → Nat
  | .queue n => n.toNat
  | .vec n => 16 + n.toNat
  | .sca n => n.toNat
  | .msk n => n.toNat
  | _ => 0

def dstCode5 : Dst → Nat
  | .vec n => 16 + n.toNat
  | .sca n => n.toNat
  | .msk n => n.toNat
  | _ => 0

def rndCode : Rnd → Nat
  | .rne => 0 | .rtz => 1 | .rup => 2 | .rdn => 3 | .rna => 4 | .sr _ => 5 | .dyn => 6

def rndX5 : Rnd → Nat
  | .sr k => k.toNat
  | _ => 0

def bit (b : Bool) : Nat := if b then 1 else 0

/-- The word E of the fields (02 Table 02-4). -/
def extWord (e : Ext) : Nat :=
  joinBits [(11, e.a), (11, e.b), (11, e.c), (11, e.d), (3, e.rnd), (1, e.sat), (3, e.neg), (3, e.abs), (1, e.t), (4, e.ty), (5, e.x5)]

/-- E with the operands, the type and T given, and the rest zero. -/
def extPlain (a b c d ty : Nat) (t : Bool) : Nat := extWord ⟨a, b, c, d, 0, 0, 0, 0, bit t, ty, 0⟩

def rawS (maj mn : Nat) (lit : Option W64) (x : List (Nat × Nat)) : Raw := ⟨false, lit, maj, 0, mn, joinBits x, 0⟩
def rawX (maj u mn : Nat) (lit : Option W64) (x : List (Nat × Nat)) (e : Nat) : Raw := ⟨true, lit, maj, u, mn, joinBits x, e⟩

/-- The fields of an arithmetic instruction. -/
def aluRaw (x : Alu) : Raw :=
  let o := x.op
  let u := bit o.u
  if o.ext then
    let x19 := if x.maj = 11 then tyCode x.sty + 16 * x.sel.toNat else o.mod.toNat + 8 * bit x.excl
    ⟨true, o.lit, x.maj, u, x.mn, x19,
      extWord ⟨srcCode o.a, srcCode o.b, srcCode o.c, dstCode o.d, rndCode o.rnd, bit o.sat, o.neg.toNat, o.abs.toNat,
        bit o.tr, tyCode o.ty, rndX5 o.rnd⟩⟩
  else
    let m := match (sigOf x.maj x.mn o.mod.toNat).map (·.mod) with | some (.round _) => rndCode o.rnd | _ => o.mod.toNat
    let ds := match (sigOf x.maj x.mn o.mod.toNat).map (·.a3) with | some true => srcCode5 o.c | _ => dstCode5 o.d
    ⟨false, o.lit, x.maj, u, x.mn, joinBits [(5, srcCode5 o.a), (5, srcCode5 o.b), (5, ds), (1, bit o.tr), (3, m)], 0⟩

def sizeCode : Size → Nat
  | .byte => 0 | .half => 1 | .word => 2 | .double => 3 | .quad => 4

def hintCode : Hint → Nat
  | .default => 0 | .evictFirst => 1 | .keep => 2

/-- Format M (02 R25). -/
def rawM (maj u mn : Nat) (lit : Option W64) (adr dat sz sb hnt : Nat) : Raw :=
  ⟨false, lit, maj, u, mn, joinBits [(5, adr), (5, dat), (3, sz), (4, sb), (2, hnt)], 0⟩

def loadRaw (u mn : Nat) (m : Load) : Raw :=
  rawM 0x10 u mn m.lit (srcCode5 m.adr) (dstCode5 m.dst) (sizeCode m.size) m.base.toNat (hintCode m.hint)

def storeRaw (u mn : Nat) (m : Store) : Raw :=
  rawM 0x10 u mn m.lit (srcCode5 m.adr) (srcCode5 m.src) (sizeCode m.size) m.base.toNat (hintCode m.hint)

def atomRaw (mn : Nat) : Atom → Raw
  | .base lit adr src double sb ord => rawM 0x11 0 mn lit (srcCode5 adr) (srcCode5 src) (if double then 3 else 2) sb.toNat ord.toNat
  | .ext a b c d ty sb ord tr =>
    rawX 0x11 0 mn none [(4, sb.toNat), (2, ord.toNat)] (extPlain (srcCode a) (srcCode b) (srcCode c) (dstCode d) (tyCode ty) tr)

def tileRaw (mn : Nat) (t : TileRun) : Raw :=
  rawX 0x14 0 mn t.lit [(7, t.tile.toNat), (8, t.ofs.toNat)]
    (extWord ⟨srcCode t.b0, srcCode t.e0, srcCode t.n, 0x601, rndCode t.rnd, 0, 0, 0, bit t.tr, tyCode t.ty, rndX5 t.rnd⟩)

def sampRaw (mn : Nat) (m : Samp) (c : Nat) : Raw :=
  rawX 0x17 0 mn m.lit [(6, m.si.toNat), (2, m.addr.toNat), (1, bit m.near)]
    (extPlain (srcCode m.u) (srcCode m.v) c m.d.toNat 2 m.tr)

def mtxRaw (mn x : Nat) (lit : Option W64) (a d ty : Nat) : Raw := rawX 0x15 1 mn lit [(2, x)] (extPlain a 0 0 d ty false)

def optSca : Option (BitVec 6) → Nat
  | none => 0x601
  | some n => 1024 + n.toNat

def strmRaw (mn zd za zb zc k sub : Nat) (lit : Option W64) (a d ty : Nat) (tr : Bool) : Raw :=
  rawX 0x18 0 mn lit [(3, zd), (3, za), (3, zb), (3, zc), (4, k), (2, sub)] (extPlain a 0 0 d ty tr)

/-- The fields of an instruction; none for an event, which has no encoding. -/
def rawOfInstr (i : Instr) : Option Raw :=
  match aluOf i, immOf i, atomOf i with
  | some x, _, _ => some (aluRaw x)
  | _, some (mn, m), _ =>
    some ⟨false, none, 6, bit m.u, mn, joinBits [(5, srcCode5 m.a), (10, m.imm.toNat), (1, bit m.tr), (3, m.mod.toNat)], 0⟩
  | _, _, some (mn, o) => some (atomRaw mn o)
  | none, none, none =>
    match i with
    | .nop => some (rawS 0 0 none [])
    | .exit => some (rawS 0 1 none [])
    | .brk c => some (rawS 0 2 none [(16, c.toNat)])
    | .trap c => some (rawS 0 3 none [(16, c.toNat)])
    | .rtt s => some (rawS 0 4 none [(1, bit s)])
    | .yield c => some (rawS 0 5 none [(10, c.toNat)])
    | .icpf l d => some (rawS 0 6 none [(15, d.toNat), (4, l.toNat)])
    | .srd h r s => some (rawS 0 7 none [(6, s.toNat), (5, r.toNat), (2, h.toNat)])
    | .swr h r s => some (rawS 0 8 none [(6, s.toNat), (5, r.toNat), (2, h.toNat)])
    | .swrLit h r v => some (rawS 0 8 (some v) [(6, 0), (5, r.toNat), (2, h.toNat)])
    | .ntdrain => some (rawS 0 9 none [])
    | .lease n l s => some (rawS 0 10 none [(6, s.toNat), (2, l.toNat), (11, n.toNat)])
    | .claim s n => some (rawS 0 11 none [(7, n.toNat), (6, s.toNat)])
    | .claimLit s n v => some (rawS 0 11 (some v) [(7, n.toNat), (6, s.toNat)])
    | .giveback n => some (rawS 0 12 none [(7, n.toNat)])
    | .chmapC r d c n => some (rawS 0 13 none [(9, n.toNat), (3, c.toNat), (4, d.toNat), (1, 1), (2, r.toNat)])
    | .chmapP c n => some (rawS 0 13 none [(9, n.toNat), (3, c.toNat)])
    | .waitmem v w q c a => some (rawS 0 14 none [(5, a.toNat), (3, c.toNat), (1, bit q), (1, bit w), (6, v.toNat)])
    | .waitmemLit v w q c a => some (rawS 0 14 (some v) [(5, a.toNat), (3, c.toNat), (1, bit q), (1, bit w)])
    | .bra off => some (rawS 1 0 none [(19, off.toNat)])
    | .call off => some (rawS 1 5 none [(19, off.toNat)])
    | .ret => some (rawS 1 7 none [])
    | .brs z a off => some (rawX 1 1 1 none [(19, off.toNat)] (extWord ⟨1024 + a.toNat, 0, 0, 0x601, 0, 0, 0, 0, 0, 0, bit z⟩))
    | .brm m off join => some (rawX 1 0 2 (some (join.setWidth 64)) [(19, off.toNat)] (extPlain m.toNat 0x600 0 0x601 0 false))
    | .brany m off => some (rawX 1 0 3 none [(19, off.toNat)] (extPlain m.toNat 0 0 0x601 0 false))
    | .brall m off => some (rawX 1 0 4 none [(19, off.toNat)] (extPlain m.toNat 0 0 0x601 0 false))
    | .callm m off => some (rawX 1 0 6 none [(19, off.toNat)] (extPlain m.toNat 0 0 0x601 0 false))
    | .plset m p => some (rawX 1 0 8 none [(2, p.toNat)] (extPlain m.toNat 0 0 0x601 0 false))
    | .plsw lit a => some (rawX 1 0 9 lit [] (extPlain (srcCode a) 0 0 0x601 1 false))
    | .loop lit n off step =>
      let bc := match step with | none => (0, 0) | some (b, c) => (1024 + b.toNat, 1024 + c.toNat)
      some (rawX 1 1 10 lit [(19, off.toNat)] (extPlain (srcCode n) bc.1 bc.2 0x601 0 false))
    | .loopx z a => some (rawX 1 1 11 none [] (extWord ⟨1024 + a.toNat, 0, 0, 0x601, 0, 0, 0, 0, 0, 0, bit z⟩))
    | .mlit v half d => some (rawX 2 0 9 (some v) [(2, half.toNat)] (extPlain 0x600 0 0 d.toNat 14 false))
    | .ld m => some (loadRaw 0 0 m)
    | .st m => some (storeRaw 0 1 m)
    | .lde m => some (loadRaw 0 2 m)
    | .ste m => some (storeRaw 0 3 m)
    | .lds m => some (loadRaw 0 4 m)
    | .sts m => some (storeRaw 0 5 m)
    | .ldu m => some (loadRaw 1 6 m)
    | .stu m => some (storeRaw 1 7 m)
    | .ntst m => some (storeRaw 0 8 m)
    | .prf lit adr base hint => some (rawM 0x10 0 9 lit (srcCode5 adr) 0 0 base.toNat (hintCode hint))
    | .ld64 m => some (loadRaw 0 10 m)
    | .st64 m => some (storeRaw 0 11 m)
    | .ldt lit h c d tr => some (rawX 0x12 0 0 lit [] (extPlain (srcCode h) (srcCode c) 0 (dstCode d) 14 tr))
    | .stt lit h c s rnd tr =>
      some (rawX 0x12 0 1 lit [] (extWord ⟨srcCode h, srcCode c, srcCode s, 0x601, rndCode rnd, 0, 0, 0, bit tr, 14, rndX5 rnd⟩))
    | .lhbind lit h s tr => some (rawX 0x12 0 2 lit [] (extPlain (srcCode h) (srcCode s) 0 0x601 14 tr))
    | .lhinv lit h tr => some (rawX 0x12 0 3 lit [] (extPlain (srcCode h) 0 0 0x601 14 tr))
    | .lhq lit h k d tr => some (rawX 0x12 0 4 lit [] (extPlain (srcCode h) (srcCode k) 0 (dstCode d) 14 tr))
    | .push s c e => some (rawS 0x13 0 none [(4, e.toNat), (3, c.toNat), (6, s.toNat)])
    | .yldc e k off => some (rawX 0x13 0 1 (some (off.setWidth 64)) [(4, e.toNat)] (extPlain (srcCode k) 0x600 0 0x601 0 false))
    | .cwait k e => some (rawS 0x13 2 none [(4, e.toNat), (5, k.toNat)])
    | .ctest s e => some (rawS 0x13 3 none [(4, e.toNat), (6, s.toNat)])
    | .tldv lit t s d tr => some (rawX 0x14 0 0 lit [] (extPlain (srcCode t) (srcCode s) 0 (dstCode d) 14 tr))
    | .tstv p lit t s v tr => some (rawX 0x14 0 1 lit [(1, bit p)] (extPlain (srcCode t) (srcCode s) (srcCode v) 0x601 14 tr))
    | .tldg t => some (tileRaw 2 t)
    | .tstg t => some (tileRaw 3 t)
    | .mwait lit b tr => some (rawX 0x14 0 4 lit [] (extPlain (srcCode b) 0 0 0x601 1 tr))
    | .mtest sd lit b tr => some (rawX 0x14 0 5 lit [(6, sd.toNat)] (extPlain (srcCode b) 0 0 0x601 1 tr))
    | .mldb mode ty lit a => some (mtxRaw 0 mode.toNat lit (srcCode a) 0x601 (tyCode ty))
    | .mlda ty lit a => some (mtxRaw 1 0 lit (srcCode a) 0x601 (tyCode ty))
    | .mmul lit a => some (mtxRaw 2 0 lit (srcCode a) 0x601 0)
    | .mlutb lit a => some (mtxRaw 3 0 lit (srcCode a) 0x601 0)
    | .mlut wc lit a => some (mtxRaw 4 wc.toNat lit (srcCode a) 0x601 0)
    | .mzero lit a => some (mtxRaw 5 0 lit (srcCode a) 0x601 0)
    | .mdrain ty lit a d => some (mtxRaw 6 0 lit (srcCode a) (optSca d) (tyCode ty))
    | .mbatch d => some (mtxRaw 7 0 none 0 (optSca d) 0)
    | .mwaitb lit a => some (mtxRaw 8 0 lit (srcCode a) 0x601 0)
    | .mwaitf lit a => some (mtxRaw 9 0 lit (srcCode a) 0x601 0)
    | .spawn lit h n => some (rawX 0x16 0 0 lit [] (extPlain (srcCode h) n.toNat 0 0x601 14 false))
    | .spawnu lit h n => some (rawX 0x16 0 1 lit [] (extPlain (srcCode h) (1024 + n.toNat) 0 0x601 14 false))
    | .await => some (rawS 0x16 2 none [])
    | .bar n k => some (rawS 0x16 3 none [(3, k.toNat), (5, n.toNat)])
    | .bara n k => some (rawS 0x16 4 none [(3, k.toNat), (5, n.toNat)])
    | .barw k => some (rawS 0x16 5 none [(3, k.toNat)])
    | .nodeq sh sd => some (rawS 0x16 6 none [(6, sd.toNat), (6, sh.toNat)])
    | .frameq l sd => some (rawS 0x16 7 none [(6, sd.toNat), (8, l.toNat)])
    | .sample m => some (sampRaw 0 m 0)
    | .samplel m l => some (sampRaw 1 m (srcCode l))
    | .sampleg m vg => some (sampRaw 2 m vg.toNat)
    | .imgld lit si lvl x y d tr =>
      some (rawX 0x17 0 3 lit [(6, si.toNat), (4, lvl.toNat)] (extPlain (srcCode x) (srcCode y) 0 (dstCode d) 14 tr))
    | .imgst lit si lvl x y s tr =>
      some (rawX 0x17 0 4 lit [(6, si.toNat), (4, lvl.toNat)] (extPlain (srcCode x) (srcCode y) (srcCode s) 0x601 14 tr))
    | .trace lit sr s any vr vp vd tr =>
      some (rawX 0x17 0 5 lit [(6, sr.toNat), (1, bit s), (1, bit any)]
        (extPlain vr.toNat vp.toNat 0 (match vd with | none => 0x601 | some d => d.toNat) 14 tr))
    | .hitrd lit w d tr => some (rawX 0x17 0 6 lit [] (extPlain (srcCode w) 0 0 (dstCode d) 14 tr))
    | .sgen zd k f lit p => some (strmRaw 0 zd.toNat 0 0 0 k.toNat 0 lit (srcCode p) 0x601 (if f then 2 else 1) false)
    | .sand zd za zb => some (strmRaw 1 zd.toNat za.toNat zb.toNat 0 0 0 none 0 0x601 14 false)
    | .sor zd za zb => some (strmRaw 2 zd.toNat za.toNat zb.toNat 0 0 0 none 0 0x601 14 false)
    | .sandc zd za zb => some (strmRaw 3 zd.toNat za.toNat zb.toNat 0 0 0 none 0 0x601 14 false)
    | .sorc zd za zb => some (strmRaw 4 zd.toNat za.toNat zb.toNat 0 0 0 none 0 0x601 14 false)
    | .snot zd za => some (strmRaw 5 zd.toNat za.toNat 0 0 0 0 none 0 0x601 14 false)
    | .smux zd zc za zb => some (strmRaw 6 zd.toNat za.toNat zb.toNat zc.toNat 0 0 none 0 0x601 14 false)
    | .scnt za d tr => some (strmRaw 7 0 za.toNat 0 0 0 0 none 0 (dstCode d) 1 tr)
    | .scvtVal za d tr => some (strmRaw 8 0 za.toNat 0 0 0 0 none 0 (dstCode d) 2 tr)
    | .scvtDraw k d tr => some (strmRaw 8 0 0 0 0 k.toNat 1 none 0 (dstCode d) 1 tr)
    | .scvtWord za lit w d tr => some (strmRaw 8 0 za.toNat 0 0 0 2 lit (srcCode w) (dstCode d) 14 tr)
    | .sregen zd za k => some (strmRaw 9 zd.toNat za.toNat 0 0 k.toNat 0 none 0 0x601 14 false)
    | .sseed lit a => some (strmRaw 10 0 0 0 0 0 0 lit (srcCode a) 0x601 13 false)
    | .slen sub => some (strmRaw 11 0 0 0 0 0 sub.toNat none 0 0x601 14 false)
    | .scls za d tr => some (strmRaw 12 0 za.toNat 0 0 0 0 none 0 (dstCode d) 14 tr)
    | _ => none

def wordsOf (n : Nat) : List W32 := [BitVec.ofNat 32 n, BitVec.ofNat 32 (n / 2 ^ 32)]

/-- Word 0, E and the literal of the fields (02 Tables 02-1, 02-2). -/
def wordsOfRaw (r : Raw) : List W32 :=
  BitVec.ofNat 32 (joinBits [(2, 2 * bit r.ext + bit r.lit.isSome), (6, r.maj), (1, r.u), (4, r.mn), (19, r.x)]) ::
    ((if r.ext then wordsOf r.e else []) ++ (match r.lit with | some v => wordsOf v.toNat | none => []))

/-- The words of an instruction (02 R18), none for an event. -/
def encode (i : Instr) : Option (List W32) := (rawOfInstr i).map wordsOfRaw

/-- The instruction that the decoder reads from bits numbered from bit 0 of the first word, with zeros above `nbits`; a
matrix instruction is read as the sequencer reads it, RTT as a handler does, every other as a warp does. -/
def decodeTableWord (nbits w : Nat) : Option Instr :=
  let v := w % 2 ^ nbits
  let ws : List W32 := (List.range 5).map fun k => BitVec.ofNat 32 (v / 2 ^ (32 * k))
  let w0 := v % 2 ^ 32
  let wh : Where := if bitsAt w0 2 6 = 0x15 then .sequencer else if bitsAt w0 2 11 = 0x200 then .handler else .warp
  match decode wh ws with
  | .ok i => some i
  | .error _ => none

end Sys2Proof
end

