-- ==== Sys2Proof/Machine/State.lean ====
section
/-! DEFINITION. The state of the UC640: plain data, every piece of state that the manual names, and the reset state.
Tables are lists of (key, value) pairs with keys strictly rising; an absent key reads as the value at reset. -/
namespace Sys2Proof.Machine

/-- A table: (key, value) pairs, keys strictly rising. -/
abbrev Tab (α : Type) := List (Nat × α)

/-- Bytes of memory by address: addresses strictly rising, no entry zero, which an unlisted address reads as (log 4). -/
abbrev Mem := List Host.Cell

/-- One register or queue entry: 128 lanes of 32 bits (07 R153, R157). -/
structure Vec where
  l : List W32
  deriving DecidableEq, Repr

/-- A vector of zeros. -/
def Vec.zero : Vec := ⟨List.replicate 128 0⟩

/-- An entry of a result queue: the value and its T mark (07 R153, R154). -/
structure QEntry where
  v  : Vec
  tr : Bool
  deriving DecidableEq, Repr

/-- Kinds of reconvergence stack entries (13 Table 13-1). -/
inductive SKind where
  | path | reconv | call | trap | loop
  deriving DecidableEq, Repr

/-- A reconvergence stack entry (13 Table 13-1, 15 Table 15-2). -/
structure SEntry where
  mask   : Mask
  rpc    : W32
  resume : W32
  kind   : SKind
  inc    : Bool
  sb     : BitVec 6
  sc     : BitVec 6
  count  : W32
  cause  : BitVec 8
  log    : BitVec 4
  mode   : BitVec 2
  deriving DecidableEq, Repr

/-- One lane of a stream register (10 Table 10-1). -/
structure ZLane where
  bits : BitVec 1024
  cls  : BitVec 16
  void : Bool
  deriving DecidableEq, Repr

/-- %fpmode (04 Table 04-9) and %fpflags (04 Table 04-10). -/
structure Fp where
  rm    : BitVec 3
  ftz   : Bool
  flags : BitVec 5
  deriving DecidableEq, Repr

/-- %sseed (10 Table 10-3). -/
structure Seed where
  a     : BitVec 16
  b     : BitVec 16
  ibase : BitVec 16
  draw  : BitVec 16
  deriving DecidableEq, Repr

/-- A Tailwind lease (14 R355, Table 14-3): whole units left, level, and fabric cycles run of the current unit. -/
structure Lease where
  rem    : Nat
  level  : Nat
  paused : Bool
  ran    : Nat
  deriving DecidableEq, Repr

/-- The read-modify-write operations of 06 Table 06-3. -/
inductive AOp where
  | add | min | max | and | or | xor | xch | cas | fadd | inc
  deriving DecidableEq, Repr

/-- What a logged instruction does, with the operand values it read at issue, lane by lane (15 R365). Virtual addresses,
offsets, data and element numbers are lists of 128 values. -/
inductive MemOp where
  | load (va : List W64) (size : Nat) (hint : Hint)
  | store (va : List W64) (size : Nat) (data : List Nat) (hint : Hint) (nt : Bool)
  | scratchLoad (off : List W64) (size : Nat)
  | scratchStore (off : List W64) (size : Nat) (data : List Nat)
  | uload (va : W64) (size : Nat)
  | ustore (va : W64) (size : Nat) (data : Nat)
  | loadElem (b0 : W64) (e : List W32) (hint : Hint)
  | storeElem (b0 : W64) (e data : List W32) (hint : Hint)
  | atomic (op : AOp) (va : List W64) (size : Nat) (sgn : Bool) (d c : List Nat) (ord : BitVec 2) (returns : Bool)
  | ldt (h : List W32) (coord : List (Option (List W32)))
  | stt (h : List W32) (coord : List (Option (List W32))) (data : List W32) (rnd : Rnd) (seed : Seed)
  | lhbind (h : W32) (src : W64)
  | lhinv (h : W32)
  | lhq (h k : List W32)
  | tile (store : Bool) (tile ofs : Nat) (ty : Ty) (rnd : Rnd) (b0 e0 n : W64) (done : Nat) (flags : BitVec 5)
  | waitmem (va : W64) (size : Nat) (cond : BitVec 3) (v : W64) (acq : Bool)
  | sample (form : Nat) (desc : W64) (addr : BitVec 2) (near : Bool) (u v l0 l1 l2 l3 : List W32)
  | imgld (desc : W64) (lvl : Nat) (x y : List W32)
  | imgst (desc : W64) (lvl : Nat) (x y data : List W32)
  | trace (root : W64) (s any : Bool) (ray par : List (List W32))
  deriving DecidableEq, Repr

/-- A logged access of one plane's issue: its operation, the issuing lanes, its address and words, its own offset and the next, its
destination, whether it pushed a queue entry, and the channel slots that its destination registers have reserved (07 R169): register,
channel and tag. -/
structure Req where
  op    : MemOp
  lanes : Mask
  pc    : W64
  words : List W32
  at_   : W32
  next  : W32
  dst   : Dst
  pushes : Bool
  slots : List (Nat × Nat × Nat)
  deriving DecidableEq, Repr

/-- What a blocked warp waits for (15 Table 15-4). A barrier wait holds what remains to do once the arrived bit is clear:
0 nothing, 1 arrive, 2 arrive and wait. -/
inductive Wake where
  | ready
  | await (lanes : Mask)
  | barrier (slot stage count : Nat)
  | channel (c : Nat)
  | claim (n : Nat) (sd : BitVec 6) (limit : Option Nat)
  | mwait (b : W32)
  | yldc (eng : Nat) (k : Nat) (cont : W32)
  | waitmem (req : Req) (again : Nat)
  | remote (reqs : List Req)
  deriving DecidableEq, Repr

/-- What the model notes while one offset issues (13 R321): the lanes and the plane of the present issue, the lanes of all
occupied planes, the address of word 0, the words and the offset after the instruction, and what this offset has already done once: its push,
the masks it writes, its draw, the slots it takes and gives, its logged accesses; `hold` says that these are logged and none is
performed (15 R367), and `many` that the offset issues in several planes, whose traps are noted and taken as one (03 R70). `kept` says that a trap leaves what was done before
it, and `poison` what poisoned byte it has read, with the instruction's address. -/
structure Issue where
  lanes   : Mask
  all     : Mask
  plane   : Nat
  pc      : W64
  words   : List W32
  next    : W32
  pushed  : Bool
  masks   : List (Nat × Mask)
  draw    : Option (BitVec 16)
  took    : List (Nat × Vec)
  gave    : List Nat
  reqs    : List Req
  trapped : Option Trap
  stalled : Bool
  kept    : Bool
  hold    : Bool
  many    : Bool
  poison  : Option (Nat × W64)
  deriving DecidableEq, Repr

/-- What a `Warp` record stands for: an empty slot, a warp of a workgroup, or a cluster's matrix sequencer (09 R204). -/
inductive Kind where
  | none
  | group (g : Nat)
  | seq (cluster : Nat)
  deriving DecidableEq, Repr

/-- Where a warp is and what it belongs to (01 R15, 05 R106, 07 Table 07-1, 14 R344). -/
structure Home where
  ctx   : Nat
  qi    : Nat
  prio  : Nat
  cls   : Nat
  core  : Nat
  group : Nat
  slot  : Nat
  index : Nat
  resident : Bool
  deriving DecidableEq, Repr

/-- The code a warp runs (12 R290, 13 R320). -/
structure Code where
  base    : W64
  planes  : Nat
  pstride : Nat
  deriving DecidableEq, Repr

/-- One warp (07, 13, 15), or a matrix sequencer, which is a `Warp` of kind `seq` (09 R203). `parked` says that its last try to
issue was a CWAIT that waits (14 R353), `frozen` names the code line it waits for (14 R350), `trapExec` is the MASK of the
TRAP entry while a handler runs, wherever the entry stands; `pooled` is the block of the context's stack pool that the warp was given;
`exiting` says that the pops of an EXIT are not done (13 R326); `logQueue` is the queue as it stood before the logged instruction
pushed; `zbad` are the poisoned sectors of a saved warp's stream reservation, each by the offset of its end from ZBASE
(10 R253); `pipe` is the fabric cycle at which it leaves the pipe of its last issue, and `busy` the one until which its scoreboard or a
stalled instruction keeps it from being ready (14 R346, log 70). -/
structure Warp where
  id      : Nat
  kind    : Kind
  live    : Bool
  home    : Home
  -- registers
  queue   : List QEntry
  hqueue  : List QEntry
  v       : List Vec
  s       : List W64
  exec    : Mask
  exited  : Mask
  o       : W32
  planes  : List (BitVec 2)
  code    : Code
  fp      : Fp
  link    : W64
  wid     : W64
  role    : W32
  slip    : W32
  trapcause : BitVec 8
  trapaddr  : W64
  trapmask  : Mask
  trapExec  : Mask
  -- the stack
  stack   : List SEntry
  spilled : Nat
  raySpill : Nat
  stackBase : W64
  stackSize : Nat
  pooled  : Nat × Nat
  exiting : Bool
  handler : Bool
  hbase   : W64
  faultVAs : List Nat
  -- streams
  slen    : Nat
  lmax    : Nat
  zregs   : Nat
  zbase   : Nat
  zbad    : List Nat
  seed    : Seed
  z       : List (List ZLane)
  -- frames, leases, channels, engines
  frame   : Nat
  frameVA : W64
  lease   : Lease
  ports   : Tab Nat
  counts  : Tab Nat
  errors  : Tab Bool
  liveSet : Mask
  quads   : Bool
  hits    : List (List W32)
  -- waiting
  wake    : Wake
  parked  : Bool
  log     : List (List Req)
  logQueue : List QEntry
  ntst    : List (W64 × Byte)
  frozen  : Option Nat
  slipped : List Nat
  yieldLeft : Nat
  stamp   : Nat
  readyFor : Nat
  heavy   : Bool
  pipe    : Nat
  busy    : Nat
  xfers   : List Req
  scalars : List Nat
  iss     : Issue
  -- the sequencer's run
  halted  : Bool
  tag     : BitVec 16
  recVA   : Option W64
  issuer  : Option Nat
  runEng  : Nat
  deriving DecidableEq, Repr

/-- A frame (12 R298): the counters of a warp's lanes and of the warp, who waits for its threads, which of its lanes exist,
have exited and have completed, the tiles of passes that its records came from (11 R266), and whether its save image stands for
it now (15 R378). -/
structure Frame where
  ctx    : Nat
  va     : W64
  lanes  : Tab Nat
  warp   : Nat
  parent : Tab (Nat × Nat)
  packet : Option (Nat × Nat)
  tileOf : List (Nat × Nat)
  mask   : Mask
  exited : Mask
  done   : Mask
  saved  : Bool
  deriving DecidableEq, Repr

/-- A barrier slot (12 R308). -/
structure Barrier where
  arrivals : Nat
  expected : Nat
  arrived  : List Nat
  deriving DecidableEq, Repr

/-- A slot of a channel that is not empty (07 R169): full, or reserved by a load that `left` planes have yet to fill. -/
inductive ChanSlot where
  | full
  | due (tag left : Nat)
  deriving DecidableEq, Repr

/-- A channel (07 R168, R169): its consumer's warp index (none while unmapped), port, depth and role; its head slot and the slots from
the head on that are not empty, whose values stand in the consumer's registers of the range; the next reservation's tag; `gone` when
the consumer has exited. -/
structure Channel where
  consumer : Option Nat
  port     : Nat
  depth    : Nat
  role     : Nat
  head     : Nat
  slots    : List ChanSlot
  tag      : Nat
  gone     : Bool
  deriving DecidableEq, Repr

/-- A workgroup (07 R158, R166, 12 R293); `skib` are the KiB of its core's scratchpad part that are its own (05 R109, log 9). -/
structure Group where
  ctx     : Nat
  qi      : Nat
  launch  : Nat
  core    : Nat
  warps   : List Nat
  matrix  : Bool
  budget  : Nat
  scratch : Nat
  skib    : List Nat
  mem     : Mem
  reserve : Tab Nat
  pool    : Tab Nat
  claims  : List Nat
  bars    : Tab Barrier
  chans   : Tab Channel
  gang    : Nat
  resident : Bool
  image   : W64
  imageSize : Nat
  preempt : Option Nat
  overdue : Bool
  savedOn : Option Nat
  deriving DecidableEq, Repr

/-- A launch (12 R290): the 1,024-bit header, the parameters read when it was accepted, the next workgroup to place and
the threads that have not completed. -/
structure Launch where
  ctx    : Nat
  qi     : Nat
  seq    : W32
  header : BitVec 1024
  params : List W64
  next   : Nat
  total  : Nat
  left   : Nat
  cls    : Nat
  prio   : Nat
  deriving DecidableEq, Repr

/-- A line of a core's L1 (05 R110): its bytes, the mask of its dirty bytes, the generation in which it was filled, its
cache class and hint. -/
structure Line where
  ctx   : Nat
  pa    : Nat
  bytes : List Byte
  dirty : BitVec 128
  valid : BitVec 128
  gen   : BitVec 16
  cls   : Nat
  hint  : Hint
  deriving DecidableEq, Repr

/-- A cached leaf translation (03 R63, R65): the range of VAs, the frame and attributes, and the D bit it holds. -/
structure TlbEntry where
  ctx  : Nat
  va   : Nat
  size : Nat
  pa   : Nat
  ent  : W64
  d    : Bool
  deriving DecidableEq, Repr

/-- A walk-cache entry (03 R65): context, level, the VA bits above that level, and the non-leaf entry. -/
structure WalkEntry where
  ctx   : Nat
  level : Nat
  key   : Nat
  ent   : W64
  deriving DecidableEq, Repr

/-- The translation caches of a core or of an engine (03 R65, R68). -/
structure Tlbs where
  first  : Tab (List TlbEntry)
  second : List TlbEntry
  walks  : List WalkEntry
  deriving DecidableEq, Repr

/-- A core (05 R109 to R111, 06 R140); its L1 lines stand from the most to the least recently used. -/
structure Core where
  gen     : BitVec 16
  lines   : List Line
  tlbs    : Tlbs
  records : List (Nat × Nat × BitVec 512)
  deriving DecidableEq, Repr

/-- A command of an engine's queue (06 R146, R147): its eight words and who issued it (a warp, or a packet), the queue, priority and
class of the packet that launched its issuer's work (14 R344), its issuer's workgroup (05 R114), and when it was pushed. -/
structure Cmd where
  words  : List W64
  ctx    : Nat
  issuer : Option Nat
  packet : Option (Nat × Nat)
  eng    : Nat
  started : Bool
  qi     : Nat
  prio   : Nat
  cls    : Nat
  group  : Option Nat
  order  : Nat
  deriving DecidableEq, Repr

/-- A record sent to a fixed-function unit (12 R301): its words, its cache class, the frame slot it counts in, and its number, which
its copies at several raster units share (11 R261). -/
structure Rec where
  words : List W32
  ctx   : Nat
  cls   : Nat
  frame : Nat
  lane  : Nat
  id    : Nat
  deriving DecidableEq, Repr

/-- A record held in a bin (12 R296): words, the thread that waits for it, the kind (0 plain, 1 quad, 2 hit) for a
quad record its pass and tile, and for a hit record its scene's cluster table in the place of the pass, and the exact u and v of the
hit as fractions (11 R270). -/
structure BinRec where
  words : List W32
  frame : Nat
  lane  : Nat
  kind  : Nat
  pass  : Nat
  tile  : Nat
  qi    : Nat
  prio  : Nat
  cls   : Nat
  bary  : List (Int × Nat)
  deriving DecidableEq, Repr

/-- A bin (12 R296). -/
structure Bin where
  ctx     : Nat
  node    : Nat
  recs    : List BinRec
  timer   : Option Nat
  launches : Nat
  deriving DecidableEq, Repr

/-- A row of the A buffer (09 R210): 256 mantissas, 8 exponents (none for NaN) and P. -/
structure ARow where
  q : List Int
  e : List (Option Int)
  p : Nat
  deriving DecidableEq, Repr

/-- A slot of the lookup store (09 R217): 64 groups of 16 sums, the recorded row, its exponents and P. -/
structure LutSlot where
  sums : List Int
  row  : Nat
  e    : List (Option Int)
  p    : Nat
  deriving DecidableEq, Repr

/-- The matrix operations (09 R206) with their descriptor values. -/
inductive MOp where
  | ldb (mode : Nat) (ty : Ty) (d : W64)
  | lda (ty : Ty) (d : W64)
  | mul (d : W64)
  | lutb (d : W64)
  | lut (w : Nat) (d : W64)
  | zero (d : W64)
  | drain (ty : Ty) (d : W64) (sd : Option (BitVec 6))
  deriving DecidableEq, Repr

/-- Cluster power control (14 Table 14-4). -/
structure Power where
  soft     : Nat
  hard     : Nat
  istep    : Nat
  ntwin    : Nat
  leasemax : Nat
  refill   : Nat
  custom   : Bool
  deriving DecidableEq, Repr

/-- A voltage island (14 R353): near-threshold mode, the windows that its warps have passed memory-blocked, and
whether one of them was not in the present window. -/
structure Island where
  near    : Bool
  windows : Nat
  awake   : Bool
  deriving DecidableEq, Repr

/-- What a cluster's classify engine does with the command it has started (11 R266): its pass, the next tile, and the
status, fault address and fault word to report. -/
structure Classify where
  pass   : Nat
  next   : Nat
  status : Nat
  fva    : W64
  fword  : W32
  deriving DecidableEq, Repr

/-- A cluster (09 Table 09-1, 05 R114, 12 R294, R296, 14 R350 to R360). `badExp` are the poisoned 32-byte sectors of the segment
exponents as 15 Table 15-7 lays them out (09 R230); `activity` is what the array has yet to step through (09 R229). -/
structure Cluster where
  owner   : Option Nat
  tile    : Mem
  acc     : Mem
  cells   : Mem
  segExp  : Tab (Option Int)
  badExp  : List Nat
  abuf    : Tab ARow
  lut     : Tab LutSlot
  accFlags : Tab (BitVec 5)
  batch   : W32
  done    : W32
  feed    : W32
  ops     : List (MOp × Option W32)
  queues  : Tab (List Cmd)
  icache  : List (Nat × Nat)
  nodes   : List (Nat × Nat × BitVec 512)
  bins    : Tab Bin
  power   : Power
  pending : Option Power
  pendingW : Option (Tab (BitVec 8))
  weights : Tab (BitVec 8)
  charge  : Nat
  lastSum : Nat
  pairing : Bool
  throttle : Bool
  activity : Nat
  lastAct : Nat
  delayed : Bool
  pool    : Nat
  islands : Tab Island
  scrub   : Nat
  classify : Option Classify
  windowAt : Nat
  isobarAt : Nat
  refillAt : Nat
  deriving DecidableEq, Repr

/-- A line in a way of an L2 slice (05 R103, R106, R108): its address, the class that filled it, whether it was filled with the
keep hint (06 R129), and the bytes that its DRAM lacks. `State.mem` holds what the home returns: these bytes over the DRAM's
(log 93). -/
structure L2Line where
  pa    : Nat
  cls   : Nat
  keep  : Bool
  dirty : BitVec 128
  deriving DecidableEq, Repr

/-- An entry of a tower's L2 partition (05 Table 05-1). -/
structure Ways where
  minw : Nat
  maxw : Nat
  deriving DecidableEq, Repr

/-- A target tracked by a blender (11 R286): its context and descriptor, watermark, held fragments (pixel, key, operation
and colour) in arrival order, and the status, fault address and fault word its next ADVANCE reports. -/
structure Target where
  ctx    : Nat
  va     : Nat
  mark   : Nat
  held   : List (Nat × Nat × Nat × Nat × Nat)
  status : Nat
  fva    : W64
  fword  : W32
  deriving DecidableEq, Repr

/-- A tower (05 R106, R108, R118, 06 R146, 11 R256): its L2 partition and, by set, the lines of its slice from the most to the
least recently used; `touched` counts the DRAM accesses of 64 KiB frames while the stack is not at its normal level. -/
structure Tower where
  ways    : Tab Ways
  vtways  : Nat
  custom  : Bool
  l2      : Tab (List L2Line)
  touched : Tab Nat
  dma     : List Cmd
  raster  : Tab (List Rec)
  rasterCmd : Tab (List Cmd)
  frags   : List Rec
  blendCmd : List Cmd
  targets : List Target
  thermal : Nat
  hot     : Tab (List Nat)
  deriving DecidableEq, Repr

/-- The states of a visibility tile (05 Table 05-6), FREE being absence. -/
inductive TileState where
  | open | closing | closed | classified
  deriving DecidableEq, Repr

/-- A visibility tile held in L2 (05 R115, R117, 11 R264): its state, its backing VA, the physical addresses of the 24 sectors
at which accesses find its bytes while it is held, the bytes that its home held when it opened and which of those sectors were
poisoned, whether it is resident, whether its write home has failed, when it was last used, and the material warps still running that
hold its records. -/
structure VTile where
  state   : TileState
  va      : Nat
  sectors : List Nat
  old     : List Byte
  bad     : List Nat
  resident : Bool
  stuck   : Bool
  stamp   : Nat
  warps   : Nat
  deriving DecidableEq, Repr

/-- A pass (11 R257 to R266), by context and descriptor VA; `closedAt` is the number of the last record that its CLOSE found sent. -/
structure Pass where
  ctx     : Nat
  va      : W64
  tiles   : Tab VTile
  closed  : Bool
  closedAt : Nat
  keep    : Bool
  status  : Nat
  fva     : W64
  fword   : W32
  deriving DecidableEq, Repr

/-- Trap control (15 Table 15-1). -/
structure TrapCtl where
  handler  : W64
  deadline : Nat
  dlkill   : Bool
  breload  : Bool
  custom   : Bool
  deriving DecidableEq, Repr

/-- Scheduling control (14 Table 14-5). -/
structure Sched where
  quantum : Nat
  wdlog   : Nat
  wdkill  : Bool
  custom  : Bool
  deriving DecidableEq, Repr

/-- An area of a context (12 R300): its VA and size, and the blocks allotted in it. -/
structure Area where
  va    : W64
  size  : Nat
  used  : List (Nat × Nat)
  deriving DecidableEq, Repr

/-- What a context does (15 R371). -/
inductive Running where
  | running | stopping | stopped | killed
  deriving DecidableEq, Repr

/-- A queue of a context (16 R390 to R395). `started` is the packet in progress, with its type; `body` keeps its body while the
device still needs it; `rereads` and `rereadAt` count the further readings of a mismatched slot; `turn` says when the distributor
last placed work of it (14 R345), as the key of the workgroup. -/
structure Queue where
  ring    : W64
  n       : Nat
  slot    : Nat
  cring   : W64
  expect  : W32
  kicked  : Option W32
  last    : Option W32
  prio    : Nat
  parked  : Bool
  rereads : Nat
  rereadAt : Nat
  started : Option (W32 × BitVec 8)
  body    : List Byte
  removing : Bool
  resident : Bool
  since   : Nat
  turn    : Nat
  deriving DecidableEq, Repr

/-- A context (03 R55, 06 R139, 12 R294, R300, 14 R358, R360, 15 R362); until the cycle that `dogOld` names its WDLOG and WDKILL hold
(14 R361). -/
structure Ctx where
  root    : Nat
  ltbase  : W64
  ltcount : Nat
  ntbase  : W64
  ntcount : Nat
  areas   : Option (Area × Area × Area × Area)
  trap    : TrapCtl
  sched   : Sched
  dogOld  : Option (Nat × Nat × Bool)
  leaseLost : W32
  running : Running
  report  : List W64
  pulse   : Nat
  idleAt  : Option Nat
  queues  : Tab Queue
  nodeLaunches : Tab Nat
  deriving DecidableEq, Repr

/-- A host window (16 R389). -/
structure Window where
  base : W64
  size : W64
  ctx  : Nat
  writable : Bool
  deriving DecidableEq, Repr

/-- A message sent and not yet acknowledged (16 R387): the message, when it is resent, the wait, the resends done. -/
structure Sent where
  msg   : Msg
  at_   : Nat
  wait  : Nat
  tries : Nat
  deriving DecidableEq, Repr

/-- The host link (16 R387, R388): whether numbering is known, the next SEQ sent and expected, unacknowledged messages,
link lost, the messages sent so far, newest first, and when an ACK falls due; the READs of the host that are accepted and wait for
bytes of region 3 or 4, and whether a SYNC of the device's own has no answer yet. -/
structure Link where
  open_   : Bool
  next    : W32
  expect  : W32
  unacked : List Sent
  lost    : Bool
  out     : List Msg
  ackDue  : Option Nat
  reads   : List Msg
  asked   : Bool
  deriving DecidableEq, Repr

/-- States of the firmware (16 Table 16-7). -/
inductive FwState where
  | booting | ready | updating
  deriving DecidableEq, Repr

/-- The management block and the firmware complexes (16 R397, R400); `control` holds the scalars of control core k of complex c under
4c + k (07 R159), all zero where nothing is listed. -/
structure Mgmt where
  state   : FwState
  active  : Nat
  imageVA : W64
  windows : Tab Window
  standby : Option W64
  token   : Bool
  diag    : Bool
  control : Tab (List W64)
  deriving DecidableEq, Repr

/-- A peer (16 R394, R396). -/
structure Peer where
  mac  : BitVec 48
  ip   : BitVec 128
  base : W64
  size : W64
  joined : Bool
  deriving DecidableEq, Repr

/-- A part of an access to region 3 or 4 that waits for the host or a peer (16 R389, R396): who asked (a warp's key, or an
engine), the physical address and size, the bytes of a write to a peer, the SEQ of a READ sent to the host, and once it is
answered the bytes. -/
structure Remote where
  who     : Nat
  pa      : Nat
  size    : Nat
  write   : Option (List Byte)
  seq     : Option W32
  data    : Option (List Byte)
  deriving DecidableEq, Repr

/-- A saved matrix set (09 R409): whose, tied to which workgroups, its contents with the poisoned sectors of its storage by kind and
number (R230) and its sequencer (R231), and the VA of its image. -/
structure SetImage where
  ctx    : Nat
  groups : List Nat
  set    : Cluster
  bad    : List (Nat × Nat)
  seq    : Warp
  image  : W64
  deriving DecidableEq, Repr

/-- Which agent moves next (log 2): a warp or a sequencer by its key, an event, the passing of fabric cycles, a core whose L1
evicts a line (05 R110), or the scoreboard of a warp, which waits for some fabric cycles (07 R162, 14 R346). -/
inductive Turn where
  | warp (k : Nat)
  | event (i : Instr)
  | tick (n : Nat)
  | evict (core ctx pa : Nat)
  | busy (k n : Nat)
  deriving DecidableEq, Repr

/-- The device. `w` is the warp whose turn it is, `warps` the others; the rest is by the unit that owns it. `portCmds` holds
the commands of HOST (9) and PEER (10) (06 Table 06-6); `uses` numbers turns of warps and uses of tiles in their order (05 R116,
14 R346). -/
structure State where
  w       : Warp
  warps   : Tab Warp
  frames  : Tab Frame
  groups  : Tab Group
  launches : Tab Launch
  cores   : Tab Core
  engines : List (Engine × Tlbs)
  clusters : Tab Cluster
  towers  : Tab Tower
  ctxs    : Tab Ctx
  passes  : Tab Pass
  mem     : Mem
  poison  : List Nat
  clock   : Nat
  link    : Link
  mgmt    : Mgmt
  peers   : Tab Peer
  remotes : List Remote
  portCmds : Tab (List Cmd)
  sets    : List SetImage
  quantumAt : Nat
  nextKey : Nat
  uses    : Nat
  free    : Nat
  agenda  : List Turn
  deriving DecidableEq, Repr

/-- Why the model stops with a fault. No instruction of this machine does: every fault of the manual is a trap, a status or
an event, and is a next state. -/
inductive Fault where
  /-- Raised by nothing; it is there because the interface asks for a type. Safe: no path reaches it. -/
  | none
  deriving DecidableEq, Repr

/-- Why the model refuses an instruction. -/
inductive Refusal where
  /-- An instruction that the model does not have yet, by its mnemonic. Safe: the run stops. -/
  | notModelled (mnemonic : String)
  deriving DecidableEq, Repr

/-- What a meaning answers. Every instruction of this machine ends in a next state: traps, statuses and stops are states. -/
abbrev Out := Host.Outcome State Fault Refusal

/-- An issue of nothing. -/
def Issue.idle : Issue := ⟨0, 0, 0, 0, [], 0, false, [], none, [], [], [], none, false, false, false, false, none⟩

/-- A sequencer that runs nothing, and with `kind` replaced an empty warp slot: every register at its launch value
(07 R153, R159, 04 Tables 04-9, 04-10, 10 Tables 10-2, 10-3); log 3 names what the manual does not give. -/
def Warp.idle (id : Nat) (kind : Kind) : Warp :=
  { id, kind, live := false, home := ⟨0, 0, 0, 0, 0, 0, 0, 0, false⟩,
    queue := List.replicate 16 ⟨Vec.zero, false⟩, hqueue := [], v := [], s := List.replicate 64 0,
    exec := 0, exited := 0, o := 0, planes := List.replicate 128 0, code := ⟨0, 0, 0⟩, fp := ⟨0, false, 0⟩,
    link := 0, wid := 0, role := 0, slip := 0, trapcause := 0, trapaddr := 0, trapmask := 0, trapExec := 0,
    stack := [], spilled := 0, raySpill := 0, stackBase := 0, stackSize := 0, pooled := (0, 0), exiting := false, handler := false, hbase := 0, faultVAs := [],
    slen := 256, lmax := 256, zregs := 0, zbase := 0, zbad := [], seed := ⟨0, 0, 0, 0⟩, z := [],
    frame := 0, frameVA := 0, lease := ⟨0, 0, false, 0⟩, ports := [], counts := [], errors := [],
    liveSet := 0, quads := false, hits := [], wake := .ready, parked := false, log := [], logQueue := [],
    ntst := [], frozen := none, slipped := [], yieldLeft := 0, stamp := 0, readyFor := 0, heavy := false, pipe := 0, busy := 0, xfers := [],
    scalars := [], iss := Issue.idle, halted := false, tag := 0, recVA := none, issuer := none, runEng := 8 }

/-- Power control at reset: the *balanced* profile (14 Table 14-4). -/
def Power.reset : Power := ⟨0x1800, 0x2800, 256, 32, 2, 8, false⟩

/-- A cluster at reset (09 R202, 14 Table 14-4, R355, R360). -/
def Cluster.reset : Cluster :=
  { owner := none, tile := [], acc := [], cells := [], segExp := [], badExp := [], abuf := [], lut := [], accFlags := [],
    batch := 0, done := 0, feed := 0, ops := [], queues := [], icache := [], nodes := [], bins := [],
    power := Power.reset, pending := none, pendingW := none, weights := [], charge := 0, lastSum := 0, pairing := false, throttle := false,
    activity := 0, lastAct := 0, delayed := false, pool := 2047, islands := [], scrub := 0, classify := none, windowAt := 40, isobarAt := 80, refillAt := 8192 }

/-- A core at reset (05 Table 05-2, 03 R65). -/
def Core.reset : Core := ⟨0, [], ⟨[], [], []⟩, []⟩

/-- A tower at reset (05 Tables 05-1, 05-7). -/
def Tower.reset : Tower := ⟨[], 2, false, [], [], [], [], [], [], [], [], 0, []⟩

/-- The device right after reset: %clock 0, no context, no warp, no session with the host, firmware booting (16 R387, R400). -/
def State.reset : State :=
  { w := Warp.idle 0 (.seq 0), warps := [], frames := [], groups := [], launches := [], cores := [], engines := [],
    clusters := [], towers := [], ctxs := [], passes := [], mem := [], poison := [], clock := 0,
    link := ⟨false, 0, 0, [], false, [], none, [], false⟩,
    mgmt := ⟨.booting, 0, 0, [], none, false, false, []⟩,
    peers := [], remotes := [], portCmds := [], sets := [], quantumAt := 4000000, nextKey := 160, uses := 0, free := 0, agenda := [] }

end Sys2Proof.Machine
end

