-- ==== Sys2Proof/Machine/Flags.lean ====
section
/-! DEFINITION. The sticky flags of %fpflags (04 Table 04-10), rounding modes (04 Table 04-8) and the choice each makes,
and the conditions of the compares (08 Table 08-5). -/
namespace Sys2Proof.Machine

/-- The flags an operation raises, in the places of 04 Table 04-10. -/
abbrev Flags := BitVec 5
/-- Invalid operation. -/
def flIV : Flags := 1
/-- Division by zero. -/
def flDZ : Flags := 2
/-- Overflow. -/
def flOF : Flags := 4
/-- Underflow. -/
def flUF : Flags := 8
/-- Inexact. -/
def flNX : Flags := 16

/-- A flag when a condition holds. -/
def flag (b : Bool) (f : Flags) : Flags := if b then f else 0

/-- A rounding mode as it stands at issue: `dyn` is resolved, and `sr` holds its 16-bit draw (04 R97, R99). -/
inductive RMode where
  | rne | rtz | rup | rdn | rna
  | sr (u : Nat)
  deriving DecidableEq, Repr

/-- The mode in %fpmode.RM (04 Table 04-9). -/
def rmodeOf (rm : BitVec 3) : RMode :=
  match rm.toNat with
  | 1 => .rtz
  | 2 => .rup
  | 3 => .rdn
  | 4 => .rna
  | _ => .rne

/-- Whether rounding goes away from zero, for a value at (n + t)/d of the way from the representable magnitude below it to
the one above, where 0 < t < 1 when `st` and t = 0 otherwise, `neg` its sign, and `odd` whether the encoding below has bit 0
set (04 Table 04-8, R99). When `st` holds, d is a multiple of 65,536. -/
def roundsAway (md : RMode) (neg odd : Bool) (n d : Nat) (st : Bool) : Bool :=
  let inexact := n != 0 || st
  match md with
  | .rtz => false
  | .rup => inexact && !neg
  | .rdn => inexact && neg
  | .rne => d < 2 * n || (2 * n == d && (st || odd))
  | .rna => d ≤ 2 * n
  | .sr u =>
    let whole := 65536 * n
    if neg then
      -- the lower neighbour is the one of larger magnitude: (x - a)/(b - a) = 1 - (n + t)/d
      inexact && !decide (u < 65536 - (whole + d - 1) / d - (if st && whole % d == 0 then 1 else 0))
    else inexact && decide (u < whole / d)

/-- An overflowed IEEE result is an infinity, not the largest finite value (IEEE 754-2019, 04 R98). -/
def overflowsToInf (md : RMode) (neg : Bool) : Bool :=
  match md with
  | .rne | .rna | .sr _ => true
  | .rtz => false
  | .rup => !neg
  | .rdn => neg

/-- The integer conditions of 08 Table 08-5 with codes 0 to 5; `lt` and `eq` compare the operands. -/
def condHolds (mod : Nat) (lt eq : Bool) : Bool :=
  match mod with
  | 0 => eq
  | 1 => !eq
  | 2 => lt
  | 3 => lt || eq
  | 4 => !(lt || eq)
  | _ => !lt

/-- The float conditions (08 Table 08-5, R182): `uno` when an operand is a NaN, `x` for FCMPX. -/
def floatCond (mod : Nat) (x lt eq uno : Bool) : Bool :=
  match mod with
  | 6 => !uno
  | 7 => uno
  | _ => if uno then x else condHolds mod lt eq

end Sys2Proof.Machine
end

