-- ==== Sys2Proof/Machine/Num.lean ====
section
/-! DEFINITION. Number formats: exact values, their decoding from every element format, and rounding into each (chapter 04). -/
namespace Sys2Proof.Machine

/-- A value: a NaN (signalling or quiet), an infinity, or (m + t) x 2^e with a sign, where t = 0, or 0 < t < 1 when `st`
holds (a result that is not a dyadic number, known to well over 65,536 parts of any format's spacing). -/
inductive Fv where
  | nan (sig : Bool)
  | inf (neg : Bool)
  | num (neg : Bool) (m : Nat) (e : Int) (st : Bool)
  deriving DecidableEq, Repr

/-- An IEEE format (04 Table 04-2): precision with the hidden bit, least and largest exponent, width. -/
structure Fmt where
  p    : Nat
  emin : Int
  emax : Int
  w    : Nat
  deriving DecidableEq, Repr

def f32 : Fmt := ⟨24, -126, 127, 32⟩
def f16 : Fmt := ⟨11, -14, 15, 16⟩
def bf16 : Fmt := ⟨8, -126, 127, 16⟩

/-- The sign bit of an encoding. -/
def Fmt.neg (f : Fmt) (x : Nat) : Bool := bitsAt x (f.w - 1) 1 == 1

/-- The sign bit in place. -/
def Fmt.signBit (f : Fmt) (neg : Bool) : Nat := if neg then 2 ^ (f.w - 1) else 0

/-- The exponent field all ones: an infinity's magnitude (04 R78). -/
def Fmt.infBits (f : Fmt) : Nat := (2 ^ (f.w - f.p) - 1) * 2 ^ (f.p - 1)

/-- The canonical NaN (04 Table 04-2, R80). -/
def Fmt.nanBits (f : Fmt) : Nat := f.infBits + 2 ^ (f.p - 2)

/-- The value of an encoding (04 R78). -/
def Fmt.read (f : Fmt) (x : Nat) : Fv :=
  let ex := bitsAt x (f.p - 1) (f.w - f.p)
  let fr := x % 2 ^ (f.p - 1)
  if ex == 2 ^ (f.w - f.p) - 1 then
    if fr == 0 then .inf (f.neg x) else .nan (fr < 2 ^ (f.p - 2))
  else if ex == 0 then .num (f.neg x) fr (f.emin - ((f.p : Int) - 1)) false
  else .num (f.neg x) (fr + 2 ^ (f.p - 1)) (f.emin + ((ex : Int) - 1) - ((f.p : Int) - 1)) false

/-- A subnormal encoding. -/
def Fmt.subnormal (f : Fmt) (x : Nat) : Bool := bitsAt x (f.p - 1) (f.w - f.p) == 0 && x % 2 ^ (f.p - 1) != 0

/-- The value an arithmetic operand has: under FTZ a subnormal reads as zero of its sign (04 R81). -/
def Fmt.readIn (f : Fmt) (ftz : Bool) (x : Nat) : Fv :=
  if ftz && f.subnormal x then .num (f.neg x) 0 0 false else f.read x

/-- m x 2^e split at 2^qe: the quotient, and the remainder over the divisor (n, d). A value far below 2^qe keeps only that
it is not zero. -/
def splitAt (m : Nat) (e qe : Int) : Nat × Nat × Nat :=
  if qe ≤ e then (m * 2 ^ (e - qe).toNat, 0, 65536)
  else
    let k := (qe - e).toNat
    if m.log2 + 64 < k then (0, if m = 0 then 0 else 1, 2 ^ 64)
    else (m / 2 ^ k, m % 2 ^ k * 65536, 2 ^ k * 65536)

/-- m x 2^e rounded to an integer number of 2^qe: the result and whether it is inexact. -/
def roundAt (md : RMode) (neg : Bool) (m : Nat) (e : Int) (st : Bool) (qe : Int) : Nat × Bool :=
  let (q, n, d) := splitAt m e qe
  (if roundsAway md neg (q % 2 == 1) n d st then q + 1 else q, n != 0 || st)

/-- A nonzero finite magnitude rounded into an IEEE format: the encoding without its sign, and flags (04 R97 to R100,
tininess after rounding R82). -/
def Fmt.roundMag (f : Fmt) (md : RMode) (ftz neg : Bool) (m : Nat) (e : Int) (st : Bool) : Nat × Flags :=
  let ex := e + m.log2
  let low := f.emin - ((f.p : Int) - 1)
  let qe := (if ex < f.emin then f.emin else ex) - ((f.p : Int) - 1)
  -- beyond the largest finite magnitude, sr rounds as rne does (R99)
  let big := f.emax < ex || (ex == f.emax && (roundAt .rtz neg m e st qe).1 == 2 ^ f.p - 1 && (roundAt .rtz neg m e st qe).2)
  let md' := match md with
    | .sr _ => if big then .rne else md
    | _ => md
  let (q, nx) := roundAt md' neg m e st qe
  if f.emax < ex || (ex == f.emax && q == 2 ^ f.p) then
    (if overflowsToInf md' neg then f.infBits else f.infBits - 1, flOF ||| flNX)
  else
    let bits := (qe - low).toNat * 2 ^ (f.p - 1) + q
    let tiny := ex < f.emin && !((roundAt md' neg m e st (ex - ((f.p : Int) - 1))).1 == 2 ^ f.p && ex + 1 == f.emin)
    if ftz && q != 0 && q < 2 ^ (f.p - 1) then (0, flUF ||| flNX)
    else (bits, flag nx flNX ||| flag (tiny && nx) flUF)

/-- A value rounded into an IEEE format (04 R97, R98, R80). -/
def Fmt.round (f : Fmt) (md : RMode) (ftz : Bool) : Fv → Nat × Flags
  | .nan _ => (f.nanBits, 0)
  | .inf neg => (f.signBit neg + f.infBits, 0)
  | .num neg m e st =>
    if m = 0 && !st then (f.signBit neg, 0)
    else
      let r := f.roundMag md ftz neg (if m = 0 then 1 else m) (if m = 0 then -4096 else e) st
      (f.signBit neg + r.1, r.2)

/-- The length of the run of bits equal to `b` from bit `i` down to bit 0, `fuel` bits at most. -/
def runLen (c : Nat) (b : Nat) : Nat → Nat
  | 0 => 0
  | i + 1 => if c / 2 ^ i % 2 = b then 1 + runLen c b i else 0

/-- The magnitude of a positive tapered code of `n` bits, in units of 2^-12 (04 R83). -/
def taperedMag (n c : Nat) : Nat :=
  if c = 0 then 0
  else
    let top := c / 2 ^ (n - 2) % 2
    let m := runLen c top (n - 1)
    let k : Int := if top = 1 then (m : Int) - 1 else -(m : Int)
    let left := n - 1 - m - 1              -- bits after the run and its terminator
    let rest := c % 2 ^ left
    let ex := if left = 0 then 0 else rest / 2 ^ (left - 1)
    let w := left - 1
    let fr := rest % 2 ^ w
    ((2 ^ w + fr) * 2 ^ ((2 * k + (ex : Int) + 12).toNat)) / 2 ^ w

/-- The value of a tapered code (04 R83); its NaN is quiet (08 R191). -/
def readTapered (n c : Nat) : Fv :=
  if c = 2 ^ (n - 1) then .nan false
  else if 2 ^ (n - 1) < c then .num true (taperedMag n (2 ^ n - c)) (-12) false
  else .num false (taperedMag n c) (-12) false

/-- The greatest code not above `c` whose magnitude is at most m x 2^e. -/
def taperedBelow (n m : Nat) (e : Int) : Nat → Nat
  | 0 => 0
  | c + 1 =>
    if (if e < -12 then taperedMag n (c + 1) * 2 ^ (-12 - e).toNat ≤ m else taperedMag n (c + 1) ≤ m * 2 ^ (e + 12).toNat)
    then c + 1 else taperedBelow n m e c

/-- The tapered code of a sign and a magnitude code: negation is two's complement (04 R83). -/
def taperedCode (n : Nat) (neg : Bool) (c : Nat) : Nat := if neg then (2 ^ n - c) % 2 ^ n else c

/-- A value rounded into T8 or T6 (04 R97 to R100). -/
def roundTapered (n : Nat) (md : RMode) : Fv → Nat × Flags
  | .nan _ => (2 ^ (n - 1), 0)
  | .inf _ => (2 ^ (n - 1), flIV)
  | .num neg m e st =>
    if m = 0 && !st then (0, 0)
    else
      let m' := if m = 0 then 1 else m
      let ex := if m = 0 then -4096 else e
      let max := 2 ^ (n - 1) - 1
      -- far outside the range, the exponent alone decides
      if 13 < ex + m'.log2 then (taperedCode n neg max, flOF ||| flNX)
      else if ex + m'.log2 < -64 then
        let up := match md with
          | .rne | .rna => true
          | .rtz => false
          | .rup => !neg
          | .rdn => neg
          | .sr u => neg && !decide (u < 65535)
        (taperedCode n neg (if up then 1 else 0), flUF ||| flNX)
      else
        let c := taperedBelow n m' ex max
        let sc := (-12 - ex).toNat
        let x := if ex < -12 then m' else m' * 2 ^ (ex + 12).toNat
        let lo := taperedMag n c * 2 ^ sc
        let exact := x == lo && !st
        if exact then (taperedCode n neg c, 0)
        else if c = max then (taperedCode n neg max, flOF ||| flNX)
        else
          let hi := taperedMag n (c + 1) * 2 ^ sc
          let nearest := match md with
            | .rne | .rna => c == 0
            | _ => false
          let up := nearest || roundsAway md neg (c % 2 == 1) ((x - lo) * 65536) ((hi - lo) * 65536) st
          let r := if up then c + 1 else c
          (taperedCode n neg r, flNX ||| flag (c == 0) flUF)

/-- An integer clamped to a range, with the flags of a conversion: NX when it differs from an in-range value, IV when it
saturates (04 R98, R100). -/
def saturate (lo hi i : Int) (nx : Bool) : Int × Flags :=
  if i < lo then (lo, flIV) else if hi < i then (hi, flIV) else (i, flag nx flNX)

/-- A value rounded to an integer in a range (04 R98). A magnitude of 2^80 or more is beyond every range. -/
def roundToInt (md : RMode) (lo hi : Int) : Fv → Int × Flags
  | .nan _ => (0, flIV)
  | .inf neg => (if neg then lo else hi, flIV)
  | .num neg m e st =>
    if 80 < e + m.log2 && m != 0 then (if neg then lo else hi, flIV)
    else
      let (q, nx) := roundAt md neg m e st 0
      saturate lo hi (if neg then -(q : Int) else (q : Int)) nx

/-- The exact integer as a value. -/
def intVal (i : Int) : Fv := .num (i < 0) i.natAbs 0 false

/-- A value times 2^k. -/
def Fv.scale (v : Fv) (k : Int) : Fv :=
  match v with
  | .num neg m e st => .num neg m (e + k) st
  | v => v

/-- The value with its sign changed. -/
def Fv.negate : Fv → Fv
  | .nan s => .nan s
  | .inf n => .inf (!n)
  | .num n m e st => .num (!n) m e st

/-- The signed integer that a finite exact value is, in units of 2^q with q at most its exponent. -/
def scaledInt (neg : Bool) (m : Nat) (e q : Int) : Int :=
  let x : Nat := m * 2 ^ (e - q).toNat
  if neg then -(x : Int) else (x : Int)

/-- The exact sum of two finite values; a zero sum has the sign IEEE 754-2019 gives it: that of equal zeros, else minus only
under rdn. -/
def addNum (md : RMode) (n1 : Bool) (m1 : Nat) (e1 : Int) (n2 : Bool) (m2 : Nat) (e2 : Int) : Fv :=
  if m1 = 0 && m2 = 0 then .num (if n1 == n2 then n1 else md == .rdn) 0 0 false
  else if m1 = 0 then .num n2 m2 e2 false
  else if m2 = 0 then .num n1 m1 e1 false
  else
    let q := if e1 < e2 then e1 else e2
    let s := scaledInt n1 m1 e1 q + scaledInt n2 m2 e2 q
    if s = 0 then .num (md == .rdn) 0 0 false else .num (s < 0) s.natAbs q false

def Fv.isNan : Fv → Bool
  | .nan _ => true
  | _ => false
def Fv.isSig : Fv → Bool
  | .nan s => s
  | _ => false
def Fv.isZero : Fv → Bool
  | .num _ m _ st => m == 0 && !st
  | _ => false
def Fv.isInf : Fv → Bool
  | .inf _ => true
  | _ => false
def Fv.neg : Fv → Bool
  | .nan _ => false
  | .inf n => n
  | .num n _ _ _ => n

/-- a + b (08 Table 08-6): the value and IV where it is raised. -/
def fvAdd (md : RMode) (a b : Fv) : Fv × Flags :=
  match a, b with
  | .num n1 m1 e1 _, .num n2 m2 e2 _ => (addNum md n1 m1 e1 n2 m2 e2, 0)
  | .inf n1, .inf n2 => if n1 == n2 then (.inf n1, 0) else (.nan false, flIV)
  | .inf n1, .num _ _ _ _ => (.inf n1, 0)
  | .num _ _ _ _, .inf n2 => (.inf n2, 0)
  | a, b => (.nan false, flag (a.isSig || b.isSig) flIV)

/-- a x b (08 Table 08-6). -/
def fvMul (a b : Fv) : Fv × Flags :=
  match a, b with
  | .num n1 m1 e1 _, .num n2 m2 e2 _ => (.num (n1 != n2) (m1 * m2) (e1 + e2) false, 0)
  | .inf n1, .inf n2 => (.inf (n1 != n2), 0)
  | .inf n1, .num n2 m _ _ => if m = 0 then (.nan false, flIV) else (.inf (n1 != n2), 0)
  | .num n1 m _ _, .inf n2 => if m = 0 then (.nan false, flIV) else (.inf (n1 != n2), 0)
  | a, b => (.nan false, flag (a.isSig || b.isSig) flIV)

/-- a x b + c, exact (08 Table 08-6): 0 x infinity is invalid even when c is a quiet NaN. -/
def fvFma (md : RMode) (a b c : Fv) : Fv × Flags :=
  let (p, f) := fvMul a b
  let (r, g) := fvAdd md p c
  (r, f ||| g)

/-- a / b (08 Table 08-6), to 256 bits and the sticky bit. -/
def fvDiv (a b : Fv) : Fv × Flags :=
  match a, b with
  | .num n1 m1 e1 _, .num n2 m2 e2 _ =>
    if m2 = 0 then if m1 = 0 then (.nan false, flIV) else (.inf (n1 != n2), flDZ)
    else
      let k := 256 + m2.log2
      (.num (n1 != n2) (m1 * 2 ^ k / m2) (e1 - e2 - k) (m1 * 2 ^ k % m2 != 0), 0)
  | .inf _, .inf _ => (.nan false, flIV)
  | .inf n1, .num n2 _ _ _ => (.inf (n1 != n2), 0)
  | .num n1 _ _ _, .inf n2 => (.num (n1 != n2) 0 0 false, 0)
  | a, b => (.nan false, flag (a.isSig || b.isSig) flIV)

/-- The integer square root by bits: the greatest r below 2^k x 2 with r x r at most n, given the bits found. -/
def isqrtFrom (n r : Nat) : Nat → Nat
  | 0 => r
  | k + 1 => let t := r + 2 ^ k; isqrtFrom n (if t * t ≤ n then t else r) k

/-- The integer square root. -/
def isqrt (n : Nat) : Nat := isqrtFrom n 0 (n.log2 / 2 + 1)

/-- The square root (08 Table 08-6). -/
def fvSqrt : Fv → Fv × Flags
  | .nan s => (.nan false, flag s flIV)
  | .inf neg => if neg then (.nan false, flIV) else (.inf false, 0)
  | .num neg m e _ =>
    if m = 0 then (.num neg 0 0 false, 0)
    else if neg then (.nan false, flIV)
    else
      let m' := if e % 2 = 0 then m else 2 * m
      let e' := if e % 2 = 0 then e else e - 1
      let x := m' * 2 ^ 512
      let r := isqrt x
      (.num false r (e' / 2 - 256) (r * r != x), 0)

/-- Numeric order of two values: less, equal; a NaN is neither to anything. -/
def fvCmp (a b : Fv) : Bool × Bool :=
  match a, b with
  | .inf n1, .inf n2 => (n1 && !n2, n1 == n2)
  | .inf n1, .num .. => (n1, false)
  | .num .., .inf n2 => (!n2, false)
  | .num n1 m1 e1 _, .num n2 m2 e2 _ =>
    let q := if e1 < e2 then e1 else e2
    let x := scaledInt n1 m1 e1 q
    let y := scaledInt n2 m2 e2 q
    (x < y, x == y)
  | _, _ => (false, false)

/-- minimumNumber and maximumNumber on encodings of a format (08 R186): the operand chosen, and IV for a signalling NaN. -/
def minMaxNum (f : Fmt) (max ftz : Bool) (x y : Nat) : Nat × Flags :=
  let a := f.readIn ftz x
  let b := f.readIn ftz y
  let x' := if ftz && f.subnormal x then f.signBit (f.neg x) else x
  let y' := if ftz && f.subnormal y then f.signBit (f.neg y) else y
  let fl := flag (a.isSig || b.isSig) flIV
  if a.isNan && b.isNan then (f.nanBits, fl)
  else if a.isNan then (y', fl)
  else if b.isNan then (x', fl)
  else
    let (lt, eq) := fvCmp a b
    let less := lt || (eq && f.neg x && !f.neg y)
    (if less != max then x' else y', fl)

/-- Decoding of an element format without its scale: FMT 1 to 7 of 04 Table 04-1. -/
def readElem (fmt bits : Nat) : Fv :=
  match fmt with
  | 1 => readTapered 8 bits
  | 2 => readTapered 6 bits
  | 3 => bf16.read bits
  | 4 => f16.read bits
  | 5 => intVal (signed 8 bits)
  | 6 => intVal (signed 4 bits)
  | _ => f32.read bits

/-- The width of an element in bits (04 Table 04-1); 0 for raw and reserved formats. -/
def elemWidth (fmt : Nat) : Nat :=
  match fmt with
  | 1 => 8
  | 2 => 6
  | 3 => 16
  | 4 => 16
  | 5 => 8
  | 6 => 4
  | 7 => 32
  | _ => 0

/-- The decoded value of an element as the 32 bits it is delivered in (04 Table 04-6): `scale` is the block's scale byte in
a scaled page. -/
def decodeElem (fmt : Nat) (scale : Option Nat) (bits : Nat) : W32 :=
  match scale with
  | none =>
    match fmt with
    | 5 => BitVec.ofNat 32 (wrapInt 32 (signed 8 bits))
    | 6 => BitVec.ofNat 32 (wrapInt 32 (signed 4 bits))
    | _ => BitVec.ofNat 32 (f32.round .rne false (readElem fmt bits)).1
  | some e =>
    if e = 255 then BitVec.ofNat 32 f32.nanBits
    else BitVec.ofNat 32 (f32.round .rne false ((readElem fmt bits).scale ((e : Int) - 127))).1

/-- Encoding of a value into an element (04 R95): `none` when the block is a NaN block and the element is not written.
`int` marks an i32 source, which is saturated without a flag into an unscaled integer format. -/
def encodeElem (md : RMode) (fmt : Nat) (scale : Option Nat) (int : Bool) (x : W32) : Option (Nat × Flags) :=
  if scale == some 255 then none
  else
    let v := if int then intVal (signed 32 x.toNat) else f32.read x.toNat
    let v := match scale with
      | some e => v.scale (127 - (e : Int))
      | none => v
    let sig := flag v.isSig flIV
    some (match fmt with
      | 1 => let r := roundTapered 8 md v; (r.1, r.2 ||| sig)
      | 2 => let r := roundTapered 6 md v; (r.1, r.2 ||| sig)
      | 3 => let r := bf16.round md false v; (r.1, r.2 ||| sig)
      | 4 => let r := f16.round md false v; (r.1, r.2 ||| sig)
      | 5 => if int && scale.isNone then (wrapInt 8 (clampInt (-128) 127 (signed 32 x.toNat)), 0)
             else let r := roundToInt md (-128) 127 v; (wrapInt 8 r.1, r.2)
      | 6 => if int && scale.isNone then (wrapInt 4 (clampInt (-8) 7 (signed 32 x.toNat)), 0)
             else let r := roundToInt md (-8) 7 v; (wrapInt 4 r.1, r.2)
      | _ => let r := f32.round md false v; (r.1, r.2 ||| sig))

end Sys2Proof.Machine
end

