-- ==== Sys2Proof/Config.lean ====
section
/-! DEFINITION. What the manual leaves to the device or to run time and gives no rule for: opaque constants without a body,
so that no proof can use a value of them (log 5). -/
namespace Sys2Proof.Config

/-- The n-th choice that the device makes at run time among stated alternatives: the victim of a full translation cache
(03 R66), the bytes of a COPY whose physical ranges meet (06 R148), the candidate of TRACE.ANY (11 R281), the group that gets
a stolen or resumed warp's slot. It is reduced modulo the number of alternatives where it is used. -/
opaque choice : Nat → Nat

/-- The set of the second-level TLB that a page of a context falls into (03 R65 gives 256 sets of 8 ways and no index). -/
opaque tlbSet : Nat → Nat → Nat

/-- The set of an L2 slice that a line falls into (05 R106 gives 98,304 sets of 16 ways and no index). -/
opaque l2Set : Nat → Nat

/-- The verdict of the n-th boot check of an image (16 R397): 0 accepted, 1 signature check failed, 2 format or version refused. -/
opaque imageVerdict : Nat → Nat

/-- What the firmware sets up for its device context when it starts (16 R390, R400 give no place): 0 the translation root, 1 the
ring of queue (0, 0), 2 and 3 the logarithms of N and SLOT less their least, 4 its completion ring, 5 its priority. -/
opaque deviceContext : Nat → Nat

/-- The root of the table through which the firmware's control cores translate (03 R59 gives no place). -/
opaque firmwareRoot : Nat

/-- Whether a test token is signed, names this device and a fresh nonce (16 R398). -/
opaque tokenValid : List Byte → Bool

/-- Whether the quotes of both sides check, so that a peer joins (16 R396), and the governor's allow-list admits it (R398). -/
opaque peerAdmitted : Nat → Bool

/-- Byte i of the identity modulus and serial number (16 Table 16-7, offsets 0x000 to 0x20F). -/
opaque identityByte : Nat → Byte

/-- Byte o of the measured temperatures and power (16 Table 16-7, offsets 0x220 to 0x25F), as the n-th reading finds it. -/
opaque measured : Nat → Nat → Byte

/-- Byte i of the measurements and signature of a quote over a nonce, at a given moment (16 R399, bytes 64 to 1,087). -/
opaque quoteByte : List Byte → Nat → Nat → Byte

/-- The bits of a special operand whose integer its operand type cannot hold exactly (02 R30, Table 02-5): type code, integer. -/
opaque inexactSpecial : Nat → Nat → Nat

/-- The n-th byte that a traversal unit spills into a stack area (11 R282 gives entries of 16 bytes and not their form). -/
opaque raySpillByte : Nat → Byte

end Sys2Proof.Config
end

