-- ==== Sys2Proof/Machine/Tab.lean ====
section
/-! DEFINITION. Tables, memories and vectors as plain data: reads, writes and the canonical form of each. -/
namespace Sys2Proof.Machine

/-- The value at a key. -/
def tget {α : Type} : Tab α → Nat → Option α
  | [], _ => none
  | (k, a) :: t, n => if n = k then some a else if n < k then none else tget t n

/-- The value at a key, or what an absent key reads as. -/
def tgetD {α : Type} (t : Tab α) (n : Nat) (d : α) : α := (tget t n).getD d

/-- The table with a key set. -/
def tput {α : Type} : Tab α → Nat → α → Tab α
  | [], n, a => [(n, a)]
  | (k, b) :: t, n, a => if n = k then (n, a) :: t else if n < k then (n, a) :: (k, b) :: t else (k, b) :: tput t n a

/-- The table without a key. -/
def tdel {α : Type} : Tab α → Nat → Tab α
  | [], _ => []
  | (k, b) :: t, n => if n = k then t else if n < k then (k, b) :: t else (k, b) :: tdel t n

/-- The table with the value at a key replaced by a function of it. -/
def tmod {α : Type} (t : Tab α) (n : Nat) (d : α) (f : α → α) : Tab α := tput t n (f (tgetD t n d))

/-- The byte at an address; an unlisted address reads 0 (log 4). -/
def mread : Mem → Nat → Byte
  | [], _ => 0
  | (k, b) :: t, n => if n = k then b else if n < k then 0 else mread t n

/-- The memory with one byte written: writing 0 removes the entry. -/
def mwrite : Mem → Nat → Byte → Mem
  | [], n, a => if a = 0 then [] else [(n, a)]
  | (k, b) :: t, n, a =>
    if n = k then (if a = 0 then t else (n, a) :: t)
    else if n < k then (if a = 0 then (k, b) :: t else (n, a) :: (k, b) :: t)
    else (k, b) :: mwrite t n a

/-- The canonical form: addresses strictly rising from `lo`, no entry 0. -/
def Mem.wfFrom : Nat → Mem → Bool
  | _, [] => true
  | lo, (k, b) :: t => decide (lo ≤ k) && b != 0 && Mem.wfFrom (k + 1) t

/-- Memory in canonical form. -/
def Mem.wf (m : Mem) : Bool := Mem.wfFrom 0 m

/-- `n` bytes from an address up. -/
def mreadN (m : Mem) (a : Nat) : Nat → List Byte
  | 0 => []
  | n + 1 => mread m a :: mreadN m (a + 1) n

/-- Bytes written from an address up. -/
def mwriteN (m : Mem) (a : Nat) : List Byte → Mem
  | [] => m
  | b :: bs => mwriteN (mwrite m a b) (a + 1) bs

/-- The little-endian value of `n` bytes (00 R4). -/
def mreadLE (m : Mem) (a n : Nat) : Nat := leNat (mreadN m a n)

/-- The memory with an `n`-byte little-endian value written. -/
def mwriteLE (m : Mem) (a n x : Nat) : Mem := mwriteN m a (leBytes n x)

/-- Lane `l` of a vector. -/
def Vec.lane (v : Vec) (l : Nat) : W32 := v.l.getD l 0

/-- The vector with the value of a function in each lane. -/
def Vec.ofFn (f : Nat → W32) : Vec := ⟨(List.range 128).map f⟩

/-- The vector that takes `new` in the lanes of a mask and `old` elsewhere. -/
def Vec.select (m : Mask) (new old : Vec) : Vec := Vec.ofFn fun l => if hasLane m l then new.lane l else old.lane l

/-- The vector with the same value in every lane. -/
def Vec.fill (x : W32) : Vec := ⟨List.replicate 128 x⟩

/-- The list with index `n` set; a list too short is left as it is. -/
def listSet {α : Type} : List α → Nat → α → List α
  | [], _, _ => []
  | _ :: t, 0, a => a :: t
  | b :: t, n + 1, a => b :: listSet t n a

/-- The list with index `n` set; a list too short is first filled up with `d`, which an absent index reads as. -/
def listPut {α : Type} (d : α) : List α → Nat → α → List α
  | [], 0, a => [a]
  | _ :: t, 0, a => a :: t
  | [], n + 1, a => d :: listPut d [] n a
  | b :: t, n + 1, a => b :: listPut d t n a

/-- The first element that satisfies `p`, and its index. -/
def indexOf? {α : Type} (p : α → Bool) : List α → Option Nat
  | [] => none
  | a :: t => if p a then some 0 else (indexOf? p t).map (· + 1)

end Sys2Proof.Machine
end

