-- ==== Sys2Proof/Machine/Units.lean ====
section
/-! DEFINITION. The numbering of the package (chapter 01) and access to the units of the state by their numbers. -/
namespace Sys2Proof.Machine

/-- The tower of a core (01 R12). -/
def towerOfCore (c : Nat) : Nat := c / 80
/-- The cluster of a core (01 R13). -/
def clusterOfCore (c : Nat) : Nat := 20 * (c / 80) + 5 * (c % 80 / 10 / 2) + c % 10 / 2
/-- The tower of a cluster (01 R13). -/
def towerOfCluster (k : Nat) : Nat := k / 20
/-- The core of local index j of a cluster (01 R13). -/
def coreOfCluster (k j : Nat) : Nat :=
  80 * (k / 20) + 10 * (2 * (k % 20 / 5) + j / 2) + 2 * (k % 5) + j % 2

/-- The home slice of a line of region 0 or 1 (05 R103). -/
def homeTower (pa : Nat) : Nat :=
  if bitsAt pa 48 4 = 1 then pa % 2 ^ 48 / 2 ^ 28 / 80
  else bitsAt pa 7 3 ^^^ bitsAt pa 10 3 ^^^ bitsAt pa 13 3 ^^^ bitsAt pa 16 3 ^^^ bitsAt pa 19 3 ^^^ bitsAt pa 22 3

/-- A core, at its reset value while nothing has touched it. -/
def getCore (s : State) (c : Nat) : Core := tgetD s.cores c Core.reset
def setCore (s : State) (c : Nat) (x : Core) : State := { s with cores := tput s.cores c x }
/-- A cluster. -/
def getCluster (s : State) (k : Nat) : Cluster := tgetD s.clusters k Cluster.reset
def setCluster (s : State) (k : Nat) (x : Cluster) : State := { s with clusters := tput s.clusters k x }
def modCluster (s : State) (k : Nat) (f : Cluster → Cluster) : State := setCluster s k (f (getCluster s k))
/-- A tower. -/
def getTower (s : State) (t : Nat) : Tower := tgetD s.towers t Tower.reset
def setTower (s : State) (t : Nat) (x : Tower) : State := { s with towers := tput s.towers t x }
/-- A context, if it exists. -/
def getCtx (s : State) (k : Nat) : Option Ctx := tget s.ctxs k
def setCtx (s : State) (k : Nat) (x : Ctx) : State := { s with ctxs := tput s.ctxs k x }
/-- A change of a context that exists. -/
def modCtx (s : State) (k : Nat) (f : Ctx → Ctx) : State :=
  match getCtx s k with
  | some c => setCtx s k (f c)
  | none => s
/-- A workgroup. -/
def getGroup (s : State) (g : Nat) : Option Group := tget s.groups g
def setGroup (s : State) (g : Nat) (x : Group) : State := { s with groups := tput s.groups g x }
def modGroup (s : State) (g : Nat) (f : Group → Group) : State :=
  match getGroup s g with
  | some x => setGroup s g (f x)
  | none => s
/-- A frame. -/
def getFrame (s : State) (f : Nat) : Option Frame := tget s.frames f
def setFrame (s : State) (f : Nat) (x : Frame) : State := { s with frames := tput s.frames f x }

/-- The warp of a key: the warp in focus, or one of the others. -/
def getWarp (s : State) (k : Nat) : Option Warp := if s.w.id = k then some s.w else tget s.warps k
/-- A warp put back under its key. -/
def setWarp (s : State) (w : Warp) : State :=
  if s.w.id = w.id then { s with w := w } else { s with warps := tput s.warps w.id w }
def modWarp (s : State) (k : Nat) (f : Warp → Warp) : State :=
  match getWarp s k with
  | some w => setWarp s { f w with id := w.id }
  | none => s
/-- Every warp, by key. -/
def allWarps (s : State) : List Warp := s.w :: (s.warps.filter fun p => p.1 != s.w.id).map (·.2)
/-- The state with the warp of a key in focus; a sequencer that never ran comes up idle, and a slot that has been left is
forgotten. -/
def focus (s : State) (k : Nat) : State :=
  if s.w.id = k then s
  else
    let next := (tget s.warps k).getD (Warp.idle k (if k < 160 then .seq k else .none))
    let rest := tdel s.warps k
    { s with w := { next with id := k }, warps := if s.w.kind = .none then tdel rest s.w.id else tput rest s.w.id s.w }
/-- The warp in focus has had its turn: it is the most recently served one (14 R346). -/
def stampW (s : State) : State := { s with uses := s.uses + 1, w := { s.w with stamp := s.uses + 1 } }
/-- A change of every warp. -/
def mapWarps (s : State) (f : Warp → Warp) : State :=
  { s with w := { f s.w with id := s.w.id }, warps := s.warps.map fun p => (p.1, { f p.2 with id := p.2.id }) }

/-- The workgroup of a warp, if it has one. -/
def Warp.groupId (w : Warp) : Option Nat :=
  match w.kind with
  | .group g => some g
  | _ => none
/-- A warp record that is a matrix sequencer (09 R204). -/
def Warp.isSeq (w : Warp) : Bool :=
  match w.kind with
  | .seq _ => true
  | _ => false
/-- The cluster that a warp or sequencer is in (01 R13). -/
def Warp.cluster (w : Warp) : Nat :=
  match w.kind with
  | .seq k => k
  | _ => clusterOfCore w.home.core
/-- The core whose L1 and translation caches a warp uses; a sequencer uses those of its cluster's core 0 (log 8). -/
def Warp.coreNo (w : Warp) : Nat :=
  match w.kind with
  | .seq k => coreOfCluster k 0
  | _ => w.home.core
/-- The lanes that have not exited (07 R161). -/
def Warp.alive (w : Warp) : Mask := ~~~ w.exited
/-- A mask ANDed with the lanes that have not exited (07 R161). -/
def Warp.gate (w : Warp) (m : Mask) : Mask := m &&& ~~~ w.exited

/-- The commands that an engine holds, oldest first. -/
def engineQueue (s : State) (e : Engine) : List Cmd :=
  match e with
  | .copy c k => tgetD (getCluster s c).queues k.toNat []
  | .dma t => (getTower s t).dma
  | .raster t k => tgetD (getTower s t).rasterCmd k.toNat []
  | .classify c => tgetD (getCluster s c).queues 4 []
  | .attr c => tgetD (getCluster s c).queues 5 []
  | .traverse c => tgetD (getCluster s c).queues 6 []
  | .blend t => (getTower s t).blendCmd
  | .matrix c => tgetD (getCluster s c).queues 8 []
  | .sampler _ => []
  | .host => tgetD s.portCmds 9 []
  | .peer => tgetD s.portCmds 10 []

/-- The cache class of the accesses that a core or a unit makes now (05 R106): that of the warp in focus, or of its sampler or
traversal engine; of the record or else the command that an engine has before it; and 0 of firmware (log 94). -/
def accessCls (s : State) (u : Walker) : Nat :=
  let ofCmd (e : Engine) := ((engineQueue s e).head?.map fun c => bitsAt (c.words.headD 0).toNat 32 3).getD 0
  match u with
  | .core .. => s.w.home.cls
  | .engine e =>
    match e with
    | .sampler _ => s.w.home.cls
    | .traverse _ => s.w.home.cls
    | .matrix c => ((getWarp s c).map (·.home.cls)).getD 0
    | .raster t k => match tgetD (getTower s t).raster k.toNat [] with
      | r :: _ => r.cls
      | [] => ofCmd e
    | .blend t => match (getTower s t).frags with
      | r :: _ => r.cls
      | [] => ofCmd e
    | _ => ofCmd e
  | _ => 0

/-- The next free value: the counter is advanced (log 5). -/
def freeChoice (s : State) (n : Nat) : Nat × State := (Config.choice s.free % n, { s with free := s.free + 1 })

end Sys2Proof.Machine
end

