-- ==== Sys2Proof/Machine/Phys.lean ====
section
/-! DEFINITION. Physical storage: the regions (03 Table 03-1), the on-chip map (05 R112 to R114), poison (05 R105) and the
first-level cache with its dirty masks and generations (05 R110, R111). -/
namespace Sys2Proof.Machine

/-- The region of a physical address (03 Table 03-1). -/
def region (pa : Nat) : Nat := bitsAt pa 48 4

/-- The extent of a window kind of the on-chip map (05 Table 05-4): number of units and bytes of each. -/
def mapExtent (kind : Nat) : Nat × Nat :=
  match kind with
  | 0 => (640, 0x1000000)
  | 1 => (640, 0x70000)
  | 2 => (160, 0x100000)
  | 3 => (160, 0x80000)
  | 4 => (160, 0x80000)
  | 5 => (160, 0x40000)
  | _ => (0, 0)

/-- Every byte of a range of physical addresses is populated (03 Table 03-1, 05 R112). -/
def populated (pa size : Nat) : Bool :=
  let off := pa % 2 ^ 48
  match pa / 2 ^ 48 with
  | 0 => off + size ≤ 0x1800000000
  | 1 => off + size ≤ 0x2800000000
  | 2 =>
    let (units, bytes) := mapExtent (bitsAt pa 44 4)
    bitsAt pa 32 12 < units && pa % 2 ^ 32 + size ≤ bytes
  | 3 => off + size ≤ 2 ^ 48
  | 4 => off + size ≤ 2 ^ 48
  | 15 => off + size ≤ 2 ^ 48
  | _ => false

/-- The warp in a slot of a core. -/
def warpInSlot (s : State) (core slot : Nat) : Option Warp :=
  (allWarps s).find? fun w => w.live && w.home.resident && w.groupId.isSome && w.home.core == core && w.home.slot == slot

/-- The workgroups resident on a core, by number. -/
def groupsOnCore (s : State) (core : Nat) : List (Nat × Group) := s.groups.filter fun p => p.2.resident && p.2.core == core

/-- The workgroup and offset in its scratchpad of a byte of a core's scratchpad, each workgroup with its own bytes (05 R109;
log 9). -/
def scratchAt : List (Nat × Group) → Nat → Option (Nat × Nat)
  | [], _ => none
  | (g, x) :: rest, off =>
    let i := x.skib.findIdx (· == off / 1024)
    if i < x.skib.length then some (g, 1024 * i + off % 1024) else scratchAt rest off

/-- The scratchpad part of a core in KiB: the sum over its resident workgroups in steps of 64 KiB (05 R109). -/
def scratchPart (s : State) (core : Nat) : Nat := roundUp ((groupsOnCore s core).foldl (fun n p => n + p.2.scratch) 0) 64

/-- Bytes of one stream of a warp (10 R232). -/
def Warp.zbytes (w : Warp) : Nat := w.lmax / 8
/-- Bytes of a warp's stream reservation (10 R232), aligned to 16. -/
def Warp.zsize (w : Warp) : Nat := roundUp (w.zregs * 128 * (w.zbytes + 4)) 16
/-- The warp whose stream reservation holds a byte of a cluster's store. -/
def warpAtStream (s : State) (cl off : Nat) : Option Warp :=
  (allWarps s).find? fun w =>
    w.live && w.home.resident && w.groupId.isSome && w.cluster == cl && w.zbase ≤ off && off < w.zbase + w.zsize

/-- A lane of a stream register: void where none was generated (10 R233). -/
def ZLane.void0 : ZLane := ⟨0, 0, true⟩
def Warp.zlane (w : Warp) (z l : Nat) : ZLane := (w.z.getD z []).getD l ZLane.void0
/-- The mask word of a stream register (10 Table 10-1). -/
def ZLane.maskWord (x : ZLane) : Nat := x.cls.toNat + (if x.void then 65536 else 0)

/-- A byte of the on-chip map as a context reads it; what is not its own reads zero (05 R114). -/
def mapRead (s : State) (ctx pa : Nat) : Byte :=
  let idx := bitsAt pa 32 12
  let off := pa % 2 ^ 32
  let owned (k : Nat) := (getCluster s k).owner == some ctx
  match bitsAt pa 44 4 with
  | 0 =>
    match warpInSlot s idx (off / 0x40000) with
    | some w =>
      if w.home.ctx == ctx then
        match w.v[off % 0x40000 / 512]? with
        | some v => BitVec.ofNat 8 ((v.lane (off % 512 / 4)).toNat / 2 ^ (8 * (off % 4)))
        | none => 0
      else 0
    | none => 0
  | 1 =>
    match scratchAt (groupsOnCore s idx) off with
    | some (g, o) =>
      match getGroup s g with
      | some x => if x.ctx == ctx then mread x.mem o else 0
      | none => 0
    | none => 0
  | 2 => if owned idx then mread (getCluster s idx).tile off else 0
  | 3 => if owned idx then mread (getCluster s idx).acc off else 0
  | 4 => if owned idx then mread (getCluster s idx).cells off else 0
  | _ =>
    match warpAtStream s idx off with
    | some w =>
      if w.home.ctx == ctx then
        let o := off - w.zbase
        let bits := w.zregs * 128 * w.zbytes
        if o < bits then
          let x := w.zlane (o / (128 * w.zbytes)) (o / w.zbytes % 128)
          if o % w.zbytes < w.slen / 8 then BitVec.ofNat 8 (x.bits.toNat / 2 ^ (8 * (o % w.zbytes))) else 0
        else if o < bits + w.zregs * 512 then
          BitVec.ofNat 8 ((w.zlane ((o - bits) / 512) ((o - bits) / 4 % 128)).maskWord / 2 ^ (8 * ((o - bits) % 4)))
        else 0
      else 0
    | none => 0

/-- Whether a byte of the on-chip map is storage that a context owns and reaches (05 R114). -/
def mapOwn (s : State) (ctx pa : Nat) : Bool :=
  let idx := bitsAt pa 32 12
  let off := pa % 2 ^ 32
  match bitsAt pa 44 4 with
  | 0 =>
    match warpInSlot s idx (off / 0x40000) with
    | some w => w.home.ctx == ctx && off % 0x40000 / 512 < w.v.length
    | none => false
  | 1 =>
    match scratchAt (groupsOnCore s idx) off with
    | some (g, _) => ((getGroup s g).map fun x => x.ctx == ctx).getD false
    | none => false
  | 5 =>
    match warpAtStream s idx off with
    | some w => w.home.ctx == ctx
    | none => false
  | _ => (getCluster s idx).owner == some ctx

/-- A vector with byte `b` of lane `l` replaced. -/
def Vec.setByte (v : Vec) (l b : Nat) (x : Byte) : Vec :=
  let old := (v.lane l).toNat
  ⟨listSet v.l l (BitVec.ofNat 32 (old - bitsAt old (8 * b) 8 * 2 ^ (8 * b) + x.toNat * 2 ^ (8 * b)))⟩

/-- A byte of the on-chip map written by a context; what is not its own is dropped (05 R114, 10 R251). -/
def mapWrite (s : State) (ctx pa : Nat) (x : Byte) : State :=
  let idx := bitsAt pa 32 12
  let off := pa % 2 ^ 32
  let own (f : Cluster → Cluster) := if (getCluster s idx).owner == some ctx then modCluster s idx f else s
  match bitsAt pa 44 4 with
  | 0 =>
    match warpInSlot s idx (off / 0x40000) with
    | some w =>
      if w.home.ctx == ctx then
        match w.v[off % 0x40000 / 512]? with
        | some v => setWarp s { w with v := listSet w.v (off % 0x40000 / 512) (v.setByte (off % 512 / 4) (off % 4) x) }
        | none => s
      else s
    | none => s
  | 1 =>
    match scratchAt (groupsOnCore s idx) off with
    | some (g, o) => modGroup s g fun y => if y.ctx == ctx then { y with mem := mwrite y.mem o x } else y
    | none => s
  | 2 => own fun k => { k with tile := mwrite k.tile off x }
  | 3 => own fun k => { k with acc := mwrite k.acc off x }
  | 4 => own fun k => { k with cells := mwrite k.cells off x }
  | _ =>
    match warpAtStream s idx off with
    | some w =>
      let o := off - w.zbase
      if w.home.ctx == ctx && o < w.zregs * 128 * w.zbytes && o % w.zbytes < w.slen / 8 then
        let z := o / (128 * w.zbytes)
        let l := o / w.zbytes % 128
        let y := w.zlane z l
        let n := y.bits.toNat
        let i := 8 * (o % w.zbytes)
        let y' := { y with bits := BitVec.ofNat 1024 (n - bitsAt n i 8 * 2 ^ i + x.toNat * 2 ^ i) }
        setWarp s { w with z := listSet w.z z (listSet (w.z.getD z []) l y') }
      else s
    | none => s

/-- A byte of physical storage at its home; regions 3, 4 and 0xF are no storage of this device. -/
def physByte (s : State) (ctx pa : Nat) : Byte :=
  match region pa with
  | 0 => mread s.mem pa
  | 1 => mread s.mem pa
  | 2 => mapRead s ctx pa
  | _ => 0

/-- `n` bytes of physical storage. -/
def physRead (s : State) (ctx pa : Nat) : Nat → List Byte
  | 0 => []
  | n + 1 => physByte s ctx pa :: physRead s ctx (pa + 1) n

/-- The sectors of a range that the range covers whole. -/
def wholeSectors (pa n : Nat) : List Nat :=
  ((List.range (n / 32 + 1)).map fun i => ceilDiv pa 32 + i).filter fun q => pa ≤ 32 * q && 32 * q + 32 ≤ pa + n

/-- Bytes written to the on-chip map one by one. -/
def mapWriteN (s : State) (ctx pa : Nat) : List Byte → State
  | [] => s
  | b :: bs => mapWriteN (mapWrite s ctx pa b) ctx (pa + 1) bs

/-! The two DRAM tiers and the L2 slices (05 R103, R106 to R108). -/

/-- Where the DRAM of a line stands: a vault, or a GDDR-7 device and the tower that it sits behind (05 R103). -/
inductive Dram where
  | vault (v : Nat)
  | gddr (device tower : Nat)
  deriving DecidableEq, Repr

/-- The tower behind which a GDDR-7 device sits (05 R103). -/
def gddrTower (device : Nat) : Nat :=
  match device / 6 with
  | 0 => 1
  | 1 => 2
  | 2 => 5
  | _ => 6

/-- The DRAM of a line (01 R14, 05 R103). -/
def dramOf (pa : Nat) : Dram :=
  if region pa = 1 then .vault (pa % 2 ^ 48 / 2 ^ 28) else .gddr (pa / 256 % 24) (gddrTower (pa / 256 % 24))

/-- The 64 KiB frames of a vault in order of accesses, the most first and at most 16 (05 Table 05-7). -/
def hottest (touched : Tab Nat) (v : Nat) : List Nat :=
  let mine := touched.filter fun p => p.1 / 4096 == v
  ((mine.foldr (fun x acc => acc.takeWhile (fun y => decide (x.2 < y.2)) ++ x :: acc.dropWhile (fun y => decide (x.2 < y.2))) []).take 16).map (·.1)

/-- An access of the DRAM of a line, in the counts of the accesses to each frame and the frames recorded: each vault of a stack that is
not at its normal level records its most-accessed frames (05 R118, Table 05-7; frames are numbered from the base of region 1). -/
def dramCount (thermal : Nat) (x : Tab Nat × Tab (List Nat)) (pa : Nat) : Tab Nat × Tab (List Nat) :=
  match dramOf pa with
  | .gddr .. => x
  | .vault v =>
    if thermal = 0 then x
    else
      let touched := tmod x.1 (pa % 2 ^ 48 / 65536) 0 (· + 1)
      (touched, tput x.2 v (hottest touched v))

/-- The DRAM accesses of a tower's slice, in order. -/
def Tower.drams (t : Tower) (pas : List Nat) : Tower :=
  let x := pas.foldl (dramCount t.thermal) (t.touched, t.hot)
  { t with touched := x.1, hot := x.2 }

/-- The quota of a cache class (05 Table 05-1). -/
def Tower.quota (t : Tower) (c : Nat) : Ways := tgetD t.ways c ⟨0, 16⟩

/-- Lines of a class in a set. -/
def occupancy (ls : List L2Line) (c : Nat) : Nat := (ls.filter fun x => x.cls == c).length

/-- The least recently used line that a test selects; an evict-first fill takes one filled with keep only for want of another
(06 R129). -/
def lruLine (hint : Hint) (p : L2Line → Bool) (ls : List L2Line) : Option L2Line :=
  let xs := ls.filter p
  if hint = .evictFirst then (xs.filter (!·.keep)).getLast?.orElse fun _ => xs.getLast? else xs.getLast?

/-- What a fill finds in a set (05 R108). -/
inductive L2Room where
  | free
  | victim (l : L2Line)
  | refused

/-- A way for a line of a class in a set (05 R108): a way that is empty, unless the class has its MAXW; else a victim. -/
def l2Room (t : Tower) (c : Nat) (hint : Hint) (ls : List L2Line) : L2Room :=
  let take (p : L2Line → Bool) : L2Room := match lruLine hint p ls with
    | some l => .victim l
    | none => .refused
  if (t.quota c).maxw ≤ occupancy ls c then take fun x => x.cls == c
  else if ls.length < 16 - t.vtways then .free
  else if ls.any fun x => (t.quota x.cls).minw < occupancy ls x.cls then take fun x => (t.quota x.cls).minw < occupancy ls x.cls
  else take fun x => x.cls == c

/-- A set with a way made free for a line of a class, if it has one: the lines that stay, and the victims. -/
def l2Fill (t : Tower) (c : Nat) (hint : Hint) : Nat → List L2Line → List L2Line → Option (List L2Line × List L2Line)
  | 0, _, _ => none
  | n + 1, ls, out =>
    match l2Room t c hint ls with
    | .free => some (ls, out)
    | .victim l => l2Fill t c hint n (ls.filter fun x => x.pa != l.pa) (l :: out)
    | .refused => none

/-- The set of an L2 slice that a line falls into: 12 MiB a way are 98,304 sets (05 R106). -/
def l2SetOf (line : Nat) : Nat := Config.l2Set line % 98304

/-- An access of a class to one line in its set (05 R106, R108): a line present becomes the most recently used; else it is filled, an
evict-first fill as the least recently used; without a way the DRAM serves the access. With the set are the lines whose DRAM is
accessed: the line filled, and the victims with dirty bytes. -/
def l2Lines (t : Tower) (cls : Nat) (hint : Hint) (line : Nat) (dirty : BitVec 128) (ls : List L2Line) : List L2Line × List Nat :=
  match ls.find? fun x => x.pa == 128 * line with
  | some x => ({ x with dirty := x.dirty ||| dirty, keep := x.keep || hint == .keep } :: ls.filter fun y => y.pa != 128 * line, [])
  | none =>
    match l2Fill t cls hint (ls.length + 1) ls [] with
    | none => (ls, [128 * line])
    | some (rest, out) =>
      let x : L2Line := ⟨128 * line, cls, hint == .keep, dirty⟩
      (if hint = .evictFirst then rest ++ [x] else x :: rest, 128 * line :: (out.filter (·.dirty != 0)).map (·.pa))

/-- The access at the line's home slice (05 R103). `dirty` are the bytes written. -/
def l2Access (s : State) (cls : Nat) (hint : Hint) (line : Nat) (dirty : BitVec 128) : State :=
  let h := homeTower (128 * line)
  let t := getTower s h
  let x := l2Lines t cls hint line dirty (tgetD t.l2 (l2SetOf line) [])
  setTower s h ({ t with l2 := if x.1.isEmpty then t.l2 else tput t.l2 (l2SetOf line) x.1 }.drams x.2)

/-- The bytes of a range that lie in one line, as a mask. -/
def maskIn (line pa n : Nat) : BitVec 128 := BitVec.ofNat 128 (2 ^ min 128 (pa + n - 128 * line) - 2 ^ (pa - 128 * line))

/-- Accesses to lines in order. -/
def l2Range (s : State) (cls : Nat) (hint : Hint) (pa n : Nat) (wr : Bool) : List Nat → State
  | [] => s
  | q :: qs => l2Range (l2Access s cls hint q (if wr then maskIn q pa n else 0)) cls hint pa n wr qs

/-- An access of a class to a range of physical storage at its homes: L2 serves regions 0 and 1 (05 R103, R113). -/
def touch (s : State) (cls : Nat) (pa n : Nat) (wr : Bool) : State :=
  if region pa < 2 && n != 0 then l2Range s cls .default pa n wr ((List.range ((pa + n - 1) / 128 + 1 - pa / 128)).map (pa / 128 + ·)) else s

/-! Physical storage at its home. -/

/-- A byte of a range lies in a poisoned sector that the access of a context reaches (05 R105, R114). -/
def poisoned (s : State) (ctx pa n : Nat) : Bool :=
  s.poison.any (fun q => q * 32 < pa + n && pa < q * 32 + 32) && (region pa != 2 || (List.range n).any fun i => mapOwn s ctx (pa + i))

/-- Bytes written to physical storage at its home by an access of a class. A write of a whole sector clears its poison (05 R105);
one that has no effect clears none (R114). -/
def physWrite (s : State) (ctx cls pa : Nat) (bs : List Byte) : State :=
  let clears (q : Nat) := (wholeSectors pa bs.length).contains q && (region pa != 2 || (List.range 32).all fun i => mapOwn s ctx (32 * q + i))
  let s := { s with poison := s.poison.filter fun q => !clears q }
  match region pa with
  | 0 => touch { s with mem := mwriteN s.mem pa bs } cls pa bs.length true
  | 1 => touch { s with mem := mwriteN s.mem pa bs } cls pa bs.length true
  | 2 => mapWriteN s ctx pa bs
  | _ => s

/-! The first-level cache. -/

/-- The line of a core that holds a context's copy of a 128-byte line. -/
def Core.line? (c : Core) (ctx pa : Nat) : Option Line := c.lines.find? fun l => l.ctx == ctx && l.pa == pa

/-- Two lines of a core are the same line. -/
def Line.same (a b : Line) : Bool := a.ctx == b.ctx && a.pa == b.pa

/-- Every clean byte of the line is as it was fetched in this generation. -/
def Line.fresh (l : Line) (gen : BitVec 16) : Bool := l.gen == gen && (l.valid ||| l.dirty) == BitVec.allOnes 128

/-- The line with every clean byte that is stale, or was never fetched, fetched from its home (05 R111). -/
def Line.refresh (s : State) (gen : BitVec 16) (l : Line) : Line :=
  let keep (i : Nat) := l.dirty.getLsbD i || (l.gen == gen && l.valid.getLsbD i)
  if l.fresh gen then l
  else
    { l with gen := gen, valid := BitVec.allOnes 128
             bytes := (List.range 128).map fun i => if keep i then l.bytes.getD i 0 else mread s.mem (l.pa + i) }

/-- The lines that a core's L1 holds: what its scratchpad part leaves of 512 KiB (05 R109). -/
def l1Lines (s : State) (core : Nat) : Nat := (512 - scratchPart s core) * 8

/-- The dirty bytes of a line, written to their home from byte `i` on. -/
def flushFrom (s : State) (l : Line) : Nat → Nat → State
  | _, 0 => s
  | i, n + 1 =>
    let s := if l.dirty.getLsbD i then { s with mem := mwrite s.mem (l.pa + i) (l.bytes.getD i 0) } else s
    flushFrom s l (i + 1) n

/-- The poison of the sectors of a line whose 32 bytes are all dirty clears at its write-back (05 R105). -/
def clearPoison (s : State) (l : Line) : State :=
  { s with poison := s.poison.filter fun q =>
      !(q * 32 / 128 == l.pa / 128 && bitsAt l.dirty.toNat (q % 4 * 32) 32 == 2 ^ 32 - 1) }

/-- A line's dirty bytes written to its home (05 R110): the home and its slice. -/
def writeBack (s : State) (l : Line) : State :=
  if l.dirty = 0 then s else l2Access (clearPoison (flushFrom s l 0 128) l) l.cls .default (l.pa / 128) l.dirty

/-- A line leaves a core's L1: its dirty bytes go home (05 R110). -/
def evictLine (s : State) (core : Nat) (l : Line) : State :=
  let s := writeBack s l
  let c := getCore s core
  setCore s core { c with lines := c.lines.filter fun x => !x.same l }

/-- The line that makes room in an L1: the least recently used (06 R129; log 95). -/
def l1Victim (hint : Hint) (ls : List Line) : Option Line :=
  if hint = .evictFirst then (ls.filter fun l => l.hint != .keep).getLast?.orElse fun _ => ls.getLast? else ls.getLast?

/-- Lines leave a core's L1 until it holds at most `room`. -/
def shrinkL1 (core : Nat) (hint : Hint) (room : Nat) : Nat → State → State
  | 0, s => s
  | n + 1, s =>
    if (getCore s core).lines.length ≤ room then s
    else
      match l1Victim hint (getCore s core).lines with
      | some l => shrinkL1 core hint room n (evictLine s core l)
      | none => s

/-- The L1 of a core fitted to its part of the 512 KiB: what it gives up is written back first (05 R109). -/
def fitL1 (s : State) (core : Nat) : State := shrinkL1 core .default (l1Lines s core) (getCore s core).lines.length s

/-- The line of an access in a core's L1, brought in or refreshed (05 R110, R111); its hint says where it stands (06 R129). -/
def openLine (s : State) (core ctx cls : Nat) (hint : Hint) (pa : Nat) : State × Line :=
  let base := pa / 128 * 128
  match (getCore s core).line? ctx base with
  | some l =>
    let c := getCore s core
    let l' := { l.refresh s c.gen with hint := if hint = .keep then .keep else l.hint }
    let s := if l.fresh c.gen then s else l2Access s cls hint (base / 128) 0
    (setCore s core { c with lines := l' :: c.lines.filter fun x => !x.same l }, l')
  | none =>
    let s := shrinkL1 core hint (l1Lines s core - 1) (getCore s core).lines.length s
    let s := l2Access s cls hint (base / 128) 0
    let c := getCore s core
    let l : Line := ⟨ctx, base, mreadN s.mem base 128, 0, BitVec.allOnes 128, c.gen, cls, hint⟩
    (setCore s core { c with lines := if hint = .evictFirst then c.lines ++ [l] else l :: c.lines }, l)

/-- A load of bytes that lie in one line, by a core: through L1 in regions 0 and 1, at the storage in region 2. -/
def coreLoad (s : State) (core ctx cls : Nat) (hint : Hint) (pa n : Nat) : State × List Byte :=
  if region pa < 2 then
    let (s, l) := openLine s core ctx cls hint pa
    (s, (List.range n).map fun i => l.bytes.getD (pa % 128 + i) 0)
  else (s, physRead s ctx pa n)

/-- The bytes of a list replaced from an index up. -/
def overlay (xs : List Byte) (at_ : Nat) : List Byte → List Byte
  | [] => xs
  | y :: ys => overlay (listPut 0 xs at_ y) (at_ + 1) ys

/-- A line with bytes stored into it and marked dirty (05 R110). -/
def Line.store (l : Line) (pa : Nat) (bs : List Byte) : Line :=
  { l with bytes := overlay l.bytes (pa % 128) bs, dirty := l.dirty ||| BitVec.ofNat 128 ((2 ^ bs.length - 1) * 2 ^ (pa % 128)) }

/-- A store of bytes that lie in one line, by a core: into L1 with its dirty mask in regions 0 and 1 (05 R110). -/
def coreStore (s : State) (core ctx cls : Nat) (hint : Hint) (pa : Nat) (bs : List Byte) : State :=
  if region pa < 2 then
    let (s, l) := openLine s core ctx cls hint pa
    let c := getCore s core
    setCore s core { c with lines := c.lines.map fun x => if x.same l then { l.store pa bs with cls := cls } else x }
  else physWrite s ctx cls pa bs

/-- Write-backs of a list of lines. -/
def writeBackLines (s : State) : List Line → State
  | [] => s
  | l :: ls => writeBackLines (writeBack s l) ls

/-- Every dirty byte that a core holds and that a test selects is written back, and its lines are clean. -/
def writeBackIf (s : State) (core : Nat) (p : Line → Bool) : State :=
  let s := writeBackLines s ((getCore s core).lines.filter p)
  let c := getCore s core
  setCore s core { c with lines := c.lines.map fun l => if p l then { l with dirty := 0 } else l }

/-- Every dirty byte of a context in a core goes home (12 Table 12-7). -/
def writeBackCtx (s : State) (core ctx : Nat) : State := writeBackIf s core fun l => l.ctx == ctx

/-- The dirty bytes of one line of a context go home. -/
def writeBackPa (s : State) (core ctx pa : Nat) : State := writeBackIf s core fun l => l.ctx == ctx && l.pa == pa / 128 * 128

/-- The bytes of a line's sectors that a range meets, as a mask: a sector is fetched as one snapshot (04 R94). -/
def sectorMask (line pa n : Nat) : BitVec 128 :=
  BitVec.ofNat 128 ((List.range 4).foldl (fun m q =>
    let a := 128 * line + 32 * q
    if a < pa + n && pa < a + 32 then m + (2 ^ 32 - 1) * 2 ^ (32 * q) else m) 0)

/-- The clean copy that a core holds of the sectors of a range is stale: the next access fetches them (06 R136, 12 R315). -/
def staleBytes (s : State) (core ctx pa n : Nat) : State :=
  let c := getCore s core
  setCore s core { c with lines := c.lines.map fun l =>
    if l.ctx == ctx && l.pa < pa + n && pa < l.pa + 128 then { l with valid := l.valid &&& ~~~ sectorMask (l.pa / 128) pa n } else l }

/-- The generation of a core advances (05 R111); a wrap drops every clean byte. -/
def genBump (s : State) (core : Nat) : State :=
  let c := getCore s core
  if c.gen = 0xFFFF then setCore s core { c with gen := 0, lines := c.lines.map fun l => { l with valid := 0 } }
  else setCore s core { c with gen := c.gen + 1 }

/-- A read by a core returns a poisoned byte: one that no dirty byte of its own hides (05 R105). -/
def readsPoison (s : State) (core ctx pa n : Nat) : Bool :=
  poisoned s ctx pa n &&
    match (getCore s core).line? ctx (pa / 128 * 128) with
    | some l => !(List.range n).all fun i => l.dirty.getLsbD (pa % 128 + i) || !poisoned s ctx (pa + i) 1
    | none => true

end Sys2Proof.Machine
end

