-- ==== Sys2Proof/Machine/Walk.lean ====
section
/-! DEFINITION. Translation: entries, walks, permissions, the A and D bits and the translation caches (chapter 03). -/
namespace Sys2Proof.Machine

/-- A translation fault (03 R70, R71): cause, and the fields of the fault word, with the VA that faulted; or a walk that read a
poisoned entry, by its address (05 R105). -/
structure PFault where
  cause  : Nat
  level  : Nat
  wr     : Bool
  fetch  : Bool
  atom   : Bool
  window : Bool
  va     : Nat
  poison : Option Nat
  deriving DecidableEq, Repr

/-- What a translation returns (03 R56). -/
structure Xlat where
  pa    : Nat
  fmt   : Nat
  geom  : Nat
  place : Nat
  deriving DecidableEq, Repr

/-- The fault word (03 Table 03-4). -/
def PFault.word (f : PFault) : Nat :=
  joinBits [(3, f.level), (1, f.wr.toNat), (1, f.fetch.toNat), (1, f.atom.toNat),
            (2, if f.cause = 0x10 then 1 else if f.cause = 0x11 then 2 else 3), (1, f.window.toNat)]

/-- A fault of an access of a kind. -/
def pfault (cause level : Nat) (k : Access) (window : Bool) (va : Nat) : PFault :=
  ⟨cause, level, k == .write || k == .atomic, k == .fetch, k == .atomic, window, va, none⟩

/-- The index of a VA at a level (03 R55). -/
def vaIndex (va n : Nat) : Nat := va / 2 ^ (48 - 9 * n) % 512

/-- Bytes that an entry of a level covers (03 R56). -/
def levelSize (n : Nat) : Nat := 4096 * 2 ^ (9 * (4 - n))

/-- PA[51:12] of an entry, in place. -/
def entPa (e : Nat) : Nat := bitsAt e 16 40 * 4096

/-- A non-leaf or leaf entry at a level is reserved (03 R57 to R59); `fw` in firmware's own tables. -/
def entryReserved (fw : Bool) (e n : Nat) : Bool :=
  let pa := entPa e
  bitsAt e 56 8 != 0 ||
  (if bitsAt e 1 1 == 0 then
    bitsAt e 2 14 != 0 || n == 4 || !(pa / 2 ^ 48 < 2 && populated pa 4096)
  else
    n < 2 || pa % levelSize n != 0 || (bitsAt e 5 1 == 1 && n != 4) || 8 ≤ bitsAt e 8 4 ||
    (bitsAt e 12 2 != 0 && (bitsAt e 8 4 == 0 || bitsAt e 8 4 == 7)) ||
    (if pa / 2 ^ 48 == 15 then !fw
     else !(match bitsAt e 14 2 with
       | 0 => pa / 2 ^ 48 == 0 || pa / 2 ^ 48 == 2
       | 1 => pa / 2 ^ 48 == 1
       | 2 => pa / 2 ^ 48 == 3
       | _ => pa / 2 ^ 48 == 4)) ||
    !populated pa (levelSize n) || (bitsAt e 4 1 == 1 && !fw))

/-- Entries read by the walk from a level down: the level, address and value of the leaf, and the non-leaf entries passed; `fw` in
firmware's own tables. A poisoned entry ends the walk (05 R105). -/
def walkFrom (fw : Bool) (s : State) (ctx va : Nat) (k : Access) :
    List Nat → Nat → List (Nat × Nat) → Except PFault (Nat × Nat × Nat × List (Nat × Nat))
  | [], _, _ => .error (pfault 0x12 4 k false va)
  | n :: rest, table, seen =>
    let a := table + 8 * vaIndex va n
    let e := mreadLE s.mem a 8
    if poisoned s ctx a 8 then .error { pfault 0x12 n k false va with poison := some a }
    else if e % 2 = 0 then .error (pfault 0x10 n k false va)
    else if entryReserved fw e n then .error (pfault 0x12 n k false va)
    else if bitsAt e 1 1 == 1 then .ok (n, a, e, seen)
    else walkFrom fw s ctx va k rest (entPa e) ((n, e) :: seen)

/-- The addresses of the entries that a walk reads at their homes, from a table down. -/
def walkReads (fw : Bool) (s : State) (va : Nat) : List Nat → Nat → List Nat
  | [], _ => []
  | n :: rest, table =>
    let a := table + 8 * vaIndex va n
    let e := mreadLE s.mem a 8
    if e % 4 = 1 && n != 4 && !entryReserved fw e n then a :: walkReads fw s va rest (entPa e) else [a]

/-- A byte of region 3 or 4 lies in a window granted to a context (03 R61, 16 R389, R394); no window of the host permits a write
unless it is writable (log 96). -/
def byteGranted (s : State) (ctx pa : Nat) (wr : Bool) : Bool :=
  match region pa with
  | 3 => s.mgmt.windows.any fun p => p.2.ctx == ctx && (p.2.writable || !wr) &&
           p.2.base.toNat ≤ pa % 2 ^ 48 && pa % 2 ^ 48 < p.2.base.toNat + p.2.size.toNat
  | 4 => match tget s.peers (bitsAt pa 36 12) with
         | some p => p.base.toNat ≤ pa % 2 ^ 36 && pa % 2 ^ 36 < p.base.toNat + p.size.toNat
         | none => false
  | _ => true

/-- Every byte of a range lies in a granted window (03 R61). -/
def windowOk (s : State) (ctx pa n : Nat) (wr : Bool) : Bool := region pa < 3 || (List.range n).all fun i => byteGranted s ctx (pa + i) wr

/-- Whether a leaf permits an access of `n` bytes at `pa` (03 R61); WINDOW tells of an address outside a granted window (Table 03-4). -/
def permitted (s : State) (ctx e level : Nat) (k : Access) (va pa n : Nat) : Option PFault :=
  let wr := k == .write || k == .atomic
  let outside := !windowOk s ctx pa n wr
  if (wr && bitsAt e 2 1 == 0) || (k == .fetch && bitsAt e 3 1 == 0) || outside then some (pfault 0x11 level k outside va) else none

/-- The translation caches of a walker, and the state with them changed (03 R65, R68). -/
def getTlbs (s : State) : Walker → Tlbs
  | .core c _ => (getCore s c).tlbs
  | .engine e => ((s.engines.find? (·.1 == e)).map (·.2)).getD ⟨[], [], []⟩
  | _ => ⟨[], [], []⟩
def setTlbs (s : State) (u : Walker) (t : Tlbs) : State :=
  match u with
  | .core c _ => setCore s c { getCore s c with tlbs := t }
  | .engine e => { s with engines := (e, t) :: s.engines.filter fun p => p.1 != e }
  | _ => s

/-- The first-level TLB of a walker. -/
def walkerGroup : Walker → Nat
  | .core _ g => g
  | _ => 0

def TlbEntry.covers (t : TlbEntry) (ctx va : Nat) : Bool := t.ctx == ctx && t.va ≤ va && va < t.va + t.size

/-- The entry that translates an address, from the first level or else the second. -/
def Tlbs.find (t : Tlbs) (g ctx va : Nat) : Option TlbEntry :=
  ((tgetD t.first g []).find? (·.covers ctx va)).orElse fun _ => t.second.find? (·.covers ctx va)

/-- A list with an element added in front; at its capacity, one of the others makes room: the device's choice. -/
def fillTo {α : Type} (xs : List α) (cap pick : Nat) (x : α) : List α :=
  if xs.length < cap then x :: xs else x :: xs.eraseIdx (pick % cap)

/-- A leaf translation installed (03 R65, R66): in the first-level TLB, and in a core's second level, whose sets of 8 ways
are the device's. -/
def installTlb (s : State) (u : Walker) (e : TlbEntry) : State :=
  let t := getTlbs s u
  let g := walkerGroup u
  let same (x : TlbEntry) := x.ctx == e.ctx && x.va == e.va && x.size == e.size
  let first := (tgetD t.first g []).filter (!same ·)
  let second := t.second.filter (!same ·)
  let pick := Config.choice s.free
  let first' := tput t.first g (fillTo first 64 pick e)
  let second' := match u with
    | .core _ _ =>
      if second.length < 8 then e :: second
      else
        let set := Config.tlbSet e.ctx (e.va / 4096) % 256
        let inSet := second.filter fun x => Config.tlbSet x.ctx (x.va / 4096) % 256 == set
        if inSet.length < 8 then e :: second
        else
          let victim := inSet.getD (Config.choice (s.free + 1) % 8) e
          e :: second.filter (· != victim)
    | _ => []
  let s := if first.length < 64 && second.length < 8 then s else { s with free := s.free + 2 }
  setTlbs s u { t with first := first', second := second' }

/-- Walk-cache entries kept of a walk (03 R65): 64 for each level. -/
def installWalks (s : State) (u : Walker) (ctx va : Nat) : List (Nat × Nat) → State
  | [] => s
  | (n, e) :: rest =>
    let t := getTlbs s u
    let key := va / 2 ^ (48 - 9 * n)
    let others := t.walks.filter fun x => !(x.ctx == ctx && x.level == n && x.key == key)
    let level := others.filter (·.level == n)
    let new : WalkEntry := ⟨ctx, n, key, BitVec.ofNat 64 e⟩
    let (walks, s) :=
      if level.length < 64 then (new :: others, s)
      else (new :: (others.filter (· != level.getD (Config.choice s.free % 64) new)), { s with free := s.free + 1 })
    installWalks (setTlbs s u { t with walks := walks }) u ctx va rest

/-- Where a walk begins: at the root, or below the deepest non-leaf entry that the walk caches hold (03 R65). -/
def walkStart (t : Tlbs) (ctx va root : Nat) : List Nat × Nat :=
  let hit (n : Nat) := t.walks.find? fun x => x.ctx == ctx && x.level == n && x.key == va / 2 ^ (48 - 9 * n)
  match hit 3 with
  | some w => ([4], entPa w.ent.toNat)
  | none => match hit 2 with
    | some w => ([3, 4], entPa w.ent.toNat)
    | none => match hit 1 with
      | some w => ([2, 3, 4], entPa w.ent.toNat)
      | none => match hit 0 with
        | some w => ([1, 2, 3, 4], entPa w.ent.toNat)
        | none => ([0, 1, 2, 3, 4], root)

/-- The translation that a leaf stands for: an L4 leaf with CONT its 64 KiB group, whatever the others of the group hold (03 R63,
R64), unless the group's frame would leave the populated memory, when it is the leaf's own (log 30). -/
def leafEntry (ctx va level e : Nat) : TlbEntry :=
  let size := levelSize level
  let back := va / 4096 % 16 * 4096
  let d := bitsAt e 7 1 == 1
  if bitsAt e 5 1 == 1 && back ≤ entPa e && populated (entPa e - back) 65536 then
    ⟨ctx, va / 65536 * 65536, 65536, entPa e - back, BitVec.ofNat 64 e, d⟩
  else ⟨ctx, va / size * size, size, entPa e, BitVec.ofNat 64 e, d⟩

/-- The entries of a walk read at their home slices, in the class of what walks (03 R69, 05 R106). -/
def touchEntries (s : State) (cls : Nat) (as : List Nat) : State := as.foldl (fun s a => touch s cls a 8 false) s

/-- The table that a walker walks: a context's, or the firmware's own for its control cores, whose entries may be SYS and name region 0xF
(03 R59). -/
def rootOf (s : State) (u : Walker) (ctx : Nat) : Option (Bool × Nat) :=
  match u with
  | .control _ => some (true, Config.firmwareRoot / 4096 * 4096)
  | _ => (getCtx s ctx).map fun c => (false, c.root)

/-- One walk for an access (03 R56 to R63): the caches filled, A and D set unless it is a prefetch, and the translation. -/
def walk (s : State) (u : Walker) (ctx : Nat) (k : Access) (prefetch : Bool) (va n : Nat) : State × Except PFault TlbEntry :=
  match rootOf s u ctx with
  | none => (s, .error (pfault 0x10 0 k false va))
  | some (fw, root) =>
    let (levels, table) := walkStart (getTlbs s u) ctx va root
    let s := touchEntries s (accessCls s u) (walkReads fw s va levels table)
    match walkFrom fw s ctx va k levels table [] with
    | .error f => (s, .error f)
    | .ok (level, a, e, seen) =>
      let s := installWalks s u ctx va seen
      let size := levelSize level
      match permitted s ctx e level k va (entPa e + va % size) n with
      | some f => (s, .error f)
      | none =>
        if prefetch then (s, .ok ⟨ctx, va / size * size, size, entPa e, BitVec.ofNat 64 e, bitsAt e 7 1 == 1⟩)
        else
          let wr := k == .write || k == .atomic
          let low := (e % 256) ||| (if wr then 0xC0 else 0x40)
          let s := touch { s with mem := mwrite s.mem a (BitVec.ofNat 8 low) } (accessCls s u) a 1 true
          let ent := leafEntry ctx va level (e - e % 256 + low)
          (installTlb s u ent, .ok ent)

/-- Translation of an access of `n` bytes at one page (03 R53, R56 to R66): a cached translation is used where there is one;
the first write through one whose D is clear walks its own leaf (R63). -/
def translate (s : State) (u : Walker) (ctx : Nat) (k : Access) (va n : Nat) : State × Except PFault Xlat :=
  if 2 ^ 57 ≤ va then (s, .error (pfault 0x10 5 k false va))
  else
    let use (s : State) (t : TlbEntry) : State × Except PFault Xlat :=
      let e := t.ent.toNat
      let pa := t.pa + (va - t.va)
      let level := if t.size ≤ 65536 then 4 else if t.size ≤ 2 ^ 21 then 3 else 2
      match permitted s ctx e level k va pa n with
      | some f => (s, .error f)
      | none => (s, .ok ⟨pa, bitsAt e 8 4, bitsAt e 12 2, bitsAt e 14 2⟩)
    match (getTlbs s u).find (walkerGroup u) ctx va with
    | none =>
      match walk s u ctx k false va n with
      | (s, .error f) => (s, .error f)
      | (s, .ok t) => use s t
    | some t =>
      -- a refused access never rests on a cached entry: it walks (R66)
      match (use s t).2 with
      | .error _ =>
        match walk s u ctx k false va n with
        | (s, .error f) => (s, .error f)
        | (s, .ok t') => use s t'
      | .ok _ =>
        if (k == .write || k == .atomic) && !t.d then
          match walk s u ctx k false va n with
          | (s, .error f) => (s, .error f)
          | (s, .ok t') => use (installTlb s u { t with d := true, ent := t.ent ||| (t'.ent &&& 0xC0) }) { t with d := true }
        else use s t

/-- What a prefetch finds: a cached translation or a walk's leaf, if it permits the access (03 R62, 06 R130, 13 R340); it sets no bit
and installs no leaf. -/
def translatePrefetch (s : State) (u : Walker) (ctx : Nat) (k : Access) (va : Nat) : State × Except PFault Xlat :=
  if 2 ^ 57 ≤ va then (s, .error (pfault 0x10 5 k false va))
  else
    let use (t : TlbEntry) : Except PFault Xlat :=
      let e := t.ent.toNat
      match permitted s ctx e 4 k va (t.pa + (va - t.va)) 1 with
      | some f => .error f
      | none => .ok ⟨t.pa + (va - t.va), bitsAt e 8 4, bitsAt e 12 2, bitsAt e 14 2⟩
    let byWalk : State × Except PFault Xlat :=
      match walk s u ctx k true va 1 with
      | (s, .error f) => (s, .error f)
      | (s, .ok t) => (s, use t)
    match (getTlbs s u).find (walkerGroup u) ctx va with
    | some t =>
      match use t with
      | .ok x => (s, .ok x)
      | .error _ => byWalk
    | none => byWalk

/-- Two ranges meet. -/
def rangesMeet (a n b m : Nat) : Bool := a < b + m && b < a + n

/-- The caches without every entry of a context that could translate an address of a range (03 R66, R73, R75). -/
def Tlbs.drop (t : Tlbs) (ctx va size : Nat) : Tlbs :=
  let hit (x : TlbEntry) := x.ctx == ctx && rangesMeet x.va x.size va size
  { first := t.first.map fun p => (p.1, p.2.filter (!hit ·)), second := t.second.filter (!hit ·)
    walks := t.walks.filter fun x => !(x.ctx == ctx && rangesMeet (x.key * 2 ^ (48 - 9 * x.level)) (2 ^ (48 - 9 * x.level)) va size) }

/-- The same for every cache of the device. -/
def dropTranslations (s : State) (ctx va size : Nat) : State :=
  { s with cores := s.cores.map fun p => (p.1, { p.2 with tlbs := p.2.tlbs.drop ctx va size })
           engines := s.engines.map fun p => (p.1, p.2.drop ctx va size) }

end Sys2Proof.Machine
end

