-- ==== Sys2Proof/Machine/Link.lean ====
section
/-! DEFINITION. Messages of the host link, events and completions (chapter 16), and the accesses of units at the homes. -/
namespace Sys2Proof.Machine

/-- One bit step, then eight, of CRC-32C in its reflected form. -/
def crcBits : Nat → Nat → Nat
  | 0, c => c
  | n + 1, c => crcBits n (if c % 2 = 1 then c / 2 ^^^ 0x82F63B78 else c / 2)

/-- CRC-32C from a running value. -/
def crcFrom : Nat → List Byte → Nat
  | c, [] => c
  | c, b :: bs => crcFrom (crcBits 8 (c ^^^ b.toNat)) bs

/-- CRC-32C of a list of bytes (16 R386, R390). -/
def crc32c (bs : List Byte) : Nat := crcFrom 0xFFFFFFFF bs ^^^ 0xFFFFFFFF

/-- The first 28 bytes of a message's header (16 Table 16-1). -/
def msgHeader (m : Msg) : List Byte :=
  leBytes 28 (joinBits [(8, m.ty.toNat), (1, m.resp.toNat), (3, m.zero.toNat), (12, m.ctx.toNat), (8, m.qi.toNat),
    (32, m.seq.toNat), (32, m.ackn.toNat), (32, m.len.toNat), (64, m.addr.toNat), (32, m.arg.toNat)])

/-- The CRC that a message must carry (16 Table 16-1). -/
def msgCrc (m : Msg) : Nat := crc32c (msgHeader m ++ m.payload)

/-- Fabric cycles in ten microseconds (00 R5). -/
def us10 : Nat := 20000

/-- A numbered message goes out (16 R387): with the next SEQ and the cumulative ACKN, to be resent after 100 microseconds.
Before a session, and once the link is lost, nothing goes out. -/
def sendMsg (s : State) (m : Msg) : State :=
  if !s.link.open_ || s.link.lost then s
  else
    let m := { m with seq := s.link.next, ackn := s.link.expect - 1, zero := 0, len := BitVec.ofNat 32 m.payload.length }
    let m := { m with crc := BitVec.ofNat 32 (msgCrc m) }
    { s with link := { s.link with next := s.link.next + 1, out := m :: s.link.out, ackDue := none
                                   unacked := s.link.unacked ++ [⟨m, s.clock + 10 * us10, 10 * us10, 0⟩] } }

/-- An ACK goes out, which is not numbered (16 R387); none does before a session, nor once the link is lost. -/
def sendAck (s : State) : State :=
  let m : Msg := ⟨0, false, 0, 0, 0, 0, s.link.expect - 1, 0, 0, 0, 0, []⟩
  if !s.link.open_ || s.link.lost then s
  else { s with link := { s.link with out := { m with crc := BitVec.ofNat 32 (msgCrc m) } :: s.link.out, ackDue := none } }

/-- A plain message of a type. -/
def mkMsg (ty : BitVec 8) (resp : Bool) (ctx qi : Nat) (addr : W64) (arg : Nat) (payload : List Byte) : Msg :=
  ⟨ty, resp, 0, BitVec.ofNat 12 ctx, BitVec.ofNat 8 qi, 0, 0, 0, addr, BitVec.ofNat 32 arg, 0, payload⟩

/-- A device event (16 Table 16-4): COMPLETE on QI 255, in 64-bit words (log 10). -/
def sendEvent (s : State) (ctx code : Nat) (words : List Nat) : State :=
  sendMsg s (mkMsg 4 false ctx 255 0 0 ((code :: words).flatMap (leBytes 8)))

/-- A host-directed access as a message. -/
def sendHostWrite (s : State) (pa : Nat) (bs : List Byte) : State :=
  sendMsg s (mkMsg 1 false 0 0 (BitVec.ofNat 64 (pa % 2 ^ 48)) 0 bs)

/-- A remote range asked for: by a READ sent to the host, or at the peer (16 R389, R396). -/
def askRemote (s : State) (who pa n : Nat) : State :=
  if region pa = 3 then
    let seq := s.link.next
    let s := sendMsg s (mkMsg 2 false 0 0 (BitVec.ofNat 64 (pa % 2 ^ 48)) n [])
    { s with remotes := s.remotes ++ [⟨who, pa, n, none, some seq, none⟩] }
  else { s with remotes := s.remotes ++ [⟨who, pa, n, none, none, none⟩] }

/-- The bytes of a remote range that an agent has asked for and got, or a new request for them (16 R389, R396). -/
def fetchRemote (s : State) (who pa n : Nat) : State × Option (List Byte) :=
  match s.remotes.find? fun r => r.who == who && r.pa == pa && r.size == n && r.write.isNone with
  | some r => (s, r.data)
  | none => (askRemote s who pa n, none)

/-- Requests made anew. -/
def reask (s : State) : List Remote → State
  | [] => s
  | r :: rs => reask (askRemote s r.who r.pa r.size) rs

/-- Two reads of an agent ask for the same bytes. -/
def Remote.sameRead (a b : Remote) : Bool := a.who == b.who && a.pa == b.pa && a.size == b.size && a.write.isNone && b.write.isNone

/-- What an agent's attempt has asked of the host or a peer is asked, and nothing else of the attempt stays. -/
def keepAsked (s t : State) (who : Nat) : State :=
  reask s (t.remotes.filter fun r => r.who == who && r.write.isNone && !s.remotes.any r.sameRead)

/-- A remote write: a device WRITE to the host, or one that waits for the peer (16 R389, R396). What other agents have asked for of
these bytes and not yet used is asked for again: between the read and the write of an atomic no device access comes. -/
def remoteWrite (s : State) (who pa : Nat) (bs : List Byte) : State :=
  let met (r : Remote) : Bool := r.who != who && r.write.isNone && r.pa < pa + bs.length && pa < r.pa + r.size
  let again := s.remotes.filter met
  let s := { s with remotes := s.remotes.filter fun r => !met r }
  let s := if region pa = 3 then sendHostWrite s pa bs else { s with remotes := s.remotes ++ [⟨who, pa, bs.length, some bs, none, none⟩] }
  reask s again

/-- An agent's answered and unanswered reads are dropped. -/
def dropRemotes (s : State) (who : Nat) : State := { s with remotes := s.remotes.filter fun r => r.who != who || r.write.isSome }

/-- The outcome of a unit's access: done, a translation fault, a poisoned byte, or bytes that the host or a peer still owes. -/
inductive Got (α : Type) where
  | ok (a : α)
  | fault (f : PFault)
  | poison (pa : Nat)
  | wait
  deriving DecidableEq, Repr

/-- The pieces of a range of VAs, none of which crosses a 32-byte sector. -/
def sectorPieces : Nat → Nat → Nat → List (Nat × Nat)
  | 0, _, _ => []
  | fuel + 1, va, n =>
    if n = 0 then []
    else
      let k := min n (32 - va % 32)
      (va, k) :: sectorPieces fuel (va + k) (n - k)

/-- The pieces of a whole range. -/
def piecesOf (va n : Nat) : List (Nat × Nat) := sectorPieces (n / 32 + 2) va n

/-- A failed translation as an outcome: a fault, or a poisoned entry of the walk (05 R105). -/
def PFault.got {α : Type} (f : PFault) : Got α :=
  match f.poison with
  | some pa => .poison pa
  | none => .fault f

/-- A unit's read of one piece, at the home (12 Table 12-7: units read at the homes). -/
def unitReadPiece (s : State) (u : Walker) (who ctx : Nat) (va n : Nat) : State × Got (List Byte) :=
  match translate s u ctx .read (va % 2 ^ 64) n with
  | (s, .error f) => (s, f.got)
  | (s, .ok x) =>
    if 3 ≤ region x.pa then
      match fetchRemote s who x.pa n with
      | (s, some bs) => (s, .ok bs)
      | (s, none) => (s, .wait)
    else if poisoned s ctx x.pa n then (s, .poison x.pa)
    else (touch s (accessCls s u) x.pa n false, .ok (physRead s ctx x.pa n))

/-- A unit's read of a list of pieces, in order; a wait is remembered while the rest is asked for. -/
def unitReadPieces (s : State) (u : Walker) (who ctx : Nat) : List (Nat × Nat) → List Byte → Bool → State × Got (List Byte)
  | [], acc, waits => (s, if waits then .wait else .ok acc)
  | (va, n) :: rest, acc, waits =>
    match unitReadPiece s u who ctx va n with
    | (s, .ok bs) => unitReadPieces s u who ctx rest (acc ++ bs) waits
    | (s, .wait) => unitReadPieces s u who ctx rest acc true
    | (s, .fault f) => (s, .fault f)
    | (s, .poison p) => (s, .poison p)

/-- A unit's read of a range. -/
def unitRead (s : State) (u : Walker) (who ctx va n : Nat) : State × Got (List Byte) :=
  unitReadPieces s u who ctx (piecesOf va n) [] false

/-- A unit's write of one piece at the home. -/
def unitWritePiece (s : State) (u : Walker) (who ctx va : Nat) (bs : List Byte) : State × Got Unit :=
  match translate s u ctx .write (va % 2 ^ 64) bs.length with
  | (s, .error f) => (s, f.got)
  | (s, .ok x) =>
    if 3 ≤ region x.pa then (remoteWrite s who x.pa bs, .ok ()) else (physWrite s ctx (accessCls s u) x.pa bs, .ok ())

/-- A unit's write of a range, sector by sector upwards; it stops at the first sector that faults (03 R72). -/
def unitWritePieces (s : State) (u : Walker) (who ctx : Nat) : List (Nat × Nat) → List Byte → State × Got Unit
  | [], _ => (s, .ok ())
  | (va, n) :: rest, bs =>
    match unitWritePiece s u who ctx va (bs.take n) with
    | (s, .ok ()) => unitWritePieces s u who ctx rest (bs.drop n)
    | r => r

/-- A unit's write of a range. -/
def unitWrite (s : State) (u : Walker) (who ctx va : Nat) (bs : List Byte) : State × Got Unit :=
  unitWritePieces s u who ctx (piecesOf va bs.length) bs

/-- The key under which an engine waits for remote bytes. -/
def engineKey : Engine → Nat
  | .copy c k => 2 ^ 40 + 2 * c + k.toNat
  | .dma t => 2 ^ 40 + 1000 + t
  | .raster t k => 2 ^ 40 + 2000 + 4 * t + k.toNat
  | .classify c => 2 ^ 40 + 3000 + c
  | .attr c => 2 ^ 40 + 4000 + c
  | .traverse c => 2 ^ 40 + 5000 + c
  | .blend t => 2 ^ 40 + 6000 + t
  | .matrix c => 2 ^ 40 + 7000 + c
  | .sampler c => 2 ^ 40 + 9000 + c
  | .host => 2 ^ 40 + 8000
  | .peer => 2 ^ 40 + 8001

/-- The pulse of a context (14 R359). -/
def pulse (s : State) (ctx : Nat) : State := modCtx s ctx fun c => { c with pulse := s.clock }

/-- A queue of a context. -/
def getQueue (s : State) (ctx qi : Nat) : Option Queue := (getCtx s ctx).bind fun c => tget c.queues qi
def modQueue (s : State) (ctx qi : Nat) (f : Queue → Queue) : State :=
  modCtx s ctx fun c =>
    match tget c.queues qi with
    | some q => { c with queues := tput c.queues qi (f q) }
    | none => c

/-- The completion record of a packet (16 Table 16-3). -/
def completionBytes (seq status detail value fword : Nat) : List Byte :=
  leBytes 32 (joinBits [(32, seq), (8, status), (8, detail), (16, 0), (64, value), (32, fword)])

/-- A packet reported (16 R392, Table 16-3): its record is written in the completion ring, and COMPLETE follows. A record that
cannot be written is lost, and COMPLETE carries it all the same (log 11). -/
def reportPacket (s : State) (ctx qi : Nat) (seq : W32) (status detail value fword : Nat) : State :=
  match getQueue s ctx qi with
  | none => s
  | some q =>
    let rec32 := completionBytes seq.toNat status detail value fword
    let s := (unitWrite s .firmware 0 ctx (q.cring.toNat + 32 * (seq.toNat % (max q.n 1))) rec32).1
    let s := sendMsg s (mkMsg 4 false ctx qi 0 0 rec32)
    pulse (modQueue s ctx qi fun q => { q with last := some seq }) ctx

/-- A packet completes (16 R390, R392): it is reported, and the queue expects the next one. -/
def completePacket (s : State) (ctx qi : Nat) (seq : W32) (status detail value fword : Nat) : State :=
  modQueue (reportPacket s ctx qi seq status detail value fword) ctx qi fun q =>
    { q with started := none, expect := seq + 1, rereads := 0, body := [] }

/-- A packet that cannot be read, or is stale: it is reported, and its queue parks before it (16 R392). -/
def parkPacket (s : State) (ctx qi : Nat) (seq : W32) (status value fword : Nat) : State :=
  modQueue (reportPacket s ctx qi seq status 0 value fword) ctx qi fun q => { q with started := none, rereads := 0, body := [], parked := true }

end Sys2Proof.Machine
end

