-- ==== Sys2Proof/Machine/Ops.lean ====
section
/-! DEFINITION. The operations that instructions share: the program counter, the result queue, registers, stopping and
killing a context, taking a trap and returning from it, and the reconvergence stack (chapters 07, 13, 15). -/
namespace Sys2Proof.Machine

/-! The instruction in progress. -/

/-- The warp in focus changed. -/
def State.modW (s : State) (f : Warp → Warp) : State := { s with w := f s.w }

/-- The instruction is done: the offset moves past it (13 R320). -/
def advance (s : State) : State := s.modW fun w => { w with o := w.iss.next }

/-- The instruction moves the offset elsewhere. -/
def jump (s : State) (o : W32) : State := s.modW fun w => { w with o := o }

/-- The instruction cannot issue yet and is tried again (07 R162, R169): nothing changes. -/
def stall (s : State) : State := s.modW fun w => { w with iss := { w.iss with stalled := true } }

/-- The instruction reads a poisoned byte: it does not take place, and its context stops (05 R105). -/
def stallPoison (s : State) (pa : Nat) (addr : W64) : State :=
  s.modW fun w => { w with iss := { w.iss with stalled := true, poison := some (pa, addr) } }

/-- The warp waits under a wake condition, its offset where it stands (15 R376). -/
def block (s : State) (k : Wake) : State := s.modW fun w => { w with wake := k, iss := { w.iss with stalled := true } }

/-- The lanes of the present issue, and those of all occupied planes (13 R321). -/
def State.lanes (s : State) : Mask := s.w.iss.lanes
def State.allLanes (s : State) : Mask := s.w.iss.all

/-- The core of the warp in focus, its context, its cluster and its walker. -/
def State.core (s : State) : Nat := s.w.coreNo
def State.ctx (s : State) : Nat := s.w.home.ctx
def State.walker (s : State) : Walker := .core s.w.coreNo s.w.home.group

/-- Helper lanes: of a material warp, the lanes outside its live set (11 R267, R268). -/
def Warp.helpers (w : Warp) : Mask := if w.quads then ~~~ w.liveSet else 0

/-! Registers. -/

/-- A scalar register (07 R159). -/
def Warp.sreg (w : Warp) (n : Nat) : W64 := w.s.getD n 0
/-- A scalar register written. -/
def Warp.setS (w : Warp) (n : Nat) (x : W64) : Warp := { w with s := listPut 0 w.s n x }
def setS (s : State) (n : Nat) (x : W64) : State := s.modW fun w => w.setS n x

/-- A mask register (07 R160). -/
def Warp.mreg (w : Warp) (k : Nat) : Mask := BitVec.ofNat 128 ((w.sreg (2 * k)).toNat + 2 ^ 64 * (w.sreg (2 * k + 1)).toNat)
/-- A mask register written: both scalars of the pair (07 R160). -/
def Warp.setM (w : Warp) (k : Nat) (m : Mask) : Warp :=
  (w.setS (2 * k) (BitVec.ofNat 64 m.toNat)).setS (2 * k + 1) (BitVec.ofNat 64 (m.toNat / 2 ^ 64))
def setM (s : State) (k : Nat) (m : Mask) : State := s.modW fun w => w.setM k m

/-- A named vector register; beyond the allotment it reads zero, which no instruction reaches (07 R157). -/
def Warp.vreg (w : Warp) (n : Nat) : Vec := w.v.getD n Vec.zero
/-- A named register written in the lanes of a mask (07 R157). -/
def Warp.setV (w : Warp) (n : Nat) (m : Mask) (x : Vec) : Warp := { w with v := listSet w.v n (Vec.select m x (w.vreg n)) }

/-- The queue that the warp reads and pushes: its own, or a handler's (07 R156). -/
def Warp.activeQueue (w : Warp) : List QEntry := if w.handler then w.hqueue else w.queue
/-- The queue replaced. -/
def Warp.setQueue (w : Warp) (q : List QEntry) : Warp := if w.handler then { w with hqueue := q } else { w with queue := q }

/-- One push (07 R153, R155): a new youngest entry with zeros outside the issuing lanes; the oldest entry leaves. A sequencer
has no queue (R156). Planes that push at one offset share one entry, which their issue joins (Issue.lean). -/
def pushQ (s : State) (x : Vec) (tr : Bool) : State :=
  if s.w.isSeq then s
  else
    s.modW fun w =>
      let q := w.activeQueue
      { w.setQueue (⟨Vec.select w.iss.lanes x Vec.zero, tr⟩ :: q.take (q.length - 1)) with iss := { w.iss with pushed := true } }

/-- Flags joined into %fpflags (04 R102). -/
def raiseFlags (s : State) (f : BitVec 5) : State := s.modW fun w => { w with fp := { w.fp with flags := w.fp.flags ||| f } }

/-! Stopping and killing a context. -/

/-- A context stops (15 R371): nothing of it issues more; the report (cause, address, warp index, and the workgroup whose image
it names) waits for CONTEXT_STOP. A further fault joins it. -/
def stopCtx (s : State) (ctx : Nat) (report : List W64) : State :=
  modCtx s ctx fun c =>
    match c.running with
    | .running => { c with running := .stopping, report := report }
    | .stopping => { c with report := c.report ++ report }
    | _ => c

/-- The remainder of a lease in units, rounded up (14 Table 14-3). -/
def Lease.left (l : Lease) : Nat := (1024 * l.rem - l.ran + 1023) / 1024

/-- Lease units return to the pool of the cluster where the warp ran last (14 R357). -/
def returnLease (s : State) (w : Warp) : State :=
  modCluster s w.cluster fun k => { k with pool := min 2047 (k.pool + w.lease.left) }

/-- The matrix set as a context finds it with no image to restore (09 R202). -/
def Cluster.clearSet (k : Cluster) (owner : Option Nat) : Cluster :=
  { k with owner := owner, tile := [], acc := [], cells := [], segExp := [], badExp := [], abuf := [], lut := [], accFlags := [],
           batch := 0, done := 0, feed := 0, ops := [] }

/-- A sector of the on-chip map that belongs to the matrix set of a cluster: tiles, accumulators and cells (05 Table 05-4). -/
def setSector (cl q : Nat) : Bool :=
  region (32 * q) == 2 && (let kind := bitsAt (32 * q) 44 4; 2 ≤ kind && kind ≤ 4) && bitsAt (32 * q) 32 12 == cl

/-- A cluster's matrix set emptied for an owner: what it held, poison with it, is gone (09 R202, R230). -/
def clearSetOf (s : State) (cl : Nat) (owner : Option Nat) : State :=
  { modCluster s cl fun k => k.clearSet owner with poison := s.poison.filter fun q => !setSector cl q }

/-- Every packet of a queue from one SEQ on, `n` of them, completes with a status. -/
def completeFrom (s : State) (ctx qi status : Nat) : Nat → W32 → State
  | 0, _ => s
  | n + 1, seq => completeFrom (completePacket s ctx qi seq status 0 0 0) ctx qi status n (seq + 1)

/-- The number of packets announced and not completed: SEQs are serial numbers (16 R387, R392). -/
def Queue.announced (q : Queue) : Nat :=
  match q.kicked with
  | some k => if (k - q.expect).toNat < 2 ^ 31 then (k - q.expect).toNat + 1 else 0
  | none => 0

/-- Every announced packet of a context that has not completed completes with STATUS 4; the packet that a parked queue stands
before has completed already (16 R392). -/
def failQueues (s : State) (ctx : Nat) : List (Nat × Queue) → State
  | [] => s
  | (qi, q) :: rest =>
    let done := if q.parked then 1 else 0
    failQueues (completeFrom s ctx qi 4 (q.announced - done) (q.expect + BitVec.ofNat 32 done)) ctx rest

/-- The leases of a list of warps return. -/
def returnLeases (s : State) : List Warp → State
  | [] => s
  | w :: ws => returnLeases (returnLease s w) ws

/-- Every dirty byte of a context goes home, from every core. -/
def writeBackEverywhere (s : State) (ctx : Nat) : List Nat → State
  | [] => s
  | c :: cs => writeBackEverywhere (writeBackCtx s c ctx) ctx cs

/-- The home's own bytes of a visibility tile come back when its slot is discarded (05 Table 05-6), poisoned where they were. -/
def restoreTile (s : State) (t : VTile) : State :=
  if t.resident then
    { s with poison := t.bad ++ s.poison.filter fun q => !(t.sectors.any fun pa => pa / 32 == q)
             mem := (List.range 24).foldl (fun m i => mwriteN m (t.sectors.getD i 0) ((t.old.drop (32 * i)).take 32)) s.mem }
  else s

/-- A context is killed (15 R371): its resident state, frames, bins, outstanding commands, records and images are
discarded, leases return, its memory keeps what was performed, and its announced packets complete with STATUS 4. -/
def killCtx (s : State) (ctx : Nat) : State :=
  let mine (w : Warp) := w.live && w.home.ctx == ctx
  let s := writeBackEverywhere s ctx (s.cores.map (·.1))
  let s := s.passes.foldl (fun s p => if p.2.ctx == ctx then p.2.tiles.foldl (fun s t => restoreTile s t.2) s else s) s
  let s := returnLeases s ((allWarps s).filter mine)
  let s := mapWarps s fun w => if mine w then Warp.idle w.id (if w.isSeq then w.kind else .none) else w
  let cmds (q : List Cmd) := q.filter fun c => c.ctx != ctx
  let recs (q : List Rec) := q.filter fun r => r.ctx != ctx
  let s := { s with
    groups := s.groups.filter fun p => p.2.ctx != ctx
    launches := s.launches.filter fun p => p.2.ctx != ctx
    frames := s.frames.filter fun p => p.2.ctx != ctx
    passes := s.passes.filter fun p => p.2.ctx != ctx
    sets := s.sets.filter fun p => p.ctx != ctx
    portCmds := s.portCmds.map fun q => (q.1, cmds q.2)
    remotes := s.remotes.filter fun r => !((allWarps s).any fun w => w.id == r.who && w.home.ctx == ctx)
    cores := s.cores.map fun p => (p.1, { p.2 with lines := p.2.lines.filter fun l => l.ctx != ctx })
    poison := s.poison.filter fun q => !(s.clusters.any fun p => p.2.owner == some ctx && setSector p.1 q)
    clusters := s.clusters.map fun p =>
      let k := if p.2.owner == some ctx then p.2.clearSet none else p.2
      (p.1, { k with queues := k.queues.map fun q => (q.1, cmds q.2)
                     bins := k.bins.filter fun b => b.2.ctx != ctx
                     nodes := k.nodes.filter fun n => n.1 != ctx })
    towers := s.towers.map fun p =>
      (p.1, { p.2 with dma := cmds p.2.dma, blendCmd := cmds p.2.blendCmd, frags := recs p.2.frags
                       raster := p.2.raster.map fun q => (q.1, recs q.2)
                       rasterCmd := p.2.rasterCmd.map fun q => (q.1, cmds q.2)
                       targets := p.2.targets.filter fun t => t.ctx != ctx }) }
  let s := modCtx s ctx fun c =>
    { c with running := .killed, areas := c.areas.map fun a => ({ a.1 with used := [] }, { a.2.1 with used := [] },
               { a.2.2.1 with used := [] }, { a.2.2.2 with used := [] }) }
  match getCtx s ctx with
  | some c => failQueues s ctx c.queues
  | none => s

/-- A poisoned byte was read (05 R105): the context stops, no handler runs, and event 5 names the address. -/
def poisonStop (s : State) (ctx pa : Nat) (addr : W64) : State :=
  sendEvent (stopCtx s ctx [0, addr, 0xFFFFFFFF, 0]) ctx 5 [pa]

/-! Accesses of the warp itself by virtual address: stack spills, records and descriptors. -/

/-- A load by the warp's core of bytes within one line. -/
def vaLoad (s : State) (va n : Nat) : State × Got (List Byte) :=
  match translate s s.walker s.ctx .read (va % 2 ^ 64) n with
  | (s, .error f) => (s, f.got)
  | (s, .ok x) =>
    if 3 ≤ region x.pa then
      match fetchRemote s s.w.id x.pa n with
      | (s, some bs) => (s, .ok bs)
      | (s, none) => (s, .wait)
    else if readsPoison s s.core s.ctx x.pa n then (s, .poison x.pa)
    else
      let (s, bs) := coreLoad s s.core s.ctx s.w.home.cls .default x.pa n
      (s, .ok bs)

/-- A load of pieces of lines, in order. -/
def vaLoadPieces (s : State) : List (Nat × Nat) → List Byte → State × Got (List Byte)
  | [], acc => (s, .ok acc)
  | (va, n) :: rest, acc =>
    match vaLoad s va n with
    | (s, .ok bs) => vaLoadPieces s rest (acc ++ bs)
    | r => r

/-- A load by the warp's core of any range. -/
def vaLoadN (s : State) (va n : Nat) : State × Got (List Byte) := vaLoadPieces s (piecesOf va n) []

/-- A store by the warp's core of bytes within one line. -/
def vaStore (s : State) (va : Nat) (bs : List Byte) : State × Got Unit :=
  match translate s s.walker s.ctx .write (va % 2 ^ 64) bs.length with
  | (s, .error f) => (s, f.got)
  | (s, .ok x) =>
    if 3 ≤ region x.pa then (remoteWrite s s.w.id x.pa bs, .ok ())
    else (coreStore s s.core s.ctx s.w.home.cls .default x.pa bs, .ok ())

/-! The reconvergence stack. -/

/-- An entry as 256 bits (13 Table 13-1, 15 Table 15-2). -/
def SEntry.bits (e : SEntry) : Nat :=
  let kind := match e.kind with
    | .path => 0
    | .reconv => 1
    | .call => 2
    | .trap => 3
    | .loop => 4
  let tail := match e.kind with
    | .trap => [(1, 0), (8, e.cause.toNat), (4, e.log.toNat), (2, e.mode.toNat)]
    | _ => [(1, e.inc.toNat), (6, e.sb.toNat), (6, e.sc.toNat), (16, 0), (32, e.count.toNat)]
  joinBits ([(128, e.mask.toNat), (32, e.rpc.toNat), (32, e.resume.toNat), (3, kind)] ++ tail)

/-- The entry that 256 bits hold. -/
def SEntry.ofBits (x : Nat) : SEntry :=
  let kind : SKind := match bitsAt x 192 3 with
    | 0 => .path
    | 1 => .reconv
    | 2 => .call
    | 3 => .trap
    | _ => .loop
  let tr := kind == .trap
  { mask := BitVec.ofNat 128 x, rpc := BitVec.ofNat 32 (x / 2 ^ 128), resume := BitVec.ofNat 32 (x / 2 ^ 160), kind := kind
    inc := !tr && bitsAt x 195 1 == 1, sb := if tr then 0 else BitVec.ofNat 6 (bitsAt x 196 6)
    sc := if tr then 0 else BitVec.ofNat 6 (bitsAt x 202 6), count := if tr then 0 else BitVec.ofNat 32 (bitsAt x 224 32)
    cause := if tr then BitVec.ofNat 8 (bitsAt x 196 8) else 0, log := if tr then BitVec.ofNat 4 (bitsAt x 204 4) else 0
    mode := if tr then BitVec.ofNat 2 (bitsAt x 208 2) else 0 }

/-- What a push finds (13 R327, 15 R375). -/
inductive Pushed where
  | ok (s : State)
  | full
  | fault (s : State) (f : PFault)
  | poison (pa : Nat)

/-- One entry pushed; a full hardware stack first writes its oldest entry to the stack area. `limit` is the number of bytes
that spills of both ends may take. -/
def push1 (s : State) (limit : Nat) (e : SEntry) : Pushed :=
  let w := s.w
  if w.stack.length < 16 then .ok (s.modW fun w => { w with stack := e :: w.stack })
  else if w.isSeq || limit < 32 * (w.spilled + 1) + w.raySpill then .full
  else
    match w.stack.getLast? with
    | none => .full
    | some old =>
      match vaStore s (w.stackBase.toNat + 32 * w.spilled) (leBytes 32 old.bits) with
      | (s, .ok ()) => .ok (s.modW fun w => { w with stack := e :: w.stack.dropLast, spilled := w.spilled + 1 })
      | (s, .fault f) => .fault s f
      | (_, .poison pa) => .poison pa
      | (_, .wait) => .full

/-- Entries pushed in order, all or none (13 R327): the first that has no room leaves the state as it was. -/
def pushAll (s : State) (limit : Nat) : List SEntry → Pushed
  | [] => .ok s
  | e :: es =>
    match push1 s limit e with
    | .ok s => pushAll s limit es
    | r => r

/-- Bytes that spills may take: 64 stay for the TRAP entry and one entry of the handler (15 R375). -/
def Warp.spillRoom (w : Warp) : Nat := w.stackSize - 64

/-- Bytes that spilled entries and ray stacks may take at a push: a handler's push may use the 64 reserved (15 R375). -/
def Warp.spillLimit (w : Warp) : Nat := if w.handler then w.stackSize else w.spillRoom

/-- A spilled entry comes back into a hardware stack that has room for it (13 R324), unless its read faults, is poisoned or waits. -/
def refill (s : State) : State × Got Unit :=
  if s.w.spilled = 0 || 16 ≤ s.w.stack.length then (s, .ok ())
  else
    match vaLoad s (s.w.stackBase.toNat + 32 * (s.w.spilled - 1)) 32 with
    | (s, .ok bs) =>
      ((dropRemotes s s.w.id).modW fun w => { w with stack := w.stack ++ [SEntry.ofBits (leNat bs)], spilled := w.spilled - 1 }, .ok ())
    | (s, .fault f) => (s, .fault f)
    | (s, .poison pa) => (s, .poison pa)
    | (s, .wait) => (s, .wait)

/-- The hardware stack is empty and the area holds entries that could not be read yet: nothing pops until they are. -/
def Warp.owesEntry (w : Warp) : Bool := w.stack.isEmpty && w.spilled != 0

/-- The top entry removed (13 R324); a spilled entry that cannot be read now is read again before the next issue. -/
def dropTop (s : State) : State := (refill (s.modW fun w => { w with stack := w.stack.tail })).1

/-- One pop (13 R325). -/
def popEntry (s : State) (e : SEntry) : State :=
  match e.kind with
  | .path => (dropTop s).modW fun w => { w with exec := w.gate e.mask, o := e.resume }
  | .reconv => (dropTop s).modW fun w => { w with exec := w.gate e.mask, o := e.rpc }
  | .call => (dropTop s).modW fun w => { w with exec := w.gate (w.exec ||| e.mask), o := e.rpc }
  | .loop =>
    let s := if e.inc then s.modW fun w => w.setS e.sb.toNat (w.sreg e.sb.toNat + w.sreg e.sc.toNat) else s
    if e.count - 1 = 0 then (dropTop s).modW fun w => { w with exec := w.gate e.mask, o := e.rpc }
    else s.modW fun w => { w with stack := { e with count := e.count - 1 } :: w.stack.tail, o := e.resume }
  | .trap => s

/-- Whether the top entry is to be popped (13 R325). -/
def popDue (w : Warp) : Option SEntry :=
  match w.stack with
  | e :: _ => if e.kind != .trap && w.o == e.rpc then some e else none
  | [] => none

/-- The pop check (13 R325), at most so many pops of it. -/
def popCheck : Nat → State → State
  | 0, s => s
  | n + 1, s =>
    match popDue s.w with
    | some e => popCheck n (popEntry s e)
    | none => s

/-- More pops than any stack can owe: 2^27 entries of the largest area, each with fewer than 2^32 iterations. -/
def popFuel : Nat := 2 ^ 64

/-- The whole pop check (13 R325). -/
def popAll (s : State) : State := popCheck popFuel s

/-! Traps. -/

/-- A handler-queue entry with values in the lanes of a list from lane 0 up. -/
def hqVec (xs : List W32) : Vec := ⟨(xs ++ List.replicate (128 - xs.length) 0).take 128⟩

/-- A DOUBLE_FAULT (15 R370): the context is killed, and event 2 tells the inner cause, its address and the warp. -/
def doubleFault (s : State) (t : Trap) : State :=
  let idx := s.w.home.index
  let s := s.modW fun w => { w with iss := { w.iss with trapped := some t } }
  sendEvent (killCtx s s.w.home.ctx) s.w.home.ctx 2 [t.cause.toNat, t.addr.toNat, idx]

/-- A sequencer's fault (09 R207): it halts at the instruction and records cause and address, and its context stops. -/
def sequencerFault (s : State) (t : Trap) : State :=
  let s := s.modW fun w => { w with halted := true, trapcause := t.cause, trapaddr := t.addr, iss := { w.iss with trapped := some t } }
  stopCtx s s.w.home.ctx [t.cause.zeroExtend 64, t.addr, 0xFFFFFFFF, 0]

/-- The page addresses that a translation trap named, from the handler queue as it was made (03 R71, R73). -/
def trapVAs (t : Trap) : List Nat :=
  (List.range 128).filterMap fun l =>
    if hasLane t.mask l then
      some (((t.hq.getD 2 []).getD l 0).toNat + 2 ^ 32 * ((t.hq.getD 1 []).getD l 0).toNat)
    else none

/-- Taking a trap (15 R363): the cause, address and lanes are recorded, a TRAP entry is pushed, the queue is frozen, a
handler queue is made, every lane that has not exited is active, and the handler begins. Without a handler the context stops
(R362); in a handler, or when the entry cannot be pushed, it is a DOUBLE_FAULT (R370). The trap of one of several planes is noted,
and taken for the offset (03 R70). -/
def takeTrap (s : State) (t : Trap) : State :=
  if s.w.iss.many then s.modW fun w => { w with iss := { w.iss with trapped := some t } }
  else if s.w.isSeq then sequencerFault s t
  else if s.w.handler then doubleFault s t
  else
    let e : SEntry := ⟨s.w.exec, t.rpc, t.resume, .trap, false, 0, 0, 0, t.cause, t.log, t.mode⟩
    match push1 s s.w.stackSize e with
    | .ok s =>
      let handler := match getCtx s s.ctx with
        | some c => c.trap.handler
        | none => 0
      let s := s.modW fun w =>
        { w with trapcause := t.cause, trapaddr := t.addr, trapmask := t.mask, trapExec := w.exec, handler := true, hbase := handler
                 hqueue := ((t.hq.take 8).map fun x => ⟨hqVec x, false⟩) ++ List.replicate (8 - t.hq.length) ⟨Vec.zero, false⟩
                 exec := w.alive, o := 0, faultVAs := if t.cause == 0x10 || t.cause == 0x11 || t.cause == 0x12 then trapVAs t else []
                 iss := { w.iss with trapped := some t } }
      if handler = 0 then stopCtx s s.ctx [t.cause.zeroExtend 64, t.addr, BitVec.ofNat 64 s.w.home.index, BitVec.ofNat 64 (s.w.groupId.getD 0)] else s
    | .full => doubleFault s t
    | .fault s _ => doubleFault s t
    | .poison pa => stallPoison s pa t.addr

/-- A trap of the instruction in progress: MODE 0, or 2 for a trap that continues after it (15 R364). -/
def mkTrap (s : State) (cause : Nat) (mode : Nat) (mask : Mask) (hq : List (List W32)) : Trap :=
  ⟨BitVec.ofNat 8 cause, s.w.iss.pc, mask, s.w.o, s.w.iss.next, BitVec.ofNat 2 mode, 0, hq⟩

/-- The instruction raises a cause with the given lanes and handler queue and is executed again after RTT. -/
def raise (s : State) (cause : Nat) (mask : Mask) (hq : List (List W32)) : State := takeTrap s (mkTrap s cause 0 mask hq)

/-- A cause that sets bit 0 of %trapmask and reports numbers in lane 0 of handler q1, q2 and so on. -/
def raise0 (s : State) (cause : Nat) (qs : List Nat) : State := raise s cause 1 (qs.map fun x => [BitVec.ofNat 32 x])

def ILLEGAL_ENCODING : Nat := 0x01
def ILLEGAL_INSTRUCTION : Nat := 0x02
def REG_RANGE : Nat := 0x03
def QUEUE_TRANSIENT : Nat := 0x04
def PAGE_NOT_PRESENT : Nat := 0x10
def FORMAT_MISMATCH : Nat := 0x13
def MISALIGNED : Nat := 0x14
def LAYOUT_BOUNDS : Nat := 0x15
def LAYOUT_HANDLE : Nat := 0x16
def STREAM_CORRELATED : Nat := 0x20
def STREAM_VOID : Nat := 0x21
def CHANNEL_ORPHAN : Nat := 0x30
def SPILL_EXHAUSTED : Nat := 0x31
def STACK_EXHAUSTED : Nat := 0x32
def BREAKPOINT : Nat := 0x40
def TRAP_INSTRUCTION : Nat := 0x41
def PLANE_MISALIGNED : Nat := 0x42
def TILE_OWNERSHIP : Nat := 0x50
def ENGINE_ID : Nat := 0x70

/-- The handler-queue entries of a translation fault, youngest first: fault word, VA[56:32], VA[31:0] (03 R71). -/
def PFault.hq (f : PFault) : List Nat := [f.word, bitsAt f.va 32 25, f.va % 2 ^ 32]

/-- A translation fault that the warp itself meets outside a logged access, reported in lane 0. -/
def raiseP (s : State) (f : PFault) : State := raise0 s f.cause f.hq

/-- The entries of an instruction pushed, or STACK_EXHAUSTED (13 R327, 15 R375), or a fault of the spill. -/
def pushOr (s : State) (es : List SEntry) (k : State → State) : State :=
  match pushAll s s.w.spillLimit es with
  | .ok s' => k s'
  | .full => raise0 s STACK_EXHAUSTED [s.w.stack.length + s.w.spilled, s.w.raySpill, 32]
  | .fault s' f => raiseP { s' with w := s.w } f
  | .poison pa => stallPoison s pa s.w.iss.pc

/-- The stack without the entries that a handler pushed above its TRAP entry. -/
def toTrapEntry : Nat → State → State
  | 0, s => s
  | n + 1, s =>
    match s.w.stack with
    | e :: _ => if e.kind == .trap then s else toTrapEntry n (dropTop s)
    | [] => s

/-- Entries that could translate any of a list of addresses leave the core's caches (03 R73). -/
def dropCoreVAs (s : State) (core ctx : Nat) : List Nat → State
  | [] => s
  | va :: vas =>
    let c := getCore s core
    dropCoreVAs (setCore s core { c with tlbs := c.tlbs.drop ctx va 1 }) core ctx vas

/-- The stack descriptor read again (15 R374, R375): BASE and SIZE, or the outcome of a read that cannot be done. -/
def rereadStack (s : State) : State × Got Unit :=
  match vaLoad s (s.w.frameVA.toNat + 512) 16 with
  | (s, .ok bs) =>
    let x := leNat bs
    ((dropRemotes s s.w.id).modW fun w => { w with stackBase := BitVec.ofNat 64 x, stackSize := bitsAt x 64 32 }, .ok ())
  | (s, .fault f) => (s, .fault f)
  | (s, .poison pa) => (s, .poison pa)
  | (s, .wait) => (s, .wait)

/-- The warp of a workgroup that holds an index. -/
def warpOfIndex (s : State) (g : Group) (idx : Nat) : Option Warp :=
  g.warps.findSome? fun k => (getWarp s k).bind fun w => if w.home.index == idx && w.live then some w else none

/-- A change of a channel of the warp's workgroup. -/
def modChan (s : State) (c : Nat) (f : Channel → Channel) : State :=
  match s.w.groupId with
  | some g => modGroup s g fun x =>
      match tget x.chans c with
      | some ch => { x with chans := tput x.chans c (f ch) }
      | none => x
  | none => s

/-- The register of slot `i` from the head of a channel. -/
def Channel.reg (ch : Channel) (i : Nat) : Nat := ch.port + (ch.head + i) % ch.depth

/-- Lanes of a slot of a channel written in the consumer's registers (07 R168). -/
def putSlot (s : State) (ch : Channel) (i : Nat) (m : Mask) (x : Vec) : State :=
  match s.w.groupId.bind (getGroup s), ch.consumer with
  | some g, some idx =>
    match warpOfIndex s g idx with
    | some w => setWarp s (w.setV (ch.reg i) m x)
    | none => s
  | _, _ => s

/-- A reserved slot filled in the lanes of an access; it is full when every plane has filled its own (07 R169). -/
def fillSlot (s : State) (c tag : Nat) (m : Mask) (x : Vec) : State :=
  match (s.w.groupId.bind (getGroup s)).bind fun g => tget g.chans c with
  | none => s
  | some ch =>
    if ch.gone then s else
    let mine (q : ChanSlot) : Bool := match q with
      | .due t _ => t == tag
      | .full => false
    match indexOf? mine ch.slots with
    | none => s
    | some i =>
      let s := putSlot s ch i m x
      modChan s c fun ch => { ch with slots := listSet ch.slots i (match ch.slots.getD i .full with
        | .due t n => if n ≤ 1 then .full else .due t (n - 1)
        | .full => .full) }

/-- A word of an access's result put into its register, or into the slot that it reserved. -/
def putWord (s : State) (r : Req) (n : Nat) (x : Vec) : State :=
  match r.slots.find? (·.1 == n) with
  | some q => fillSlot s q.2.1 q.2.2 r.lanes x
  | none => s.modW fun w => w.setV n r.lanes x

/-- The named registers that an access writes (06 R125, R135, 11 R274, R282). -/
def MemOp.words : MemOp → Nat
  | .load _ size _ => if size ≤ 4 then 1 else size / 4
  | .scratchLoad _ size => if size ≤ 4 then 1 else size / 4
  | .atomic _ _ size _ _ _ _ _ => size / 4
  | .sample .. => 4
  | .trace .. => 5
  | _ => 1

/-- Zero in a logged access's destination, for RTT.SKIP (15 R374): the issuing lanes of its queue entry, which stands
youngest, and of its named register or its scalar. -/
def zeroDest (s : State) (r : Req) : State :=
  let s := s.modW fun w =>
    if r.pushes then
      match w.queue with
      | e :: rest => { w with queue := { e with v := Vec.select r.lanes Vec.zero e.v } :: rest }
      | [] => w
    else w
  match r.dst with
  | .vec n => (List.range r.op.words).foldl (fun s i => putWord s r (n.toNat + i) Vec.zero) s
  | .sca n => s.modW fun w => w.setS n.toNat 0
  | _ => s

/-- Every logged access of a list skipped. -/
def zeroDests (s : State) : List Req → State
  | [] => s
  | r :: rs => zeroDests (zeroDest s r) rs

/-- Returning from a trap (15 R374). `reissue` performs the logged accesses again (15 R367). A translation cause first has
the core's dirty bytes written back and its entries for the faulting addresses dropped (03 R73); a stack cause has dirty
bytes written back and the stack descriptor read again, whose fault is a DOUBLE_FAULT, as is that of the TRAP entry's own read. -/
def returnFromTrap (reissue : State → List Req → State) (skip : Bool) (s : State) : State :=
  let before := s
  let fail (f : PFault) : State :=
    doubleFault { s with w := { before.w with iss := s.w.iss } } (mkTrap before f.cause 0 1 (f.hq.map fun x => [BitVec.ofNat 32 x]))
  let s := toTrapEntry (s.w.stack.length + s.w.spilled + 1) s
  match s.w.stack with
  | [] =>
    match refill s with
    | (_, .fault f) => fail f
    | (_, .poison pa) => stallPoison before pa before.w.iss.pc
    | (s, _) => stall { s with w := before.w }
  | e :: _ =>
    let s := (dropTop s).modW fun w => { w with handler := false, hqueue := [], exec := w.gate w.trapExec }
    let stackCause := e.cause == 0x31 || e.cause == 0x32
    let s := if e.cause == 0x10 || e.cause == 0x11 || e.cause == 0x12 then
        dropCoreVAs (writeBackIf s s.core fun _ => true) s.core s.ctx before.w.faultVAs
      else if stackCause then writeBackIf s s.core fun _ => true
      else s
    match if stackCause then rereadStack s else (s, .ok ()) with
    | (_, .fault f) => fail f
    | (_, .poison pa) => stallPoison before pa before.w.iss.pc
    | (s, .wait) => stall { s with w := before.w }
    | (s, .ok ()) =>
      if e.mode == 1 then
        let reqs := s.w.log.headD []
        let s := s.modW fun w =>
          { w with log := w.log.tail, o := e.resume, iss := { w.iss with next := e.rpc, trapped := none, kept := true } }
        let s := if skip then zeroDests s reqs else reissue s reqs
        -- a re-issue that faults again has entered the handler again (R73)
        if s.w.iss.trapped.isSome then s else popAll (jump s e.rpc)
      else if e.mode == 0 then popAll (jump s (if skip then e.rpc else e.resume))
      else popAll (jump s e.rpc)

end Sys2Proof.Machine
end

