-- ==== Sys2Proof/Machine/Operands.lean ====
section
/-! DEFINITION. Operands: sources and destinations of every form, channel ports, draws, and how an arithmetic instruction
acts over lanes or once per warp (chapters 02, 07, 08, 10 R235, R240). -/
namespace Sys2Proof.Machine

/-! Draws (10 R235, R240). -/

/-- The 16 bits of a number reversed, `n` of them to go. -/
def revBits : Nat → Nat → Nat → Nat
  | 0, _, acc => acc
  | n + 1, x, acc => revBits n (x / 2) (2 * acc + x % 2)

def rev16 (x : Nat) : Nat := revBits 16 x 0

/-- Parity of the bits j of `i` with j AND h = h. -/
def pascalBit (i h : Nat) : Nat := ((List.range 16).filter fun j => (j &&& h) == h && i / 2 ^ j % 2 == 1).length % 2

/-- The multipliers of classes 2 to 15 (10 Table 10-4). -/
def drizzleMul : List Nat :=
  [0, 0, 0x9E35, 0x7F4B, 0xC2B3, 0x5A2D, 0xE6A1, 0x3C6F, 0xB58B, 0x47E9, 0xD2C5, 0x6B17, 0xF0D3, 0x2E8D, 0x8F61, 0x1D9B]

/-- Point i of class k (10 R235). -/
def drizzlePoint (k i : Nat) : Nat :=
  if k = 0 then rev16 i
  else if k = 1 then (List.range 16).foldl (fun y h => y + pascalBit i h * 2 ^ (15 - h)) 0
  else rev16 (i * drizzleMul.getD k 0 % 65536)

/-- The key of a lane (10 R235). -/
def drizzleKey (s : Seed) (l k : Nat) : Nat :=
  (s.a.toNat + k * (s.b ||| 1).toNat) % 65536 * (2 * l + 1) % 65536

/-- x_k(i) in lane l (10 R235). -/
def drizzleX (s : Seed) (k i l : Nat) : Nat := drizzlePoint k (i % 65536) ^^^ drizzleKey s l k

/-- The DRAW index of the offset that is issuing (10 R240). -/
def Warp.drawIndex (w : Warp) : BitVec 16 := w.iss.draw.getD w.seed.draw

/-- The draw of a lane (10 R240). -/
def Warp.drawOf (w : Warp) (k l : Nat) : Nat := drizzleX w.seed k w.drawIndex.toNat l

/-- A draw was taken: DRAW advances once for the offset (10 R240). -/
def tookDraw (s : State) : State :=
  s.modW fun w =>
    { w with seed := { w.seed with draw := w.drawIndex + 1 }, iss := { w.iss with draw := some w.drawIndex } }

/-- A rounding mode resolved at issue, with its draw for a lane (02 Table 02-7, 04 R97, R99). -/
def Warp.mode (w : Warp) (r : Rnd) (l : Nat) : RMode :=
  match r with
  | .rne => .rne
  | .rtz => .rtz
  | .rup => .rup
  | .rdn => .rdn
  | .rna => .rna
  | .sr k => .sr (w.drawOf k.toNat l)
  | .dyn => rmodeOf w.fp.rm

/-- The rounding mode of an instruction whose access may be performed later, with dyn read at issue (04 R97). -/
def fixedRnd (w : Warp) (r : Rnd) : Rnd :=
  match r with
  | .dyn =>
    match w.fp.rm.toNat with
    | 1 => .rtz
    | 2 => .rup
    | 3 => .rdn
    | 4 => .rna
    | _ => .rne
  | r => r

/-- Whether a rounding mode draws. -/
def rndDraws : Rnd → Bool
  | .sr _ => true
  | _ => false

/-! Sources. -/

/-- A special operand's integer converted exactly into its operand type (02 Table 02-5). -/
def specialVal (ty : Ty) (n : Nat) : Nat :=
  let exact (r : Nat × Flags) := if r.2 = 0 then r.1 else Config.inexactSpecial (tyCode ty) n % 2 ^ 32
  match ty with
  | .f32 => exact (f32.round .rne false (intVal n))
  | .f16 => exact (f16.round .rne false (intVal n))
  | .bf16 => exact (bf16.round .rne false (intVal n))
  | .t8 => exact (roundTapered 8 .rne (intVal n))
  | .t6 => exact (roundTapered 6 .rne (intVal n))
  | .i4 => if n < 8 then n else Config.inexactSpecial (tyCode ty) n % 2 ^ 32
  | _ => n

/-- The plane of a lane (13 R320). -/
def Warp.planeOf (w : Warp) (l : Nat) : Nat := (w.planes.getD l 0).toNat

/-- A named register as a source: a consumer's port reads the slot taken at this offset (07 R169). -/
def Warp.srcV (w : Warp) (n : Nat) : Vec :=
  match w.iss.took.find? (·.1 == n) with
  | some p => p.2
  | none => w.vreg n

/-- The value of a source in a lane (02 Table 02-5, 08 R172, R173, R178): 32 bits, or 64 of a wide operand. -/
def Warp.opnd (w : Warp) (ty : Ty) (wide : Bool) (lit : Option W64) (l : Nat) : Src → Nat
  | .queue n => ((w.activeQueue.getD n.toNat ⟨Vec.zero, false⟩).v.lane l).toNat
  | .vec n => ((w.srcV n.toNat).lane l).toNat + (if wide then 2 ^ 32 * ((w.srcV (n.toNat + 1)).lane l).toNat else 0)
  | .sca n => if wide then (w.sreg n.toNat).toNat else (w.sreg n.toNat).toNat % 2 ^ 32
  | .msk k => (w.mreg k.toNat).toNat
  | .lit => let x := (lit.getD 0).toNat; if wide then x else x % 2 ^ 32
  | .zero => 0
  | .one => specialVal ty 1
  | .lane => specialVal ty l
  | .plane => specialVal ty (w.planeOf l)
  | .int n => specialVal ty n.toNat
  | .unused => 0

/-- A whole source as a vector of 32-bit values. -/
def Warp.opndV (w : Warp) (ty : Ty) (lit : Option W64) (x : Src) : List W32 :=
  (List.range 128).map fun l => BitVec.ofNat 32 (w.opnd ty false lit l x)

/-- The warp as what executes once for an offset sees it: %plane is the plane that executes (02 Table 02-5, 13 R321). -/
def Warp.asUniform (w : Warp) : Warp := { w with planes := List.replicate 128 (BitVec.ofNat 2 w.iss.plane) }

/-- A scalar operand: 64 bits of a scalar, a literal or an integer (06 R122). -/
def Warp.opndS (w : Warp) (lit : Option W64) (x : Src) : W64 := BitVec.ofNat 64 (w.asUniform.opnd .n64 true lit 0 x)

/-! Channels (07 R168 to R170). -/

/-- The workgroup of the warp in focus. -/
def State.group (s : State) : Option Group := s.w.groupId.bind (getGroup s)

/-- The channel whose consumer port is vn of this warp. -/
def consumerChan (s : State) (n : Nat) : Option (Nat × Channel) :=
  s.group.bind fun g => g.chans.find? fun c => c.2.consumer == some s.w.home.index && c.2.port == n

/-- A register hidden in a mapped range of this warp. -/
def hiddenReg (s : State) (n : Nat) : Bool :=
  match s.group with
  | some g => g.chans.any fun c => c.2.consumer == some s.w.home.index && c.2.port < n && n < c.2.port + c.2.depth
  | none => false

/-- The channel that vn is this warp's producer port of; of two, the lower-numbered (log 97). -/
def producerChan (w : Warp) (n : Nat) : Option Nat := (w.ports.find? (·.2 == n)).map (·.1)

/-- The channel of a number, if it is mapped by a consumer or was. -/
def chanOf (s : State) (c : Nat) : Option Channel := s.group.bind fun g => tget g.chans c

/-- Every warp of the channel's producer role has exited (07 R170). -/
def orphaned (s : State) (ch : Channel) : Bool :=
  match s.group with
  | some g => g.warps.all fun k =>
      match getWarp s k with
      | some w => !w.live || w.role.toNat != ch.role
      | none => true
  | none => false

/-! Checks before any part of an instruction's effect. -/

/-- The registers of a source or destination and how many it names. -/
def srcRegs : Src × Nat → List Nat
  | (.vec n, k) => (List.range k).map (n.toNat + ·)
  | _ => []

def dstRegs : Dst × Nat → List Nat
  | (.vec n, k) => (List.range k).map (n.toNat + ·)
  | _ => []

/-- The first register beyond the allotment, or that a channel forbids (07 R157, R169). -/
def regFault (s : State) (srcs dsts : List Nat) : Option Nat :=
  let beyond := (srcs ++ dsts).find? fun n => s.w.v.length ≤ n
  let wrongRole (n : Nat) := match producerChan s.w n with
    | some c => match chanOf s c with
      | some ch => !ch.gone && ch.consumer.isSome && s.w.role.toNat != ch.role
      | none => false
    | none => false
  let misuse := (srcs.find? fun n => hiddenReg s n || (producerChan s.w n).isSome).orElse fun _ =>
    dsts.find? fun n => hiddenReg s n || (consumerChan s n).isSome || wrongRole n
  beyond.orElse fun _ => misuse

/-- A transient entry read outside the forwarding window (07 R154): its age; of several, that of the first operand (log 97). -/
def transientFault (w : Warp) (srcs : List (Src × Nat)) : Option Nat :=
  srcs.findSome? fun x => match x.1 with
    | .queue n => if 8 ≤ n.toNat && (w.activeQueue.getD n.toNat ⟨Vec.zero, false⟩).tr then some (n.toNat + 1) else none
    | _ => none

/-- A producer's write must wait: its channel is full or has no consumer yet (07 R169). -/
def portFull (s : State) (n : Nat) : Bool :=
  match producerChan s.w n with
  | some c =>
    if s.w.iss.gave.contains c then false
    else match chanOf s c with
      | some ch => !ch.gone && (ch.consumer.isNone || ch.depth ≤ ch.slots.length)
      | none => true
  | none => false

/-- The outcome of the checks: go on from a state, or stop in one: a trap, a stall or a blocked warp. -/
inductive Prep where
  | go (s : State)
  | stop (s : State)

/-- The head slots of consumer ports taken, once for the offset (07 R169). -/
def takeSlots (s : State) : List Nat → State
  | [] => s
  | n :: ns =>
    match consumerChan s n with
    | some (c, ch) =>
      if s.w.iss.took.any (·.1 == n) || ch.slots.head? != some .full then takeSlots s ns
      else
        let x := s.w.vreg (ch.reg 0)
        let s := modChan s c fun ch => { ch with head := (ch.head + 1) % ch.depth, slots := ch.slots.tail }
        takeSlots (s.modW fun w => { w with iss := { w.iss with took := (n, x) :: w.iss.took } }) ns
    | none => takeSlots s ns

/-- A consumer port among the sources whose channel has no full head slot (07 R169). -/
def emptyPort (s : State) (srcs : List Nat) : Option (Nat × Channel) :=
  srcs.findSome? fun n =>
    if s.w.iss.took.any (·.1 == n) then none
    else match consumerChan s n with
      | some (c, ch) => if ch.slots.head? == some .full then none else some (c, ch)
      | none => none

/-- Every check that precedes a vector instruction's effect, in order: REG_RANGE, QUEUE_TRANSIENT, a full producer port, an empty
consumer port; then the head slots are taken. With no active lane in any plane none of them faults (13 R341). -/
def prep (s : State) (srcs : List (Src × Nat)) (dsts : List (Dst × Nat)) : Prep :=
  let sr := srcs.flatMap srcRegs
  let dr := dsts.flatMap dstRegs
  let faults := s.allLanes != 0
  match if faults then regFault s sr dr else none with
  | some n => .stop (raise0 s REG_RANGE [n])
  | none =>
    match if faults then transientFault s.w srcs else none with
    | some a => .stop (raise0 s QUEUE_TRANSIENT [a])
    | none =>
      if dr.any (portFull s) then .stop (stall s)
      else
        match emptyPort s sr with
        | some (c, ch) =>
          if ch.slots.isEmpty && orphaned s ch then (if faults then .stop (raise0 s CHANNEL_ORPHAN [c]) else .go (takeSlots s sr))
          else if s.w.handler then .stop (stall s) else .stop (block s (.channel c))
        | none => .go (takeSlots s sr)

/-! Destinations. -/

/-- A slot at a channel's tail, reserved or full, with zeros in it (07 R169). -/
def addSlot (s : State) (c : Nat) (ch : Channel) (q : ChanSlot) : State :=
  putSlot (modChan s c fun ch => { ch with slots := ch.slots ++ [q] }) ch ch.slots.length (~~~ 0) Vec.zero

/-- A named register written in the issuing lanes; a producer's port enqueues one slot for the offset (07 R169). -/
def writeV (s : State) (n : Nat) (x : Vec) : State :=
  match producerChan s.w n with
  | none => s.modW fun w => w.setV n w.iss.lanes x
  | some c =>
    let again := s.w.iss.gave.contains c
    let s := s.modW fun w => { w with iss := { w.iss with gave := c :: w.iss.gave } }
    match chanOf s c with
    | none => s
    | some ch =>
      if ch.gone then s
      else if again then putSlot s ch (ch.slots.length - 1) s.lanes x
      else putSlot (addSlot s c ch .full) ch ch.slots.length s.lanes x

/-- A slot reserved for a load into a producer port, or joined by a further plane of the offset: its tag (07 R169). -/
def reserveSlot (s : State) (c : Nat) : State × Option Nat :=
  let again := s.w.iss.gave.contains c
  let s := s.modW fun w => { w with iss := { w.iss with gave := c :: w.iss.gave } }
  match chanOf s c with
  | none => (s, none)
  | some ch =>
    if ch.gone then (s, none)
    else if again then
      let last := ch.slots.length - 1
      match ch.slots.getD last .full with
      | .due t k => (modChan s c fun ch => { ch with slots := listSet ch.slots last (.due t (k + 1)) }, some t)
      | .full => (modChan s c fun ch => { ch with slots := listSet ch.slots last (.due ch.tag 1), tag := ch.tag + 1 }, some ch.tag)
    else (modChan (addSlot s c ch (.due ch.tag 1)) c fun ch => { ch with tag := ch.tag + 1 }, some ch.tag)

/-- The slots of the producer ports among the destination registers of a load, reserved at its issue (07 R169): register, channel and
tag; a port whose channel's consumer has exited has none, and nothing is written there. -/
def reserveSlots (s : State) : List Nat → List (Nat × Nat × Nat) → State × List (Nat × Nat × Nat)
  | [], acc => (s, acc.reverse)
  | n :: ns, acc =>
    match producerChan s.w n with
    | none => reserveSlots s ns acc
    | some c =>
      match reserveSlot s c with
      | (s, some t) => reserveSlots s ns ((n, c, t) :: acc)
      | (s, none) => reserveSlots s ns ((n, c, 0) :: acc)

/-- A vector result delivered: the named register or registers, and the push (02 R31, R38). -/
def putResult (s : State) (d : Dst) (tr : Bool) (xs : List Vec) : State :=
  match d with
  | .queue => pushQ s (xs.headD Vec.zero) tr
  | .vec n => pushQ ((xs.zipIdx).foldl (fun s p => writeV s (n.toNat + p.2) p.1) s) (xs.headD Vec.zero) tr
  | _ => s

/-- A uniform result in a scalar: 32-bit results are sign-extended for i32, else zero-extended (08 R173). -/
def uniformBits (ty : Ty) (wide : Bool) (x : Nat) : W64 :=
  if wide then BitVec.ofNat 64 x
  else if ty == .i32 then BitVec.ofNat 64 (wrapInt 64 (signed 32 x)) else BitVec.ofNat 64 (x % 2 ^ 32)

/-! How an arithmetic instruction acts (08 R172, R173). -/

/-- What an instruction of the arithmetic majors does with its operands: types for special operands, widths of operands and
result, and the value and flags of one lane, given the rounding mode and the three sources. -/
structure AluOp where
  ta : Ty
  tb : Ty
  tc : Ty
  wa : Bool
  wb : Bool
  wc : Bool
  wr : Bool
  f  : RMode → Nat → Nat → Nat → Nat × Flags

/-- One lane's value and flags. -/
def AluOp.lane (k : AluOp) (w : Warp) (o : Op) (l : Nat) : Nat × Flags :=
  k.f (w.mode o.rnd l) (w.opnd k.ta k.wa o.lit l o.a) (w.opnd k.tb k.wb o.lit l o.b) (w.opnd k.tc k.wc o.lit l o.c)

/-- The results of every active lane, zero elsewhere. -/
def AluOp.lanesOf (k : AluOp) (w : Warp) (o : Op) : List (Nat × Flags) :=
  (List.range 128).map fun l => if hasLane w.iss.lanes l then k.lane w o l else (0, 0)

/-- The flags of a list of lanes. -/
def joinFlags (rs : List (Nat × Flags)) : Flags := rs.foldl (fun f r => f ||| r.2) 0

/-- The vectors of a list of results: low words, and high words of wide results. -/
def resultVecs (wide : Bool) (rs : List (Nat × Flags)) : List Vec :=
  ⟨rs.map fun r => BitVec.ofNat 32 r.1⟩ :: if wide then [⟨rs.map fun r => BitVec.ofNat 32 (r.1 / 2 ^ 32)⟩] else []

/-- The sources of an arithmetic instruction and the registers that each names. -/
def AluOp.srcs (k : AluOp) (o : Op) : List (Src × Nat) :=
  [(o.a, if k.wa then 2 else 1), (o.b, if k.wb then 2 else 1), (o.c, if k.wc then 2 else 1)]

/-- A draw, when the mode draws and a lane is active (10 R240). -/
def drawIf (s : State) (r : Rnd) (some_ : Bool) : State := if rndDraws r && some_ then tookDraw s else s

/-- The vector form (08 R172). -/
def aluVec (k : AluOp) (o : Op) (s : State) : State :=
  match prep s (k.srcs o) [(o.d, if k.wr then 2 else 1)] with
  | .stop s => s
  | .go s =>
    let rs := k.lanesOf s.w o
    let s := putResult s o.d o.tr (resultVecs k.wr rs)
    advance (drawIf (raiseFlags s (joinFlags rs)) o.rnd (s.lanes != 0))

/-- The uniform form (08 R173): once, on scalars. -/
def aluUni (k : AluOp) (o : Op) (s : State) : State :=
  let r := k.lane s.w.asUniform o 0
  let s := match o.d with
    | .sca n => setS s n.toNat (uniformBits o.ty k.wr r.1)
    | _ => s
  advance (drawIf (raiseFlags s r.2) o.rnd true)

/-- An arithmetic instruction in either form. -/
def alu (k : AluOp) (o : Op) (s : State) : State := if o.u then aluUni k o s else aluVec k o s

/-- A mask written by an offset: an earlier plane's lanes of the same offset stay (08 R183). -/
def writeMask (s : State) (k : Nat) (m : Mask) : State :=
  let old := ((s.w.iss.masks.find? (·.1 == k)).map (·.2)).getD 0
  let x := (m &&& s.lanes) ||| (old &&& ~~~ s.lanes)
  (setM s k x).modW fun w => { w with iss := { w.iss with masks := (k, x) :: w.iss.masks.filter (·.1 != k) } }

end Sys2Proof.Machine
end

