-- ==== Sys2Proof/Machine/Int.lean ====
section
/-! DEFINITION. Integer arithmetic, bitwise and field operations, and the immediate forms: majors INTA, INTB, INTI
(08 R177 to R181, R184). -/
namespace Sys2Proof.Machine

/-- A signed integer type (02 Table 02-6). -/
def tySigned : Ty → Bool
  | .i32 => true
  | .i8 => true
  | .i4 => true
  | .i16 => true
  | .i64 => true
  | _ => false

/-- The width of an integer operation's type: 32 or 64 (08 R177). -/
def tyBits (t : Ty) : Nat := if tyWide t then 64 else 32

/-- A value of `n` bits read as its type reads it (08 R177). -/
def readInt (sgn : Bool) (n x : Nat) : Int := if sgn then signed n x else (x % 2 ^ n : Nat)

/-- The range of a type of `n` bits. -/
def intLo (sgn : Bool) (n : Nat) : Int := if sgn then -(2 ^ (n - 1) : Int) else 0
def intHi (sgn : Bool) (n : Nat) : Int := if sgn then (2 ^ (n - 1) : Int) - 1 else (2 ^ n : Int) - 1

/-- An exact result wrapped or clamped into the type (08 R177). -/
def fitInt (sat sgn : Bool) (n : Nat) (i : Int) : Nat := wrapInt n (if sat then clampInt (intLo sgn n) (intHi sgn n) i else i)

/-- An INTA operation on exact integers: the sources are read in the type, the result is wrapped, or clamped with SAT. -/
def intOp (o : Op) (sat : Bool) (g : Int → Int → Int → Int) : AluOp :=
  let n := tyBits o.ty
  let sg := tySigned o.ty
  let w := tyWide o.ty
  ⟨o.ty, o.ty, o.ty, w, w, w, w, fun _ a b c => (fitInt sat sg n (g (readInt sg n a) (readInt sg n b) (readInt sg n c)), 0)⟩

/-- A 64-bit operation on pairs (08 R178). -/
def pairOp (g : Nat → Nat → Nat) : AluOp := ⟨.n64, .n64, .n64, true, true, true, true, fun _ a b _ => (g a b % 2 ^ 64, 0)⟩

/-- The operands of a vector instruction on pairs: the literal of an extended form is zero-extended from 32 bits, and that of a base
form supplies all 64 (08 R178; log 100). -/
def pairLit (o : Op) : Op := if o.ext && !o.u then { o with lit := o.lit.map fun v => (v.setWidth 32).setWidth 64 } else o

/-- The quotient and remainder of IDIV and IREM (08 R177). -/
def divRem (sg : Bool) (n : Nat) (a b : Int) : Int × Int :=
  if b = 0 then (-1, a)
  else if sg && a == -(2 ^ (n - 1) : Int) && b == -1 then (a, 0)
  else (a.tdiv b, a - a.tdiv b * b)

def execIadd (o : Op) (s : State) : Out := .next <| alu (intOp o o.sat fun a b _ => a + b) o s
def execIsub (o : Op) (s : State) : Out := .next <| alu (intOp o o.sat fun a b _ => a - b) o s
def execImul (o : Op) (s : State) : Out := .next <| alu (intOp o false fun a b _ => a * b) o s
/-- IMULH: the high half of the exact product (08 Table 08-2). -/
def execImulh (o : Op) (s : State) : Out := .next <| alu (intOp o false fun a b _ => (a * b) / (2 ^ tyBits o.ty : Int)) o s
def execImad (o : Op) (s : State) : Out := .next <| alu (intOp o o.sat fun a b c => a * b + c) o s
def execImin (o : Op) (s : State) : Out := .next <| alu (intOp o false fun a b _ => if a ≤ b then a else b) o s
def execImax (o : Op) (s : State) : Out := .next <| alu (intOp o false fun a b _ => if a ≤ b then b else a) o s
def execIabs (o : Op) (s : State) : Out := .next <| alu (intOp o o.sat fun a _ _ => if a < 0 then -a else a) o s
def execIneg (o : Op) (s : State) : Out := .next <| alu (intOp o o.sat fun a _ _ => -a) o s
def execIadds (o : Op) (s : State) : Out := .next <| alu (intOp o true fun a b _ => a + b) o s
def execIsubs (o : Op) (s : State) : Out := .next <| alu (intOp o true fun a b _ => a - b) o s
/-- LEA: a pair plus a shifted 32-bit operand (08 R178). -/
def execLea (o : Op) (s : State) : Out := .next <|
  alu ⟨.n64, .n32, .n64, true, false, true, true, fun _ a b _ => ((a + b * 2 ^ o.mod.toNat) % 2 ^ 64, 0)⟩ (pairLit o) s
def execIadd64 (o : Op) (s : State) : Out := .next <| alu (pairOp fun a b => a + b) (pairLit o) s
def execIsub64 (o : Op) (s : State) : Out := .next <| alu (pairOp fun a b => a + 2 ^ 64 - b % 2 ^ 64) (pairLit o) s
def execIdiv (o : Op) (s : State) : Out := .next <| alu (intOp o false fun a b _ => (divRem (tySigned o.ty) (tyBits o.ty) a b).1) o s
def execIrem (o : Op) (s : State) : Out := .next <| alu (intOp o false fun a b _ => (divRem (tySigned o.ty) (tyBits o.ty) a b).2) o s

/-! INTB (08 R179, R180). -/

/-- An operation on bits at the type's width. -/
def bitOp (o : Op) (g : Nat → Nat → Nat → Nat → Nat) : AluOp :=
  let n := tyBits o.ty
  let w := tyWide o.ty
  ⟨o.ty, o.ty, o.ty, w, w, w, w, fun _ a b c => (g n (a % 2 ^ n) (b % 2 ^ n) (c % 2 ^ n) % 2 ^ n, 0)⟩

/-- The leading zero bits of an `n`-bit value. -/
def leadZeros (n a : Nat) : Nat := if a = 0 then n else n - 1 - a.log2

/-- The BFE field (08 R180). -/
def bitField (sgn : Bool) (n a b c : Nat) : Nat :=
  let off := min (b % 256) n
  let w := min (c % 256) (n - off)
  if w = 0 then 0 else if sgn then wrapInt n (signed w (bitsAt a off w)) else bitsAt a off w

/-- The BFI insertion (08 R180). -/
def bitInsert (n a b c : Nat) : Nat :=
  let off := min (c % 256) n
  let w := min (bitsAt c 8 8) (n - off)
  a - bitsAt a off w * 2 ^ off + b % 2 ^ w * 2 ^ off

def execAnd (o : Op) (s : State) : Out := .next <| alu (bitOp o fun _ a b _ => a &&& b) o s
def execOr (o : Op) (s : State) : Out := .next <| alu (bitOp o fun _ a b _ => a ||| b) o s
def execXor (o : Op) (s : State) : Out := .next <| alu (bitOp o fun _ a b _ => a ^^^ b) o s
def execAndn (o : Op) (s : State) : Out := .next <| alu (bitOp o fun n a b _ => a &&& (2 ^ n - 1 - b)) o s
def execNot (o : Op) (s : State) : Out := .next <| alu (bitOp o fun n a _ _ => 2 ^ n - 1 - a) o s
def execShl (o : Op) (s : State) : Out := .next <| alu (bitOp o fun n a b _ => a * 2 ^ (b % n)) o s
def execShr (o : Op) (s : State) : Out := .next <| alu (bitOp o fun n a b _ => a / 2 ^ (b % n)) o s
def execSra (o : Op) (s : State) : Out := .next <| alu (bitOp o fun n a b _ => wrapInt n (signed n a / (2 ^ (b % n) : Int))) o s
def execRot (o : Op) (s : State) : Out := .next <| alu (bitOp o fun n a b _ => a * 2 ^ (b % n) % 2 ^ n + a / 2 ^ (n - b % n)) o s
def execBfe (o : Op) (s : State) : Out := .next <| alu (bitOp o fun n a b c => bitField (tySigned o.ty) n a b c) o s
def execBfi (o : Op) (s : State) : Out := .next <| alu (bitOp o fun n a b c => bitInsert n a b c) o s
def execPopc (o : Op) (s : State) : Out := .next <| alu (bitOp o fun n a _ _ => popBits n a) o s
def execClz (o : Op) (s : State) : Out := .next <| alu (bitOp o fun n a _ _ => leadZeros n a) o s
def execBrev (o : Op) (s : State) : Out := .next <| alu (bitOp o fun n a _ _ => revBits n a 0) o s
def execSel (o : Op) (s : State) : Out := .next <| alu (bitOp o fun _ a b c => if c ≠ 0 then a else b) o s
def execMov (o : Op) (s : State) : Out := .next <| alu (bitOp o fun _ a _ _ => a) o s

/-! INTI (08 R181, R184). -/

/-- The type an immediate form works in: i32 over lanes, i64 on scalars (08 Table 08-1). -/
def immTy (i : Imm) : Ty := if i.u then .i64 else .i32

/-- The immediate as an operand: sign-extended (08 R181). -/
def immVal (i : Imm) : Nat := wrapInt (tyBits (immTy i)) (signed 10 i.imm.toNat)

/-- An immediate form as the arithmetic instruction it abbreviates: the result goes to the queue, or to the scalar that SA
names (08 R174). -/
def immAsOp (i : Imm) : Op :=
  { ext := false, lit := none, u := i.u, ty := immTy i, rnd := .rne, sat := false, neg := 0, abs := 0, tr := i.tr, mod := i.mod,
    a := i.a, b := .unused, c := .unused,
    d := if i.u then (match i.a with
      | .sca n => .sca n
      | _ => .discard) else .queue }

/-- An immediate form with the immediate as second source. -/
def immExec (i : Imm) (g : Nat → Nat → Nat → Nat) (s : State) : State :=
  alu (bitOp (immAsOp i) fun n a _ _ => g n a (immVal i)) (immAsOp i) s

def execIaddi (i : Imm) (s : State) : Out := .next <| immExec i (fun _ a x => a + x) s
def execAndi (i : Imm) (s : State) : Out := .next <| immExec i (fun _ a x => a &&& x) s
def execOri (i : Imm) (s : State) : Out := .next <| immExec i (fun _ a x => a ||| x) s
def execXori (i : Imm) (s : State) : Out := .next <| immExec i (fun _ a x => a ^^^ x) s
/-- The shift amount of an immediate form (08 R181). -/
def immAmount (i : Imm) (n : Nat) : Nat := i.imm.toNat % 64 % n
def execShli (i : Imm) (s : State) : Out := .next <| immExec i (fun n a _ => a * 2 ^ immAmount i n) s
def execShri (i : Imm) (s : State) : Out := .next <| immExec i (fun n a _ => a / 2 ^ immAmount i n) s
def execSrai (i : Imm) (s : State) : Out := .next <| immExec i (fun n a _ => wrapInt n (signed n a / (2 ^ immAmount i n : Int))) s
def execMovi (i : Imm) (s : State) : Out := .next <| immExec i (fun _ _ x => x) s

/-- The condition of ICMPI (08 Table 08-5): conditions 6 and 7 read both unsigned. -/
def immCond (i : Imm) (n a : Nat) : Bool :=
  let x := immVal i
  match i.mod.toNat with
  | 6 => a < x
  | 7 => x ≤ a
  | m => condHolds m (signed n a < signed n x) (a == x)

/-- ICMPI (08 R184): into m0, or into s0. -/
def execIcmpi (i : Imm) (s : State) : Out := .next <|
  let o := immAsOp i
  if i.u then
    let a := s.w.opnd .i64 true none 0 i.a
    advance (setS s 0 (if immCond i 64 a then 1 else 0))
  else
    match prep s [(o.a, 1)] [] with
    | .stop s => s
    | .go s => advance (writeMask s 0 (maskOf fun l => hasLane s.lanes l && immCond i 32 (s.w.opnd .i32 false none l i.a)))

end Sys2Proof.Machine
end

