-- ==== Sys2Proof/Machine/Cmp.lean ====
section
/-! DEFINITION. Compares and mask operations: majors CMP and MASK (08 R182, R183, R198, R199). -/
namespace Sys2Proof.Machine

/-- A compare with its test on two operands, which also gives the flags (08 R183). -/
def compare (o : Op) (wide : Bool) (g : Nat → Nat → Bool × Flags) (s : State) : State :=
  if o.u then
    let r := g (s.w.asUniform.opnd o.ty wide o.lit 0 o.a) (s.w.asUniform.opnd o.ty wide o.lit 0 o.b)
    let s := match o.d with
      | .sca n => setS s n.toNat (if r.1 then 1 else 0)
      | _ => s
    advance (raiseFlags s r.2)
  else
    match prep s [(o.a, 1), (o.b, 1)] [] with
    | .stop s => s
    | .go s =>
      let rs := (List.range 128).map fun l =>
        if hasLane s.lanes l then g (s.w.opnd o.ty false o.lit l o.a) (s.w.opnd o.ty false o.lit l o.b) else (false, 0)
      let s' := match o.d with
        | .msk k => writeMask s k.toNat (maskOf fun l => (rs.getD l (false, 0)).1)
        | _ => s
      advance (raiseFlags s' (rs.foldl (fun f r => f ||| r.2) 0))

/-- An integer compare. -/
def intCompare (o : Op) (sgn : Bool) (s : State) : State :=
  let n := tyBits o.ty
  compare o (tyWide o.ty)
    (fun a b => (condHolds o.mod.toNat (readInt sgn n a < readInt sgn n b) (a % 2 ^ n == b % 2 ^ n), 0)) s

/-- ABS, then NEG, on a source of a float format (02 R34): `i` is 0 for OPA, 1 for OPB, 2 for OPC. -/
def signMods (f : Fmt) (o : Op) (i x : Nat) : Nat :=
  let x := if o.abs.getLsbD i then x % 2 ^ (f.w - 1) else x
  if o.neg.getLsbD i then x ^^^ 2 ^ (f.w - 1) else x

/-- A float compare (08 R182): IV for a signalling NaN, and for any NaN in FCMP's ordered relations. -/
def floatTest (o : Op) (x ftz : Bool) (a b : Nat) : Bool × Flags :=
  let va := f32.readIn ftz (signMods f32 o 0 a)
  let vb := f32.readIn ftz (signMods f32 o 1 b)
  let uno := va.isNan || vb.isNan
  let (lt, eq) := fvCmp va vb
  let m := o.mod.toNat
  let loud := !x && (2 ≤ m && m ≤ 5)
  (floatCond m x lt eq uno, flag (va.isSig || vb.isSig || (loud && uno)) flIV)

def execIcmp (o : Op) (s : State) : Out := .next <| intCompare o true s
def execIcmpn (o : Op) (s : State) : Out := .next <| intCompare o false s
def execFcmp (o : Op) (s : State) : Out := .next <| compare o false (floatTest o false s.w.fp.ftz) s
def execFcmpx (o : Op) (s : State) : Out := .next <| compare o false (floatTest o true s.w.fp.ftz) s

/-! MASK (08 R198, R199). -/

/-- MSET: a lane's bit where its source is not zero. -/
def execMset (o : Op) (s : State) : Out := .next <| compare o false (fun a _ => (a % 2 ^ 32 != 0, 0)) s

/-- A mask read into lanes: MGET, MPOP, MFIRST push. -/
def maskToLanes (o : Op) (g : Mask → Nat → Nat) (s : State) : State :=
  match prep s [] [(o.d, 1)] with
  | .stop s => s
  | .go s =>
    let m := match o.a with
      | .msk k => s.w.mreg k.toNat
      | _ => 0
    let x := Vec.ofFn fun l => if hasLane s.lanes l then BitVec.ofNat 32 (g m l) else 0
    advance (putResult s o.d o.tr [x])

def execMget (o : Op) (s : State) : Out := .next <| maskToLanes o (fun m l => if hasLane m l then 1 else 0) s
def execMpop (o : Op) (s : State) : Out := .next <| maskToLanes o (fun m _ => popBits 128 m.toNat) s
def execMfirst (o : Op) (s : State) : Out := .next <| maskToLanes o (fun m _ => lowLane m) s

/-- A pure mask operation, on all 128 bits whatever %exec holds. -/
def maskOp2 (o : Op) (g : Mask → Mask → Mask) (s : State) : State :=
  let rd (x : Src) : Mask := match x with
    | .msk k => s.w.mreg k.toNat
    | _ => 0
  match o.d with
  | .msk k => advance (setM s k.toNat (g (rd o.a) (rd o.b)))
  | _ => advance s

def execMand (o : Op) (s : State) : Out := .next <| maskOp2 o (fun a b => a &&& b) s
def execMor (o : Op) (s : State) : Out := .next <| maskOp2 o (fun a b => a ||| b) s
def execMxor (o : Op) (s : State) : Out := .next <| maskOp2 o (fun a b => a ^^^ b) s
def execMandn (o : Op) (s : State) : Out := .next <| maskOp2 o (fun a b => a &&& ~~~ b) s
def execMnot (o : Op) (s : State) : Out := .next <| maskOp2 o (fun a _ => ~~~ a) s

/-- MLIT (08 R199): a literal into one or both scalars of a mask pair. -/
def execMlit (lit : W64) (half : BitVec 2) (d : BitVec 5) (s : State) : Out := .next <|
  let s := if half = 1 then s else setS s (2 * d.toNat) lit
  advance (if half = 0 then s else setS s (2 * d.toNat + 1) lit)

end Sys2Proof.Machine
end

