-- ==== Sys2Proof/Machine/Access.lean ====
section
/-! DEFINITION. Logged accesses: their checks lane by lane, their reads and writes, and the delivery of what they return
(06 R120 to R128, R131, R136, 15 R365 to R367). -/
namespace Sys2Proof.Machine

/-- The fault of one lane of an access: its cause and the values of handler q1, q2 and q3 (06 R123, 03 R71). -/
structure LFault where
  cause : Nat
  q1    : Nat
  q2    : Nat
  q3    : Nat
  deriving DecidableEq, Repr

/-- A translation fault as a lane reports it (03 R71); cause 0 stands for a poisoned entry, with its address in q2 and q3. -/
def lfOfP (f : PFault) : LFault :=
  match f.poison with
  | some pa => ⟨0, 0, pa / 2 ^ 32, pa % 2 ^ 32⟩
  | none => ⟨f.cause, f.word, bitsAt f.va 32 25, f.va % 2 ^ 32⟩

/-- MISALIGNED and FORMAT_MISMATCH name the lane's VA (06 R123). -/
def lfVa (cause va : Nat) : LFault := ⟨cause, 0, bitsAt va 32 25, va % 2 ^ 32⟩

/-- How an access ends: performed; faulted in some lanes, with nothing performed; a poisoned byte read; or bytes that the
host or a peer still owes. -/
inductive Done where
  | ok (s : State)
  | fault (s : State) (fs : List (Nat × LFault))
  | poison (s : State) (pa : Nat)
  | wait (s : State)

/-- The trap of a faulting access (06 R123, 03 R70): MODE 1, the cause of the lowest lane, and three handler entries. -/
def faultTrap (r : Req) (fs : List (Nat × LFault)) : Trap :=
  let val (g : LFault → Nat) : List W32 :=
    (List.range 128).map fun l => BitVec.ofNat 32 (((fs.find? (·.1 == l)).map fun p => g p.2).getD 0)
  let cause := (fs.head?.map (·.2.cause)).getD 0
  ⟨BitVec.ofNat 8 cause, r.pc, maskOf fun l => fs.any (·.1 == l), r.at_, r.next, 1, 1, [val (·.q1), val (·.q2), val (·.q3)]⟩

/-- An access that faulted in some lanes; one that met a poisoned entry stops its context instead (05 R105). -/
def faulted (s : State) (fs : List (Nat × LFault)) : Done :=
  match fs.find? (·.2.cause == 0) with
  | some p => .poison s (p.2.q2 * 2 ^ 32 + p.2.q3)
  | none => .fault s fs

/-- A fault that a warp-scalar access reports in lane 0. -/
def scalarFault (s : State) (f : LFault) : Done := faulted s [(0, f)]

/-- The checks of the lanes of an access in ascending order, each of which translates: what passed and what faulted. -/
def checkLanes {α : Type} (f : State → Nat → State × Except LFault α) :
    List Nat → State → List (Nat × α) → List (Nat × LFault) → State × List (Nat × α) × List (Nat × LFault)
  | [], s, oks, bad => (s, oks.reverse, bad.reverse)
  | l :: ls, s, oks, bad =>
    match f s l with
    | (s, .ok a) => checkLanes f ls s ((l, a) :: oks) bad
    | (s, .error e) => checkLanes f ls s oks ((l, e) :: bad)

/-- A helper lane's fault is not raised, and the lane receives zero (11 R268). -/
def raisedOnly (s : State) (bad : List (Nat × LFault)) : List (Nat × LFault) :=
  bad.filter fun p => !hasLane s.w.helpers p.1

/-- A lane's address checked for alignment to its size, then translated (06 R121, R123). -/
def checkAligned (k : Access) (size : Nat) (va : Nat) (s : State) : State × Except LFault Xlat :=
  if va % size ≠ 0 then (s, .error (lfVa MISALIGNED va))
  else
    match translate s s.walker s.ctx k va size with
    | (s, .ok x) => (s, .ok x)
    | (s, .error f) => (s, .error (lfOfP f))

/-- The warp's own pending non-temporal bytes over bytes that it reads (06 R131: program order). -/
def overNt (w : Warp) (pa : Nat) (bs : List Byte) : List Byte :=
  bs.zipIdx.map fun p => ((w.ntst.find? fun q => q.1.toNat == pa + p.2).map (·.2)).getD p.1

/-- The units of the warp's core and cluster that translate for it: its sampler, and its cluster's traversal engine (03 R68). -/
def State.sampler (s : State) : Walker := .engine (.sampler s.core)
def State.traverser (s : State) : Walker := .engine (.traverse s.w.cluster)

/-- A read at the home: remote bytes are asked for. -/
def homePiece (s : State) (pa n : Nat) : State × Got (List Byte) :=
  if 3 ≤ region pa then
    match fetchRemote s s.w.id pa n with
    | (s, some bs) => (s, .ok bs)
    | (s, none) => (s, .wait)
  else if poisoned s s.ctx pa n then (s, .poison pa)
  else (touch s s.w.home.cls pa n false, .ok (physRead s s.ctx pa n))

/-- A read of bytes within one line for an access of the warp, by its core; a sequencer reads at the home (12 Table 12-7, log 8). -/
def readPiece (s : State) (hint : Hint) (pa n : Nat) : State × Got (List Byte) :=
  if s.w.isSeq then homePiece s pa n
  else if 3 ≤ region pa then
    match fetchRemote s s.w.id pa n with
    | (s, some bs) => (s, .ok bs)
    | (s, none) => (s, .wait)
  else if readsPoison s s.core s.ctx pa n then (s, .poison pa)
  else
    let (s, bs) := coreLoad s s.core s.ctx s.w.home.cls hint pa n
    (s, .ok (overNt s.w pa bs))

/-- Reads of several lanes, in order; every remote range is asked for before the access waits. -/
def readPieces (hint : Hint) :
    List (Nat × Nat × Nat) → State → List (Nat × List Byte) → Bool → State × Got (List (Nat × List Byte))
  | [], s, acc, waits => (s, if waits then .wait else .ok acc.reverse)
  | (l, pa, n) :: rest, s, acc, waits =>
    match readPiece s hint pa n with
    | (s, .ok bs) => readPieces hint rest s ((l, bs) :: acc) waits
    | (s, .wait) => readPieces hint rest s acc true
    | (s, .fault f) => (s, .fault f)
    | (s, .poison p) => (s, .poison p)

/-- The sectors all of whose bytes are among the addresses of a list. -/
def fullSectors (as : List Nat) : List Nat :=
  (as.map (· / 32)).eraseDups.filter fun q => (List.range 32).all fun i => as.contains (32 * q + i)

/-- Pending non-temporal bytes that a test selects, performed at their home (06 R131, R132); a sector that they fill loses its poison
(05 R105). -/
def performNt (s : State) (p : Nat → Bool) : State :=
  let go (s : State) (q : W64 × Byte) := staleBytes (physWrite s s.ctx s.w.home.cls q.1.toNat [q.2]) s.core s.ctx q.1.toNat 1
  let mine := s.w.ntst.reverse.filter fun q => p q.1.toNat
  let full := fullSectors (mine.map (·.1.toNat))
  let s := { mine.foldl go s with poison := s.poison.filter fun q => !full.contains q }
  s.modW fun w => { w with ntst := w.ntst.filter fun q => !p q.1.toNat }

/-- The warp's pending bytes of a range, performed before a later access that writes or reads them at the home; on the on-chip map
with the words and sectors that are indivisible (05 R113). -/
def performNtRange (s : State) (pa n : Nat) : State :=
  if s.w.ntst.isEmpty then s
  else if region pa = 2 then performNt s fun a => pa / 32 ≤ a / 32 && a / 32 ≤ (pa + n - 1) / 32
  else performNt s fun a => pa ≤ a && a < pa + n

/-- A store of a lane's bytes at a physical address, into its core's L1; a sequencer's at the home (12 Table 12-7, log 8). -/
def writePiece (s : State) (hint : Hint) (pa : Nat) (bs : List Byte) : State :=
  if 3 ≤ region pa then remoteWrite s s.w.id pa bs
  else if s.w.isSeq then physWrite s s.ctx s.w.home.cls pa bs
  else coreStore (performNtRange s pa bs.length) s.core s.ctx s.w.home.cls hint pa bs

/-- A non-temporal store (06 R131): the core's copy of the bytes goes home and is stale, and the new bytes wait. -/
def writeNt (s : State) (pa : Nat) (bs : List Byte) : State :=
  if 3 ≤ region pa then remoteWrite s s.w.id pa bs
  else
    let s := staleBytes (writeBackPa s s.core s.ctx pa) s.core s.ctx pa bs.length
    let new := bs.zipIdx.map fun p => (BitVec.ofNat 64 (pa + p.2), p.1)
    s.modW fun w => { w with ntst := new.reverse ++ w.ntst.filter fun q => !(pa ≤ q.1.toNat && q.1.toNat < pa + bs.length) }

/-- The youngest queue entry's issuing lanes filled (15 R367). -/
def fillYoungest (s : State) (m : Mask) (x : Vec) : State :=
  if s.w.isSeq then s
  else
    s.modW fun w =>
      match w.activeQueue with
      | e :: rest => w.setQueue ({ e with v := Vec.select m x e.v } :: rest)
      | [] => w

/-- What an access returns, delivered: the low words into its queue entry, the words into its registers or the slots that it
reserved, or a scalar. -/
def deliver (s : State) (r : Req) (words : Nat) (val : Nat → Nat) : State :=
  let word (i : Nat) : Vec := ⟨(List.range 128).map fun l => if hasLane r.lanes l then BitVec.ofNat 32 (val l / 2 ^ (32 * i)) else 0⟩
  let s := if r.pushes then fillYoungest s r.lanes (word 0) else s
  match r.dst with
  | .vec n => (List.range words).foldl (fun s i => putWord s r (n.toNat + i) (word i)) s
  | .sca n => setS s n.toNat (BitVec.ofNat 64 (val 0))
  | _ => s

/-- The value read in a lane, zero where nothing was read. -/
def laneValue (rs : List (Nat × List Byte)) (l : Nat) : Nat := ((rs.find? (·.1 == l)).map fun p => leNat p.2).getD 0

/-- Words of a result of a size. -/
def wordsOfSize (size : Nat) : Nat := if size ≤ 4 then 1 else size / 4

/-- LD and LD64 (06 R126). -/
def doLoad (s : State) (r : Req) (va : List W64) (size : Nat) (hint : Hint) : Done :=
  let (s, oks, bad) := checkLanes (fun s l => checkAligned .read size (va.getD l 0).toNat s) (maskLanes r.lanes) s [] []
  match raisedOnly s bad with
  | f :: fs => faulted s (f :: fs)
  | [] =>
    match readPieces hint (oks.map fun p => (p.1, p.2.pa, size)) s [] false with
    | (s, .ok rs) => .ok (deliver (dropRemotes s s.w.id) r (wordsOfSize size) (laneValue rs))
    | (s, .poison pa) => .poison s pa
    | (s, _) => .wait s

/-- ST, ST64 and NTST (06 R126, R131): the highest lane of a byte is written last (R124). -/
def doStore (s : State) (r : Req) (va : List W64) (size : Nat) (data : List Nat) (hint : Hint) (nt : Bool) : Done :=
  let lanes := maskLanes (r.lanes &&& ~~~ s.w.helpers)
  let (s, oks, bad) := checkLanes (fun s l => checkAligned .write size (va.getD l 0).toNat s) lanes s [] []
  match bad with
  | f :: fs => faulted s (f :: fs)
  | [] =>
    .ok (oks.foldl (fun s p =>
      let bs := leBytes size (data.getD p.1 0)
      if nt then writeNt s p.2.pa bs else writePiece s hint p.2.pa bs) s)

/-- The scratchpad of the warp's workgroup: its size in bytes and its memory (06 R127). -/
def scratchSize (s : State) : Nat := ((s.group).map (·.scratch * 1024)).getD 0
def scratchMem (s : State) : Mem := ((s.group).map (·.mem)).getD []

/-- An offset and a size within the scratchpad. -/
def inScratch (s : State) (off : W64) (size : Nat) : Bool := decide (off.toNat + size ≤ scratchSize s)

/-- Lanes whose scratchpad offset is misaligned (06 R127). -/
def scratchFaults (lanes : List Nat) (off : List W64) (size : Nat) : List (Nat × LFault) :=
  (lanes.filter fun l => (off.getD l 0).toNat % size != 0).map fun l => (l, lfVa MISALIGNED (off.getD l 0).toNat)

/-- LDS (06 R127): out of range reads zero. -/
def doScratchLoad (s : State) (r : Req) (off : List W64) (size : Nat) : Done :=
  match raisedOnly s (scratchFaults (maskLanes r.lanes) off size) with
  | f :: fs => faulted s (f :: fs)
  | [] =>
    .ok (deliver s r (wordsOfSize size) fun l =>
      let o := off.getD l 0
      if inScratch s o size && o.toNat % size == 0 then mreadLE (scratchMem s) o.toNat size else 0)

/-- STS (06 R127): out of range writes nothing. -/
def doScratchStore (s : State) (r : Req) (off : List W64) (size : Nat) (data : List Nat) : Done :=
  let lanes := maskLanes (r.lanes &&& ~~~ s.w.helpers)
  match scratchFaults lanes off size with
  | f :: fs => faulted s (f :: fs)
  | [] =>
    let m := lanes.foldl (fun m l =>
      let o := off.getD l 0
      if inScratch s o size then mwriteLE m o.toNat size (data.getD l 0) else m) (scratchMem s)
    .ok (match s.w.groupId with
      | some g => modGroup s g fun x => { x with mem := m }
      | none => s)

/-- LDU (06 R126): zero-extended to 64 bits. -/
def doUload (s : State) (r : Req) (va : W64) (size : Nat) : Done :=
  match checkAligned .read size va.toNat s with
  | (s, .error f) => scalarFault s f
  | (s, .ok x) =>
    match readPiece s .default x.pa size with
    | (s, .ok bs) => .ok (deliver (dropRemotes s s.w.id) r 1 fun _ => leNat bs)
    | (s, .poison pa) => .poison s pa
    | (s, _) => .wait s

/-- STU (06 R126). -/
def doUstore (s : State) (va : W64) (size data : Nat) : Done :=
  match checkAligned .write size va.toNat s with
  | (s, .error f) => scalarFault s f
  | (s, .ok x) => .ok (writePiece s .default x.pa (leBytes size data))

/-! Atomics (06 R135 to R137). -/

/-- The new value of an atomic (06 Table 06-3) at a width in bits. -/
def atomicNew (op : AOp) (sgn : Bool) (n old d c : Nat) : Nat :=
  let rd (x : Nat) : Int := if sgn then signed n x else (x : Int)
  match op with
  | .add => (old + d) % 2 ^ n
  | .min => if rd old ≤ rd d then old else d
  | .max => if rd old ≤ rd d then d else old
  | .and => old &&& d
  | .or => old ||| d
  | .xor => old ^^^ d
  | .xch => d
  | .cas => if old = c then d else old
  | .fadd => (f32.round .rne false (fvAdd .rne (f32.read old) (f32.read d)).1).1
  | .inc => if d ≤ old then 0 else old + 1

/-- A lane's address of an atomic: aligned, translated, and a word in region 2 (06 R121). -/
def checkAtomic (size : Nat) (va : Nat) (s : State) : State × Except LFault Xlat :=
  match checkAligned .atomic size va s with
  | (s, .ok x) => if region x.pa = 2 && size == 8 then (s, .error (lfVa MISALIGNED va)) else (s, .ok x)
  | r => r

/-- Home reads of several lanes. -/
def homePieces : List (Nat × Nat × Nat) → State → Bool → State × Got Unit
  | [], s, waits => (s, if waits then .wait else .ok ())
  | (_, pa, n) :: rest, s, waits =>
    match homePiece s pa n with
    | (s, .ok _) => homePieces rest s waits
    | (s, .wait) => homePieces rest s true
    | (s, .fault f) => (s, .fault f)
    | (s, .poison p) => (s, .poison p)

/-- The bytes at a home, with what this issue has already written to a remote range over them. -/
def homeNow (s : State) (written : List (Nat × Byte)) (pa n : Nat) : List Byte :=
  if 3 ≤ region pa then
    match homePiece s pa n with
    | (_, .ok bs) => bs.zipIdx.map fun p => ((written.find? (·.1 == pa + p.2)).map (·.2)).getD p.1
    | _ => []
  else physRead s s.ctx pa n

/-- Bytes written at a home by the warp's core, whose copy goes home first and is stale afterwards (06 R136). -/
def homeWrite (s : State) (pa : Nat) (bs : List Byte) : State :=
  if 3 ≤ region pa then remoteWrite s s.w.id pa bs
  else staleBytes (physWrite s s.ctx s.w.home.cls pa bs) s.core s.ctx pa bs.length

/-- The read-modify-writes of an issue, lane by lane upwards; helpers read nothing and write nothing (11 R268). -/
def atomicLanes (op : AOp) (sgn : Bool) (size : Nat) (d c : List Nat) :
    List (Nat × Xlat) → State → List (Nat × Byte) → List (Nat × List Byte) → State × List (Nat × List Byte)
  | [], s, _, out => (s, out)
  | (l, x) :: rest, s, written, out =>
    let s := if 3 ≤ region x.pa then s else writeBackPa (performNtRange s x.pa size) s.core s.ctx x.pa
    let old := homeNow s written x.pa size
    let new := leBytes size (atomicNew op sgn (8 * size) (leNat old) (d.getD l 0) (c.getD l 0))
    let s := homeWrite s x.pa new
    let written := if 3 ≤ region x.pa then (new.zipIdx.map fun p => (x.pa + p.2, p.1)) ++ written else written
    atomicLanes op sgn size d c rest s written ((l, old) :: out)

/-- An atomic (06 R136, R137). -/
def doAtomic (s : State) (r : Req) (op : AOp) (va : List W64) (size : Nat) (sgn : Bool) (d c : List Nat) (ord : BitVec 2) : Done :=
  let lanes := maskLanes (r.lanes &&& ~~~ s.w.helpers)
  let (s, oks, bad) := checkLanes (fun s l => checkAtomic size (va.getD l 0).toNat s) lanes s [] []
  match bad with
  | f :: fs => faulted s (f :: fs)
  | [] =>
    match homePieces (oks.map fun p => (p.1, p.2.pa, size)) s false with
    | (s, .poison pa) => .poison s pa
    | (s, .wait) => .wait s
    | (s, _) =>
      let s := if ord.getLsbD 1 && !oks.isEmpty then writeBackCtx s s.core s.ctx else s
      let (s, out) := atomicLanes op sgn size d c oks s [] []
      let s := if ord.getLsbD 0 && !oks.isEmpty then genBump s s.core else s
      .ok (deliver (dropRemotes s s.w.id) r (size / 4) (laneValue out))

end Sys2Proof.Machine
end

