-- ==== Sys2Proof/Machine/Elem.lean ====
section
/-! DEFINITION. Element paths and layout records (04 R88 to R96, 06 R128, R138 to R142, R408). -/
namespace Sys2Proof.Machine

/-- Sectors of a block of a geometry (04 R88). -/
def blockSectors (geom : Nat) : Nat :=
  match geom with
  | 2 => 2
  | 3 => 4
  | _ => 1

/-- N0, N1 and the first element's bit of a scaled first sector (04 Table 04-5). -/
def packing (fmt : Nat) : Nat × Nat × Nat :=
  match fmt with
  | 1 => (32, 31, 8)
  | 5 => (32, 31, 8)
  | 2 => (42, 41, 8)
  | 3 => (16, 15, 16)
  | 4 => (16, 15, 16)
  | 6 => (64, 62, 8)
  | _ => (8, 8, 0)

/-- Nb (04 R88). -/
def blockElems (fmt geom : Nat) : Nat :=
  let (n0, n1, _) := packing fmt
  if geom = 0 then n0 else n1 + (blockSectors geom - 1) * n0

/-- Where an element lies (04 R89): its sector's offset from B0, its lowest bit in the sector, and the offset of its scale's
sector. -/
def locate (fmt geom e : Nat) : Nat × Nat × Nat :=
  let (n0, n1, first) := packing fmt
  let w := elemWidth fmt
  let blk := e / blockElems fmt geom
  let n := e % blockElems fmt geom
  let s := if geom = 0 || n < n1 then 0 else 1 + (n - n1) / n0
  let j := if geom = 0 || n < n1 then n else (n - n1) % n0
  (32 * (blockSectors geom * blk + s), (if geom ≠ 0 && s = 0 then first else 0) + w * j, 32 * blockSectors geom * blk)

/-- An element found and translated: the physical addresses of its sector and, in a scaled page, of its scale byte. -/
structure ElemAt where
  pa    : Nat
  lo    : Nat
  scale : Option Nat
  fmt   : Nat
  geom  : Nat
  deriving DecidableEq, Repr

/-- A translation of one access as a lane sees it; what reads the attributes of a page for a write still reports a write. -/
def xlateBy (u : Walker) (s : State) (k as_ : Access) (va n : Nat) : State × Except LFault Xlat :=
  match translate s u s.ctx k (va % 2 ^ 64) n with
  | (s, .ok x) => (s, .ok x)
  | (s, .error f) => (s, .error (lfOfP { f with wr := as_ == .write }))

/-- The same through the caches of the warp's core. -/
def xlateLane (s : State) (k as_ : Access) (va n : Nat) : State × Except LFault Xlat := xlateBy s.walker s k as_ va n

/-- Whether an effective format can be used by an element path (04 R93). -/
def fmtOk (fmt : Nat) : Bool := 1 ≤ fmt && fmt ≤ 7

/-- The element's sector and its scale translated, and their pages compared with the base page's format (04 R91, 06 R123
steps 6 to 8); a geometry's MISALIGNED names B0 (log 98). -/
def elemFind (s : State) (k : Access) (b0 e fmt geom : Nat) (forced : Bool) : State × Except LFault ElemAt :=
  let (sec, lo, scl) := locate fmt geom e
  let va := (b0 + sec + lo / 8) % 2 ^ 64
  match xlateLane s k k va 1 with
  | (s, .error f) => (s, .error f)
  | (s, .ok x) =>
    let same (y : Xlat) := forced || (y.fmt == fmt && y.geom == geom)
    let mis := b0 % (32 * blockSectors geom) ≠ 0
    let done (s : State) (sc : Option Nat) (agree : Bool) : State × Except LFault ElemAt :=
      if mis then (s, .error (lfVa MISALIGNED b0))
      else if !agree then (s, .error (lfVa FORMAT_MISMATCH va))
      else (s, .ok ⟨x.pa - x.pa % 32, lo, sc, fmt, geom⟩)
    if geom = 0 then done s none (same x)
    else
      match xlateLane s .read k (b0 + scl) 1 with
      | (s, .error f) => (s, .error f)
      | (s, .ok y) => done s (some y.pa) (same x && same y)

/-- FORMAT_MISMATCH of a format that names no element, after the access's translation at B0 (06 R123 steps 6 to 8; log 98). -/
def rawElem (s : State) (k : Access) (b0 : Nat) : State × Except LFault ElemAt :=
  match xlateLane s k k b0 1 with
  | (s, .error f) => (s, .error f)
  | (s, .ok _) => (s, .error (lfVa FORMAT_MISMATCH b0))

/-- An element of an array at B0: the base page gives the format and geometry unless a record overrides them (06 R123, R128,
R141, 04 R91). -/
def elemCheck (s : State) (k : Access) (b0 e : Nat) (forced : Option (Nat × Nat)) : State × Except LFault ElemAt :=
  if b0 % 32 ≠ 0 then (s, .error (lfVa MISALIGNED b0))
  else
    match forced with
    | some (fmt, geom) => if fmtOk fmt then elemFind s k b0 e fmt geom true else rawElem s k b0
    | none =>
      match xlateLane s .read k b0 1 with
      | (s, .error f) => (s, .error f)
      | (s, .ok x) => if fmtOk x.fmt then elemFind s k b0 e x.fmt x.geom false else rawElem s k b0

/-- The scale of an element stands in another sector than the element. -/
def scaleApart (p : ElemAt) : Option Nat := p.scale.filter fun sc => sc / 32 != p.pa / 32

/-- The bytes that an access to an element reads: its sector, and its scale's when that is another one (04 R94). -/
def elemReads (p : Nat × ElemAt) : List (Nat × Nat × Nat) :=
  (p.1, p.2.pa, 32) :: match scaleApart p.2 with
    | some sc => [(128 + p.1, sc, 1)]
    | none => []

/-- The scale byte among the bytes read: of the element's own snapshot where it stands there (04 R94). -/
def elemScale (rs : List (Nat × List Byte)) (p : Nat × ElemAt) : Option Nat :=
  p.2.scale.map fun sc =>
    if (scaleApart p.2).isSome then laneValue rs (128 + p.1) else bitsAt (laneValue rs p.1) (8 * (sc % 32)) 8

/-- The decoded value of an element (04 Table 04-6). -/
def elemDecoded (rs : List (Nat × List Byte)) (p : Nat × ElemAt) : W32 :=
  decodeElem p.2.fmt (elemScale rs p) (bitsAt (laneValue rs p.1) p.2.lo (elemWidth p.2.fmt))

/-- Element loads of the lanes that passed, delivered; `pad` gives the lanes that access nothing. -/
def loadElems (s : State) (r : Req) (hint : Hint) (oks : List (Nat × ElemAt)) (pad : Nat → Nat) : Done :=
  match readPieces hint (oks.flatMap elemReads) s [] false with
  | (s, .ok rs) =>
    .ok (deliver (dropRemotes s s.w.id) r 1 fun l =>
      match oks.find? (·.1 == l) with
      | some p => (elemDecoded rs p).toNat
      | none => pad l)
  | (s, .poison pa) => .poison s pa
  | (s, _) => .wait s

/-- A 32-byte sector's value with an element replaced. -/
def putElem (old lo w x : Nat) : Nat := old - bitsAt old lo w * 2 ^ lo + x % 2 ^ w * 2 ^ lo

/-- The bytes of a sector that hold an element: the first and how many. -/
def elemBytes (p : ElemAt) : Nat × Nat := (p.lo / 8, (p.lo + elemWidth p.fmt - 1) / 8 - p.lo / 8 + 1)

/-- An element written: whole bytes as a store, and a t6 or i4 element as an update of its sector at the home (04 R96). -/
def writeElem (s : State) (hint : Hint) (p : ElemAt) (written : List (Nat × Byte)) (x : Nat) : State × List (Nat × Byte) :=
  let w := elemWidth p.fmt
  let (b, n) := elemBytes p
  if p.fmt = 2 || p.fmt = 6 then
    let s := if 3 ≤ region p.pa then s else writeBackPa (performNtRange s p.pa 32) s.core s.ctx p.pa
    let old := leNat (homeNow s written p.pa 32)
    let new := leBytes n (putElem old p.lo w x / 2 ^ (8 * b))
    (homeWrite s (p.pa + b) new, (new.zipIdx.map fun q => (p.pa + b + q.2, q.1)) ++ written)
  else (writePiece s hint (p.pa + b) (leBytes n x), written)

/-- Whether the source of an element store is an i32 (06 R128). -/
def intSource (p : ElemAt) : Bool := p.geom == 0 && (p.fmt == 5 || p.fmt == 6)

/-- The stores of an issue, lane by lane upwards, each encoded under its mode; the flags are joined (04 R95). -/
def storeElems (hint : Hint) (mode : Nat → RMode) (data : List W32) (rs : List (Nat × List Byte)) :
    List (Nat × ElemAt) → State → List (Nat × Byte) → Flags → State × Flags
  | [], s, _, f => (s, f)
  | p :: rest, s, written, f =>
    let x := data.getD p.1 0
    match encodeElem (mode p.1) p.2.fmt (elemScale rs p) (intSource p.2) x with
    | none => storeElems hint mode data rs rest s written (f ||| flIV)
    | some (bits, g) =>
      let (s, written) := writeElem s hint p.2 written bits
      storeElems hint mode data rs rest s written (f ||| g)

/-- What an element store reads first: the scale, and the sector of a t6 or i4 element that is not this device's. -/
def storeReads (p : Nat × ElemAt) : List (Nat × Nat × Nat) :=
  (if ((p.2.fmt == 2 || p.2.fmt == 6) && 3 ≤ region p.2.pa) || (p.2.scale.isSome && (scaleApart p.2).isNone) then [(p.1, p.2.pa, 32)] else []) ++
    match scaleApart p.2 with
    | some sc => [(128 + p.1, sc, 1)]
    | none => []

/-- Element stores of the lanes that passed, each rounded under the mode of the issue, with its draw (10 R240). -/
def putElems (s : State) (hint : Hint) (oks : List (Nat × ElemAt)) (data : List W32) (mode : Nat → RMode) : Done :=
  match readPieces hint (oks.flatMap storeReads) s [] false with
  | (s, .poison pa) => .poison s pa
  | (s, .ok rs) =>
    let (s, f) := storeElems hint mode data rs oks s [] 0
    .ok (raiseFlags (dropRemotes s s.w.id) f)
  | (s, _) => .wait s

/-- LDE (06 R128). -/
def doLoadElem (s : State) (r : Req) (b0 : W64) (e : List W32) (hint : Hint) : Done :=
  let (s, oks, bad) :=
    checkLanes (fun s l => elemCheck s .read b0.toNat (e.getD l 0).toNat none) (maskLanes r.lanes) s [] []
  match raisedOnly s bad with
  | f :: fs => faulted s (f :: fs)
  | [] => loadElems s r hint oks fun _ => 0

/-- STE (06 R128): rne. -/
def doStoreElem (s : State) (r : Req) (b0 : W64) (e data : List W32) (hint : Hint) : Done :=
  let (s, oks, bad) := checkLanes (fun s l => elemCheck s .write b0.toNat (e.getD l 0).toNat none)
    (maskLanes (r.lanes &&& ~~~ s.w.helpers)) s [] []
  match bad with
  | f :: fs => faulted s (f :: fs)
  | [] => putElems s hint oks data fun _ => .rne

/-! Layout records (06 R138 to R141). -/

/-- A handle out of range (06 R139). -/
def handleOk (s : State) (h : W32) : Bool :=
  match getCtx s s.ctx with
  | some c => h.toNat < 2 ^ 20 && h.toNat < c.ltcount
  | none => false

/-- The VA of a record. -/
def recordVA (s : State) (h : W32) : Nat := (((getCtx s s.ctx).map (·.ltbase.toNat)).getD 0 + 64 * h.toNat) % 2 ^ 64

/-- LAYOUT_HANDLE and LAYOUT_BOUNDS through a record (06 R123). -/
def lfLayout (cause : Nat) (h : W32) (d : Nat) (c : W32) : LFault := ⟨cause, c.toNat, d, h.toNat⟩

/-- What the read of a record gives: the record, or a fault, a poisoned byte, or bytes still owed. -/
inductive RecGot where
  | ok (x : BitVec 512)
  | fault (f : LFault)
  | poison (pa : Nat)
  | wait

/-- The record of a handle, from the core's record cache, or read from its home as an ordinary read of the warp, which sees its own
earlier writes, and kept (06 R139, R140); a full cache of 256 lets one go. -/
def readRecord (s : State) (h : W32) : State × RecGot :=
  let c := getCore s s.core
  match c.records.find? fun x => x.1 == s.ctx && x.2.1 == h.toNat with
  | some x => (s, .ok x.2.2)
  | none =>
    match xlateLane s .read .read (recordVA s h) 64 with
    | (s, .error f) => (s, .fault f)
    | (s, .ok x) =>
      match readPiece (staleBytes s s.core s.ctx x.pa 64) .default x.pa 64 with
      | (s, .ok bs) =>
        let v := BitVec.ofNat 512 (leNat bs)
        let c := getCore s s.core
        let (pick, s) := if c.records.length < 256 then (0, s) else freeChoice s 256
        (setCore s s.core { c with records := fillTo c.records 256 pick (s.ctx, h.toNat, v) }, .ok v)
      | (s, .poison pa) => (s, .poison pa)
      | (s, _) => (s, .wait)

/-- A field of a record (06 Table 06-5). -/
def recField (x : BitVec 512) (lo n : Nat) : Nat := bitsAt x.toNat lo n
def recRank (x : BitVec 512) : Nat := recField x 416 3
def recDim (x : BitVec 512) (d : Nat) : Nat := recField x (64 + 32 * d) 32
def recStr (x : BitVec 512) (d : Nat) : Nat := recField x (224 + 32 * d) 32
def recOob (x : BitVec 512) : Nat := recField x 419 2

/-- A record whose fields LDT and STT refuse (06 R139). -/
def recordBad (x : BitVec 512) : Bool :=
  let rank := recRank x
  rank == 0 || 6 ≤ rank || recOob x == 3 || (List.range rank).any (fun d => recDim x d == 0) ||
  (recField x 421 1 == 1 && (8 ≤ recField x 422 4 || (recField x 426 2 != 0 && (recField x 422 4 == 0 || recField x 422 4 == 7)))) ||
  recField x 428 84 != 0

/-- A lane's place in an array: out of bounds under OOB 0, or an element number (06 R141). -/
inductive Place5 where
  | pad
  | at_ (e : Nat)

/-- The bounds check and the sum of R141, from dimension d on. -/
def layoutSum (x : BitVec 512) (h : W32) (c : Nat → W32) : Nat → Nat → Nat → Bool → Except LFault Place5
  | 0, _, e, oob => .ok (if oob then .pad else .at_ (e % 2 ^ 64))
  | n + 1, d, e, oob =>
    let v := signed 32 (c d).toNat
    let dim : Int := recDim x d
    if v < 0 || dim ≤ v then
      match recOob x with
      | 2 => .error (lfLayout LAYOUT_BOUNDS h d (c d))
      | 1 => layoutSum x h c n (d + 1) (e + (clampInt 0 (dim - 1) v).toNat * recStr x d) oob
      | _ => layoutSum x h c n (d + 1) e true
    else layoutSum x h c n (d + 1) (e + v.toNat * recStr x d) oob

/-- What the check of a lane of LDT or STT gives. -/
inductive LayoutGot where
  | pad (x : W32)
  | elem (p : ElemAt)
  | poison (pa : Nat)
  | wait

/-- One lane of LDT or STT, its causes in the order of 06 R123. -/
def layoutCheck (k : Access) (h : W32) (coord : List (Option (List W32))) (l : Nat) (s : State) : State × Except LFault LayoutGot :=
  if !handleOk s h then (s, .error (lfLayout LAYOUT_HANDLE h 7 0))
  else
    match readRecord s h with
    | (s, .fault f) => (s, .error f)
    | (s, .poison pa) => (s, .ok (.poison pa))
    | (s, .wait) => (s, .ok .wait)
    | (s, .ok x) =>
      if recordBad x then (s, .error (lfLayout LAYOUT_HANDLE h 7 0))
      else
        match (List.range (recRank x)).find? fun d => (coord.getD d none).isNone with
        | some d => (s, .error (lfLayout LAYOUT_HANDLE h d 0))
        | none =>
          match layoutSum x h (fun d => ((coord.getD d none).getD []).getD l 0) (recRank x) 0 0 false with
          | .error f => (s, .error f)
          | .ok .pad => (s, .ok (.pad (BitVec.ofNat 32 (recField x 384 32))))
          | .ok (.at_ e) =>
            let forced := if recField x 421 1 = 1 then some (recField x 422 4, recField x 426 2) else none
            match elemCheck s k (recField x 0 64) e forced with
            | (s, .ok p) => (s, .ok (.elem p))
            | (s, .error f) => (s, .error f)

/-- The first poisoned record among the checked lanes, and whether some lane's record is still owed. -/
def layoutStop (oks : List (Nat × LayoutGot)) : Option Nat × Bool :=
  (oks.findSome? fun p => match p.2 with
    | .poison pa => some pa
    | _ => none,
   oks.any fun p => match p.2 with
    | .wait => true
    | _ => false)

/-- The lanes that access an element. -/
def layoutElems (oks : List (Nat × LayoutGot)) : List (Nat × ElemAt) :=
  oks.filterMap fun p => match p.2 with
    | .elem e => some (p.1, e)
    | _ => none

/-- The PAD of a lane. -/
def layoutPad (oks : List (Nat × LayoutGot)) (l : Nat) : Nat :=
  match oks.find? (·.1 == l) with
  | some (_, .pad x) => x.toNat
  | _ => 0

/-- LDT (06 R141, R142). -/
def doLdt (s : State) (r : Req) (h : List W32) (coord : List (Option (List W32))) : Done :=
  let (s, oks, bad) := checkLanes (fun s l => layoutCheck .read (h.getD l 0) coord l s) (maskLanes r.lanes) s [] []
  match raisedOnly s bad, layoutStop oks with
  | f :: fs, _ => faulted s (f :: fs)
  | [], (some pa, _) => .poison s pa
  | [], (none, true) => .wait s
  | [], (none, false) => loadElems s r .default (layoutElems oks) (layoutPad oks)

/-- STT (06 R141, R142): a stochastic mode draws from the seed that stood at issue. -/
def doStt (s : State) (r : Req) (h : List W32) (coord : List (Option (List W32))) (data : List W32) (rnd : Rnd) (seed : Seed) : Done :=
  let (s, oks, bad) := checkLanes (fun s l => layoutCheck .write (h.getD l 0) coord l s)
    (maskLanes (r.lanes &&& ~~~ s.w.helpers)) s [] []
  match bad, layoutStop oks with
  | f :: fs, _ => faulted s (f :: fs)
  | [], (some pa, _) => .poison s pa
  | [], (none, true) => .wait s
  | [], (none, false) => putElems s .default (layoutElems oks) data (({ s.w with seed := seed, iss := { s.w.iss with draw := none } } : Warp).mode rnd)

/-- Every cached copy of a handle of a context dropped (06 R140). -/
def dropHandle (s : State) (h : W32) : State :=
  { s with cores := s.cores.map fun p => (p.1, { p.2 with records := p.2.records.filter fun x => !(x.1 == s.ctx && x.2.1 == h.toNat) }) }

/-- LHINV's effect on a record at a physical address: the warp's pending and the core's dirty bytes go home, then the handle is dropped
everywhere (06 R131, R142). -/
def invalidateRecord (s : State) (h : W32) (pa : Nat) : State :=
  let s := performNtRange s pa 64
  dropHandle (if region pa < 2 then writeBackPa s s.core s.ctx pa else s) h

/-- LHINV (06 R142). -/
def doLhinv (s : State) (h : W32) : Done :=
  if !handleOk s h then scalarFault s (lfLayout LAYOUT_HANDLE h 7 0)
  else
    match xlateLane s .read .read (recordVA s h) 64 with
    | (s, .error f) => scalarFault s f
    | (s, .ok x) => .ok (invalidateRecord s h x.pa)

/-- LHBIND (06 R142): the record translated, 64 bytes read at the source, stored, and the handle dropped. -/
def doLhbind (s : State) (h : W32) (src : W64) : Done :=
  if !handleOk s h then scalarFault s (lfLayout LAYOUT_HANDLE h 7 0)
  else
    match vaLoadN (performNt s fun _ => true) src.toNat 64 with
    | (s, .fault f) => scalarFault s (lfOfP f)
    | (s, .poison pa) => .poison s pa
    | (s, .wait) => .wait s
    | (s, .ok bs) =>
      match xlateLane s .write .write (recordVA s h) 64 with
      | (s, .error f) => scalarFault s f
      | (s, .ok x) => .ok (invalidateRecord (writePiece (dropRemotes s s.w.id) .default x.pa bs) h x.pa)

/-- LHQ (06 R142): word i of the record; only the handle's range is checked. -/
def doLhq (s : State) (r : Req) (h k : List W32) : Done :=
  let one (s : State) (l : Nat) : State × Except LFault RecGot :=
    let h := h.getD l 0
    if !handleOk s h then (s, .error (lfLayout LAYOUT_HANDLE h 7 0))
    else
      match readRecord s h with
      | (s, .fault f) => (s, .error f)
      | (s, g) => (s, .ok g)
  let (s, oks, bad) := checkLanes one (maskLanes r.lanes) s [] []
  match raisedOnly s bad with
  | f :: fs => faulted s (f :: fs)
  | [] =>
    let stop := oks.findSome? fun p => match p.2 with
      | .poison pa => some pa
      | _ => none
    let waits := oks.any fun p => match p.2 with
      | .wait => true
      | _ => false
    match stop with
    | some pa => .poison s pa
    | none =>
      if waits then .wait s
      else
        .ok (deliver (dropRemotes s s.w.id) r 1 fun l =>
          match oks.find? (·.1 == l) with
          | some (_, .ok x) => bitsAt x.toNat (32 * bitsAt (k.getD l 0).toNat 0 4) 32
          | _ => 0)

end Sys2Proof.Machine
end

