-- ==== Sys2Proof/Machine/Elementary.lean ====
section
/-! DEFINITION. The elementary functions of FLTB (08 R187). An irrational result is formed in fixed point with 1,024
fraction bits and marked inexact; f32 arguments give results far further from any rounding boundary than its error (log 7). -/
namespace Sys2Proof.Machine

/-- Fraction bits of the fixed point. -/
def fxBits : Nat := 1024
/-- One. -/
def fxOne : Nat := 2 ^ fxBits

/-- z + z^3/3 + z^5/5 ..., with z as p/q: the inverse hyperbolic tangent, or with alternating signs the arc tangent. -/
def arcSeries (alt : Bool) (zz2n zz2d : Nat) : Nat → Nat → Nat → Int → Int
  | 0, _, _, acc => acc
  | fuel + 1, term, k, acc =>
    let add : Int := ((term / k : Nat) : Int)
    arcSeries alt zz2n zz2d fuel (term * zz2n / zz2d) (k + 2) (if alt && k % 4 == 3 then acc - add else acc + add)

/-- atan(1/n) in fixed point. -/
def atanInv (n : Nat) : Int := arcSeries true 1 (n * n) 240 (fxOne / n) 1 0

/-- Pi, by Machin's formula. -/
def fxPi : Nat := (16 * atanInv 5 - 4 * atanInv 239).toNat

/-- ln of m/2^b in 1 to 2: 2 atanh((m - 2^b)/(m + 2^b)). -/
def fxLn (m b : Nat) : Nat :=
  let n := m - 2 ^ b
  let d := m + 2 ^ b
  (2 * arcSeries false (n * n) (d * d) 360 (fxOne * n / d) 1 0).toNat

/-- ln 2. -/
def fxLn2 : Nat := fxLn 2 0

/-- The terms of e^x from x^k/k! on, x in fixed point. -/
def expSeries (x : Nat) : Nat → Nat → Nat → Nat → Nat
  | 0, _, _, acc => acc
  | fuel + 1, k, term, acc => let t := term * x / fxOne / k; expSeries x fuel (k + 1) t (acc + t)

/-- e^x for x from 0 to 1, in fixed point. -/
def fxExp (x : Nat) : Nat := expSeries x 200 1 fxOne fxOne

/-- The terms of sin (k odd) or cos (k even) of x, from x^k/k! on, in fixed point. -/
def trigSeries (x2 : Nat) : Nat → Nat → Nat → Bool → Int → Int
  | 0, _, _, _, acc => acc
  | fuel + 1, k, term, minus, acc =>
    let acc' := if minus then acc - (term : Int) else acc + (term : Int)
    trigSeries x2 fuel (k + 2) (term * x2 / fxOne / ((k + 1) * (k + 2))) (!minus) acc'

/-- sin x and cos x, x in fixed point from 0 to pi/2. -/
def fxSin (x : Nat) : Nat := (trigSeries (x * x / fxOne) 110 1 x false 0).toNat
def fxCos (x : Nat) : Nat := (trigSeries (x * x / fxOne) 110 0 fxOne false 0).toNat

/-- An irrational positive value given in fixed point. -/
def fxVal (neg : Bool) (x : Nat) : Fv := .num neg x (-(fxBits : Int)) true

/-- A finite magnitude m x 2^e as fixed point (exact for every f32). -/
def toFx (m : Nat) (e : Int) : Nat :=
  if 0 ≤ e + fxBits then m * 2 ^ (e + fxBits).toNat else m / 2 ^ (-(e + fxBits)).toNat

/-- FRCP: 1/a. -/
def fvRcp (a : Fv) : Fv × Flags := fvDiv (.num false 1 0 false) a

/-- FRSQ: 1/sqrt a. -/
def fvRsq : Fv → Fv × Flags
  | .nan s => (.nan false, flag s flIV)
  | .inf neg => if neg then (.nan false, flIV) else (.num false 0 0 false, 0)
  | .num neg m e _ =>
    if m = 0 then (.inf neg, flDZ)
    else if neg then (.nan false, flIV)
    else
      let m' := if e % 2 = 0 then m else 2 * m
      let e' := if e % 2 = 0 then e else e - 1
      let y := 2 ^ 1024 / m'
      let r := isqrt y
      (.num false r (-(e' / 2) - 512) (r * r * m' != 2 ^ 1024), 0)

/-- FEXP2: 2^a. -/
def fvExp2 : Fv → Fv × Flags
  | .nan s => (.nan false, flag s flIV)
  | .inf neg => (if neg then .num false 0 0 false else .inf false, 0)
  | .num neg m e _ =>
    if m = 0 then (.num false 1 0 false, 0)
    else if 8 < e + m.log2 then (.num false 1 (if neg then -1024 else 1024) true, 0)
    else
      let x := toFx m e
      let whole := x / fxOne
      let fr := x % fxOne
      if fr = 0 then (.num false 1 (if neg then -(whole : Int) else (whole : Int)) false, 0)
      else
        let i : Int := if neg then -(whole : Int) - 1 else (whole : Int)
        let f := if neg then fxOne - fr else fr
        (.num false (fxExp (f * fxLn2 / fxOne)) (i - fxBits) true, 0)

/-- FLOG2: log2 a. -/
def fvLog2 : Fv → Fv × Flags
  | .nan s => (.nan false, flag s flIV)
  | .inf neg => if neg then (.nan false, flIV) else (.inf false, 0)
  | .num neg m e _ =>
    if m = 0 then (.inf true, flDZ)
    else if neg then (.nan false, flIV)
    else
      let b := m.log2
      let ex : Int := e + b
      if m = 2 ^ b then (.num (ex < 0) ex.natAbs 0 false, 0)
      else
        let v : Int := ex * (fxOne : Int) + ((fxLn m b * fxOne / fxLn2 : Nat) : Int)
        (fxVal (v < 0) v.natAbs, 0)

/-- sin(pi x) for x from 0 to 2 that is no multiple of one half, in fixed point: sign and magnitude. -/
def fxSinPi (x : Nat) : Bool × Nat :=
  let neg := fxOne ≤ x
  let y := x % fxOne                                    -- 0 to 1
  let z := if fxOne < 2 * y then fxOne - y else y       -- 0 to 1/2
  (neg, if 4 * z < fxOne then fxSin (z * fxPi / fxOne) else fxCos ((fxOne - 2 * z) * fxPi / (2 * fxOne)))

/-- FSINP: sin(pi a). -/
def fvSinp : Fv → Fv × Flags
  | .nan s => (.nan false, flag s flIV)
  | .inf _ => (.nan false, flIV)
  | .num neg m e _ =>
    if m = 0 || 24 ≤ e then (.num neg 0 0 false, 0)
    else
      let x := toFx m e % (2 * fxOne)
      if x % fxOne = 0 then (.num neg 0 0 false, 0)
      else if 2 * x % fxOne = 0 then (.num (neg != decide (fxOne < x)) 1 0 false, 0)
      else
        let (n, v) := fxSinPi x
        (fxVal (neg != n) v, 0)

/-- FCOSP: cos(pi a) = sin(pi (a + 1/2)). -/
def fvCosp : Fv → Fv × Flags
  | .nan s => (.nan false, flag s flIV)
  | .inf _ => (.nan false, flIV)
  | .num _ m e _ =>
    if m = 0 || 25 ≤ e then (.num false 1 0 false, 0)
    else
      let x := (toFx m e + fxOne / 2) % (2 * fxOne)
      if x % fxOne = 0 then (.num false 0 0 false, 0)
      else if 2 * x % fxOne = 0 then (.num (fxOne < x) 1 0 false, 0)
      else
        let (n, v) := fxSinPi x
        (fxVal n v, 0)

/-- e^(-x) for a positive x in fixed point, below 1: fixed point. -/
def fxExpNeg (x : Nat) : Nat :=
  let n := x / fxLn2 + 1
  fxExp (n * fxLn2 - x) / 2 ^ n

/-- FTANH: tanh a. A tiny argument gives a value just below it. -/
def fvTanh : Fv → Fv × Flags
  | .nan s => (.nan false, flag s flIV)
  | .inf neg => (.num neg 1 0 false, 0)
  | .num neg m e _ =>
    if m = 0 then (.num neg 0 0 false, 0)
    else if e + m.log2 < -30 then (.num neg (m * 2 ^ 128 - 1) (e - 128) true, 0)
    else if 8 < e + m.log2 then (.num neg (2 ^ 512 - 1) (-512) true, 0)
    else
      let t := fxExpNeg (2 * toFx m e)
      (fxVal neg ((fxOne - t) * fxOne / (fxOne + t)), 0)

/-- FSIGM: 1/(1 + e^-a). -/
def fvSigm : Fv → Fv × Flags
  | .nan s => (.nan false, flag s flIV)
  | .inf neg => (.num false (if neg then 0 else 1) 0 false, 0)
  | .num neg m e _ =>
    if m = 0 then (.num false 1 (-1) false, 0)
    else if 8 < e + m.log2 then (if neg then .num false 1 (-1024) true else .num false (2 ^ 512 - 1) (-512) true, 0)
    else
      let t := fxExpNeg (toFx m e)
      (fxVal false ((if neg then t else fxOne) * fxOne / (fxOne + t)), 0)

end Sys2Proof.Machine
end

