-- ==== Sys2Proof/Machine/Flt.lean ====
section
/-! DEFINITION. FP32 arithmetic and elementary functions: majors FLTA and FLTB (08 R185 to R187). -/
namespace Sys2Proof.Machine

/-- A float operation on f32 encodings after NEG and ABS (02 R34). -/
def fltOp (o : Op) (f : RMode → Nat → Nat → Nat → Nat × Flags) : AluOp :=
  ⟨.f32, .f32, .f32, false, false, false, false,
   fun md a b c => f md (signMods f32 o 0 a) (signMods f32 o 1 b) (signMods f32 o 2 c)⟩

/-- A value with the flags of its computation, rounded once into a format under FTZ (04 R81, R100). -/
def roundOut (f : Fmt) (md : RMode) (ftz : Bool) (r : Fv × Flags) : Nat × Flags :=
  let x := f.round md ftz r.1
  (x.1, x.2 ||| r.2)

/-- a + b in a format. -/
def fmtAdd (f : Fmt) (ftz : Bool) (md : RMode) (a b : Nat) : Nat × Flags :=
  roundOut f md ftz (fvAdd md (f.readIn ftz a) (f.readIn ftz b))
/-- a - b in a format. -/
def fmtSub (f : Fmt) (ftz : Bool) (md : RMode) (a b : Nat) : Nat × Flags :=
  roundOut f md ftz (fvAdd md (f.readIn ftz a) (f.readIn ftz b).negate)
/-- a x b in a format. -/
def fmtMul (f : Fmt) (ftz : Bool) (md : RMode) (a b : Nat) : Nat × Flags :=
  roundOut f md ftz (fvMul (f.readIn ftz a) (f.readIn ftz b))
/-- a x b + c in a format, with one rounding. -/
def fmtFma (f : Fmt) (ftz : Bool) (md : RMode) (a b c : Nat) : Nat × Flags :=
  roundOut f md ftz (fvFma md (f.readIn ftz a) (f.readIn ftz b) (f.readIn ftz c))

/-- FABS, FNEG and FCOPYSIGN: a magnitude under a sign, or the canonical NaN (08 R186). -/
def withSign (neg : Bool) (a : Nat) : Nat × Flags :=
  if (f32.read a).isNan then (f32.nanBits, 0) else (a % 2 ^ 31 + f32.signBit neg, 0)

/-- FRND (08 R186). -/
def roundIntegral (ftz : Bool) (md : RMode) (a : Nat) : Nat × Flags :=
  match f32.readIn ftz a with
  | .nan sig => (f32.nanBits, flag sig flIV)
  | .inf neg => f32.round md false (.inf neg)
  | .num neg m e st =>
    if 0 ≤ e then f32.round .rne false (.num neg m e st)
    else ((f32.round .rne false (.num neg (roundAt md neg m e st 0).1 0 false)).1, 0)

/-- FFRAC (08 R186): a - floor(a), never 1. -/
def fraction (ftz : Bool) (md : RMode) (a : Nat) : Nat × Flags :=
  match f32.readIn ftz a with
  | .nan sig => (f32.nanBits, flag sig flIV)
  | .inf _ => (f32.nanBits, flIV)
  | .num neg m e _ =>
    if 0 ≤ e then (0, 0)
    else
      let d := 2 ^ (-e).toNat
      let r := m % d
      if r = 0 then (0, 0)
      else
        let x := f32.round md ftz (.num false (if neg then d - r else r) e false)
        if x.1 = 0x3F800000 then (0x3F7FFFFF, flNX) else x

/-- FLDEXP (08 R186). -/
def scaleExp (ftz : Bool) (md : RMode) (a b : Nat) : Nat × Flags :=
  let v := f32.readIn ftz a
  roundOut f32 md ftz (v.scale (signed 32 b), flag v.isSig flIV)

/-- FCLASS (08 R186): the bit of the class. -/
def classBit (a : Nat) : Nat :=
  match f32.read a with
  | .nan sig => if sig then 0x100 else 0x200
  | .inf neg => if neg then 1 else 0x80
  | .num neg m _ _ =>
    if m = 0 then (if neg then 8 else 16)
    else if f32.subnormal a then (if neg then 4 else 32)
    else if neg then 2 else 64

def execFadd (o : Op) (s : State) : Out := .next <| alu (fltOp o fun md a b _ => fmtAdd f32 s.w.fp.ftz md a b) o s
def execFsub (o : Op) (s : State) : Out := .next <| alu (fltOp o fun md a b _ => fmtSub f32 s.w.fp.ftz md a b) o s
def execFmul (o : Op) (s : State) : Out := .next <| alu (fltOp o fun md a b _ => fmtMul f32 s.w.fp.ftz md a b) o s
def execFfma (o : Op) (s : State) : Out := .next <| alu (fltOp o fun md a b c => fmtFma f32 s.w.fp.ftz md a b c) o s
def execFmin (o : Op) (s : State) : Out := .next <| alu (fltOp o fun _ a b _ => minMaxNum f32 false s.w.fp.ftz a b) o s
def execFmax (o : Op) (s : State) : Out := .next <| alu (fltOp o fun _ a b _ => minMaxNum f32 true s.w.fp.ftz a b) o s
def execFabs (o : Op) (s : State) : Out := .next <| alu (fltOp o fun _ a _ _ => withSign false a) o s
def execFneg (o : Op) (s : State) : Out := .next <| alu (fltOp o fun _ a _ _ => withSign (!f32.neg a) a) o s
def execFrnd (o : Op) (s : State) : Out := .next <| alu (fltOp o fun md a _ _ => roundIntegral s.w.fp.ftz md a) o s
def execFfrac (o : Op) (s : State) : Out := .next <| alu (fltOp o fun md a _ _ => fraction s.w.fp.ftz md a) o s
/-- FLDEXP: OPB is an integer. -/
def execFldexp (o : Op) (s : State) : Out := .next <|
  alu ⟨.f32, .i32, .f32, false, false, false, false, fun md a b _ => scaleExp s.w.fp.ftz md (signMods f32 o 0 a) b⟩ o s
def execFclass (o : Op) (s : State) : Out := .next <| alu (fltOp o fun _ a _ _ => (classBit a, 0)) o s
def execFcopysign (o : Op) (s : State) : Out := .next <| alu (fltOp o fun _ a b _ => withSign (f32.neg b) a) o s
def execFdiv (o : Op) (s : State) : Out := .next <|
  alu (fltOp o fun md a b _ => roundOut f32 md s.w.fp.ftz (fvDiv (f32.readIn s.w.fp.ftz a) (f32.readIn s.w.fp.ftz b))) o s
def execFsqrt (o : Op) (s : State) : Out := .next <|
  alu (fltOp o fun md a _ _ => roundOut f32 md s.w.fp.ftz (fvSqrt (f32.readIn s.w.fp.ftz a))) o s

/-- An elementary function, rounded with rne (08 R187). -/
def elementary (o : Op) (g : Fv → Fv × Flags) (s : State) : State :=
  alu (fltOp o fun _ a _ _ => roundOut f32 .rne s.w.fp.ftz (g (f32.readIn s.w.fp.ftz a))) o s

def execFrcp (o : Op) (s : State) : Out := .next <| elementary o fvRcp s
def execFrsq (o : Op) (s : State) : Out := .next <| elementary o fvRsq s
def execFexp2 (o : Op) (s : State) : Out := .next <| elementary o fvExp2 s
def execFlog2 (o : Op) (s : State) : Out := .next <| elementary o fvLog2 s
def execFsinp (o : Op) (s : State) : Out := .next <| elementary o fvSinp s
def execFcosp (o : Op) (s : State) : Out := .next <| elementary o fvCosp s
def execFtanh (o : Op) (s : State) : Out := .next <| elementary o fvTanh s
def execFsigm (o : Op) (s : State) : Out := .next <| elementary o fvSigm s

end Sys2Proof.Machine
end

