-- ==== Sys2Proof/Machine/Image.lean ====
section
/-! DEFINITION. Images, compressed colour tiles and the sampler (11 R272 to R279). -/
namespace Sys2Proof.Machine

/-- An image descriptor (11 Table 11-5). -/
structure ImgDesc where
  base  : Nat
  meta_ : Nat
  w     : Nat
  h     : Nat
  fmt   : Nat
  last  : Nat
  pitch : Nat
  clear : Nat
  deriving DecidableEq, Repr

/-- A descriptor read from 512 bits; none for a reserved value (11 R272, R276). -/
def readDesc (x : Nat) : Option ImgDesc :=
  let d : ImgDesc := ⟨bitsAt x 0 64, bitsAt x 64 64, bitsAt x 128 16, bitsAt x 144 16, bitsAt x 160 4, bitsAt x 164 4,
    bitsAt x 192 32, bitsAt x 224 32⟩
  let size := 1 ≤ d.w && d.w ≤ 16384 && 1 ≤ d.h && d.h ≤ 16384 && bitsAt x 168 24 == 0 && bitsAt x 256 256 == 0
  let form := match d.fmt with
    | 0 => d.base % 256 == 0 && d.pitch == 0 && d.last ≤ 14
    | 1 => d.base % 4 == 0 && d.meta_ == 0 && d.last == 0 && d.pitch % 4 == 0 && 4 * d.w ≤ d.pitch
    | _ => false
  if size && form then some d else none

/-- The size of a level (11 R272). -/
def levelW (d : ImgDesc) (n : Nat) : Nat := max 1 (d.w / 2 ^ n)
def levelH (d : ImgDesc) (n : Nat) : Nat := max 1 (d.h / 2 ^ n)

/-- Tiles of all levels below n. -/
def tilesBelow (d : ImgDesc) : Nat → Nat
  | 0 => 0
  | n + 1 => tilesBelow d n + ceilDiv (levelW d n) 8 * ceilDiv (levelH d n) 8

/-- A pixel of a level by its coordinates, which are outside the level or not. -/
def inLevel (d : ImgDesc) (n : Nat) (x y : Int) : Bool :=
  n ≤ d.last && 0 ≤ x && x < levelW d n && 0 ≤ y && y < levelH d n

/-- The tile index of a pixel and its byte in the tile (11 R272). -/
def tileOf (d : ImgDesc) (n x y : Nat) : Nat × Nat :=
  (tilesBelow d n + y / 8 * ceilDiv (levelW d n) 8 + x / 8, 4 * (8 * (y % 8) + x % 8))

/-- A mode byte that no encoding has (11 R277). -/
def modeReserved (m : Nat) : Bool :=
  !(m == 0 || m == 1 || (m % 16 == 2 && 16 ≤ m && m < 128))

/-- A pixel of a compressed tile decoded (11 R277): `p` is its number, `tile` the 256 bytes as a little-endian value. -/
def decodePixel (m clear tile p : Nat) : Nat :=
  if m = 0 then bitsAt tile (32 * p) 32
  else if m = 1 then clear
  else
    let w := m / 16
    let ch (c : Nat) := (bitsAt tile (8 * c) 8 + bitsAt tile (32 + w * (4 * p + c)) w) % 256
    joinBits [(8, ch 0), (8, ch 1), (8, ch 2), (8, ch 3)]

/-- The pixels of a tile. -/
def decodeTile (m clear tile : Nat) : List Nat := (List.range 64).map (decodePixel m clear tile)

/-- A tile re-encoded (11 R278): its mode byte, and its bytes unless they stay as they are. -/
def encodeTile (clear : Nat) (px : List Nat) : Nat × Option Nat :=
  if px.all (· == clear) then (1, none)
  else
    let chan (c : Nat) := px.map fun p => bitsAt p (8 * c) 8
    let lo (c : Nat) := (chan c).foldl min 255
    let span (c : Nat) := (chan c).foldl max 0 - lo c
    let r := max (max (span 0) (span 1)) (max (span 2) (span 3))
    let w := max 1 (if r = 0 then 0 else r.log2 + 1)
    if w ≤ 7 then
      (2 + 16 * w, some (joinBits ([(8, lo 0), (8, lo 1), (8, lo 2), (8, lo 3)] ++
        px.flatMap fun p => (List.range 4).map fun c => (w, bitsAt p (8 * c) 8 - lo c))))
    else (0, some (joinBits (px.map fun p => (32, p))))

/-- Where a texel lies once translated: outside the level, a word, or a pixel of a compressed tile with its mode byte; or the
check of its mode byte met poison or waits. -/
inductive TexAt where
  | outside
  | word (pa : Nat)
  | comp (tile mode : Nat) (m : Nat) (off : Nat)
  | poison (pa : Nat)
  | wait
  deriving DecidableEq, Repr

/-- Dirty bytes of the warp's core over a range go home before the home is read (11 R279), and its clean copy, which may be older than
what it now reads, is stale (12 R315). -/
def homeFirst (s : State) (pa n : Nat) : State :=
  let s := performNtRange s pa n
  if region pa < 2 then
    staleBytes ((List.range ((pa % 128 + n + 127) / 128)).foldl (fun s i => writeBackPa s s.core s.ctx (pa / 128 * 128 + 128 * i)) s)
      s.core s.ctx pa n
  else s

/-- A pixel of a level translated for an access, with the mode byte of a compressed tile checked (11 R276). -/
def texCheck (s : State) (k : Access) (d : ImgDesc) (n : Nat) (x y : Int) : State × Except LFault TexAt :=
  if !inLevel d n x y then (s, .ok .outside)
  else if d.fmt = 1 then
    match xlateBy s.sampler s k k (d.base + y.toNat * d.pitch + 4 * x.toNat) 4 with
    | (s, .error f) => (s, .error f)
    | (s, .ok t) => (s, .ok (.word t.pa))
  else
    let (i, off) := tileOf d n x.toNat y.toNat
    if d.meta_ = 0 then
      match xlateBy s.sampler s k k (d.base + 256 * i + off) 4 with
      | (s, .error f) => (s, .error f)
      | (s, .ok t) => (s, .ok (.word t.pa))
    else
      match xlateBy s.sampler s k k (d.base + 256 * i) 256 with
      | (s, .error f) => (s, .error f)
      | (s, .ok t) =>
        match xlateBy s.sampler s k k (d.meta_ + i) 1 with
        | (s, .error f) => (s, .error f)
        | (s, .ok q) =>
          match homePiece (homeFirst s q.pa 1) q.pa 1 with
          | (s, .ok bs) =>
            if modeReserved (leNat bs) then (s, .error (lfVa FORMAT_MISMATCH ((d.meta_ + i) % 2 ^ 64)))
            else (s, .ok (.comp t.pa q.pa (leNat bs) off))
          | (s, .poison pa) => (s, .ok (.poison pa))
          | (s, _) => (s, .ok .wait)

/-- The value of a texel. -/
def texRead (d : ImgDesc) (s : State) (t : TexAt) : State × Got Nat :=
  match t with
  | .outside => (s, .ok 0)
  | .poison pa => (s, .poison pa)
  | .wait => (s, .wait)
  | .word pa =>
    match readPiece s .default pa 4 with
    | (s, .ok bs) => (s, .ok (leNat bs))
    | (s, .poison p) => (s, .poison p)
    | (s, _) => (s, .wait)
  | .comp tile _ m off =>
    if m = 1 then (s, .ok d.clear)
    else
      match homePiece (homeFirst s tile 256) tile 256 with
      | (s, .ok bs) => (s, .ok (decodePixel m d.clear (leNat bs) (off / 4)))
      | (s, .poison p) => (s, .poison p)
      | (s, _) => (s, .wait)

/-- Several reads in order; a wait is remembered while the rest is asked for. -/
def gotAll {α β : Type} (f : State → α → State × Got β) : List α → State → List β → Bool → State × Got (List β)
  | [], s, acc, waits => (s, if waits then .wait else .ok acc.reverse)
  | a :: rest, s, acc, waits =>
    match f s a with
    | (s, .ok b) => gotAll f rest s (b :: acc) waits
    | (s, .wait) => gotAll f rest s acc true
    | (s, .fault f) => (s, .fault f)
    | (s, .poison p) => (s, .poison p)

/-- The descriptor of a GFX minor read; its faults are every active lane's (11 R276). -/
inductive DescGot where
  | ok (d : ImgDesc)
  | fault (f : LFault)
  | poison (pa : Nat)
  | wait

def getDesc (s : State) (va : W64) : State × DescGot :=
  if va.toNat % 64 ≠ 0 then (s, .fault (lfVa MISALIGNED va.toNat))
  else
    match xlateBy s.sampler s .read .read va.toNat 64 with
    | (s, .error f) => (s, .fault f)
    | (s, .ok x) =>
      match readPiece s .default x.pa 64 with
      | (s, .ok bs) =>
        match readDesc (leNat bs) with
        | some d => (s, .ok d)
        | none => (s, .fault (lfVa FORMAT_MISMATCH va.toNat))
      | (s, .poison pa) => (s, .poison pa)
      | (s, _) => (s, .wait)

/-- The faults of the lanes of a GFX minor; a fault of the descriptor is every active lane's. -/
def everyLane (s : State) (r : Req) (f : LFault) : List (Nat × LFault) :=
  raisedOnly s ((maskLanes r.lanes).map fun l => (l, f))

/-- What follows the checks of a minor whose lanes read texels: faults, or the values read lane by lane, given to `k`. -/
def withTexels (s : State) (d : ImgDesc) (oks : List (Nat × List (TexAt × Nat))) (bad : List (Nat × LFault))
    (k : State → List (Nat × List (Nat × Nat × Bool)) → Done) : Done :=
  match bad with
  | f :: fs => faulted s (f :: fs)
  | [] =>
    let one (s : State) (t : TexAt × Nat) : State × Got (Nat × Nat × Bool) :=
      match texRead d s t.1 with
      | (s, .ok x) => (s, .ok (x, t.2, t.1 != .outside))
      | (s, .wait) => (s, .wait)
      | (s, .fault f) => (s, .fault f)
      | (s, .poison p) => (s, .poison p)
    let lane (s : State) (p : Nat × List (TexAt × Nat)) : State × Got (Nat × List (Nat × Nat × Bool)) :=
      match gotAll one p.2 s [] false with
      | (s, .ok xs) => (s, .ok (p.1, xs))
      | (s, .wait) => (s, .wait)
      | (s, .fault f) => (s, .fault f)
      | (s, .poison q) => (s, .poison q)
    match gotAll lane oks s [] false with
    | (s, .ok vals) => k (dropRemotes s s.w.id) vals
    | (s, .poison pa) => .poison s pa
    | (s, _) => .wait s

/-- IMGLD (11 R275). -/
def doImgld (s : State) (r : Req) (desc : W64) (lvl : Nat) (x y : List W32) : Done :=
  if r.lanes = 0 then .ok (deliver s r 1 fun _ => 0)
  else
    match getDesc s desc with
    | (s, .poison pa) => .poison s pa
    | (s, .wait) => .wait s
    | (s, .fault f) =>
      match everyLane s r f with
      | [] => .ok (deliver s r 1 fun _ => 0)
      | fs => faulted s fs
    | (s, .ok d) =>
      let one (s : State) (l : Nat) : State × Except LFault (List (TexAt × Nat)) :=
        match texCheck s .read d lvl (signed 32 (x.getD l 0).toNat) (signed 32 (y.getD l 0).toNat) with
        | (s, .ok t) => (s, .ok [(t, 0)])
        | (s, .error f) => (s, .error f)
      let (s, oks, bad) := checkLanes one (maskLanes r.lanes) s [] []
      withTexels s d oks (raisedOnly s bad) fun s vals =>
        .ok (deliver s r 1 fun l => ((vals.find? (·.1 == l)).bind fun p => p.2.head?.map (·.1)).getD 0)

/-- The writes of an issue to one compressed tile applied, and the tile and its mode byte written at their homes (11 R278,
R279). -/
def updateTile (s : State) (clear tile mode m : Nat) (writes : List (Nat × Nat)) : State :=
  let old := leNat (homeNow s [] tile 256)
  let px := writes.foldl (fun px p => listSet px p.1 p.2) (decodeTile m clear old)
  let (m', bytes) := encodeTile clear px
  let s := match bytes with
    | some b =>
      let bs := leBytes 256 b
      homeWrite (homeWrite s tile (bs.take 128)) (tile + 128) (bs.drop 128)
    | none => staleBytes s s.core s.ctx tile 256
  homeWrite s mode [BitVec.ofNat 8 m']

/-- Writes grouped by tile, in the order of their first lane. -/
def groupTiles : Nat → List (Nat × Nat × Nat × Nat × Nat) → List (Nat × Nat × Nat × List (Nat × Nat))
  | 0, _ => []
  | _, [] => []
  | n + 1, (t, q, m, off, x) :: rest =>
    let mine := rest.filter (·.1 == t)
    (t, q, m, (off / 4, x) :: mine.map fun p => (p.2.2.2.1 / 4, p.2.2.2.2)) :: groupTiles n (rest.filter (·.1 != t))

/-- IMGST (11 R275, R278): the highest lane of a pixel wins. -/
def doImgst (s : State) (r : Req) (desc : W64) (lvl : Nat) (x y data : List W32) : Done :=
  let lanes := maskLanes (r.lanes &&& ~~~ s.w.helpers)
  if r.lanes = 0 then .ok s
  else
    match getDesc s desc with
    | (s, .poison pa) => .poison s pa
    | (s, .wait) => .wait s
    | (s, .fault f) =>
      match everyLane s r f with
      | [] => .ok s
      | fs => faulted s fs
    | (s, .ok d) =>
      let one (s : State) (l : Nat) : State × Except LFault TexAt :=
        texCheck s .write d lvl (signed 32 (x.getD l 0).toNat) (signed 32 (y.getD l 0).toNat)
      let (s, oks, bad) := checkLanes one lanes s [] []
      match bad with
      | f :: fs => faulted s (f :: fs)
      | [] =>
        let words := oks.filterMap fun p => match p.2 with
          | .word pa => some (p.1, pa)
          | _ => none
        let comps := oks.filterMap fun p => match p.2 with
          | .comp t q m off => some (t, q, m, off, (data.getD p.1 0).toNat)
          | _ => none
        -- a tile of another memory is read first
        match gotAll (texRead d) (oks.map (·.2) |>.filter fun t => match t with
            | .word _ => false
            | _ => true) s [] false with
        | (s, .poison pa) => .poison s pa
        | (s, .ok _) =>
          let s := words.foldl (fun s p => writePiece s .default p.2 (leBytes 4 (data.getD p.1 0).toNat)) s
          let s := (groupTiles comps.length comps).foldl (fun s g =>
            updateTile (homeFirst s g.1 256) d.clear g.1 g.2.1 g.2.2.1 g.2.2.2) s
          .ok (dropRemotes s s.w.id)
        | (s, _) => .wait s

/-! The sampler (11 R274). -/

/-- A finite value times an integer. -/
def fvTimes (v : Fv) (k : Nat) : Fv :=
  match v with
  | .num neg m e st => .num neg (m * k) e st
  | v => v

/-- The floor of a finite exact value less a half, and 256 times what is left, rounded to even (11 R274). -/
def splitHalf (v : Fv) : Int × Nat :=
  match v with
  | .num neg m e _ =>
    let q : Int := if e < -1 then e else -1
    let d : Int := (2 : Int) ^ (-q).toNat
    let x := scaledInt neg m e q - d / 2
    let i := x / d
    let a := (roundAt .rne false (256 * (x - i * d)).toNat q false 0).1
    if a = 256 then (i + 1, 0) else (i, a)
  | _ => (0, 0)

/-- The floor of a finite exact value. -/
def fvFloor (v : Fv) : Int :=
  match v with
  | .num neg m e _ =>
    if 0 ≤ e then scaledInt neg m e 0 else (if neg then -(m : Int) else (m : Int)) / (2 : Int) ^ (-e).toNat
  | _ => 0

/-- (a x W)^2 + (b x H)^2, exact, or what is not finite. -/
def sumSquares (a b : Fv) (w h : Nat) : Fv :=
  let x := fvTimes a w
  let y := fvTimes b h
  (fvAdd .rne (fvMul x x).1 (fvMul y y).1).1

/-- 256 times half the binary logarithm of a positive m x 2^e, rounded (11 R274): no power of m but one of two is a tie. -/
def lodFine (m : Nat) (e : Int) : Int :=
  let l : Int := 256 * e + (m ^ 256).log2
  (l + l % 2) / 2

/-- Half the binary logarithm of m x 2^e rounded to even (11 R274). -/
def lodNear (m : Nat) (e : Int) : Int :=
  let l : Int := e + m.log2
  let n := (l + 1) / 2
  if m = 2 ^ m.log2 && l % 2 = 1 && n % 2 = 1 then n - 1 else n

/-- The level of detail clamped, in 256ths, or whole for NEAR (11 R274); a value that is no number counts as 0. -/
def lodOf (near : Bool) (last : Nat) (grad : Option Fv) (lod : Fv) : Nat :=
  let top : Int := if near then (last : Int) else 256 * (last : Int)
  match grad with
  | some (.num _ m e _) =>
    if m = 0 then 0 else (clampInt 0 top (if near then lodNear m e else lodFine m e)).toNat
  | some (.inf _) => top.toNat
  | some (.nan _) => 0
  | none => (roundToInt .rne 0 top (if near then lod else lod.scale 8)).1.toNat

/-- The larger of two sums of squares; a NaN wins. -/
def maxFv (a b : Fv) : Fv := if a.isNan then a else if b.isNan then b else if (fvCmp a b).1 then b else a

/-- An index under an address mode (11 R274); none outside under BORDER. -/
def wrapIndex (addr : BitVec 2) (size : Nat) (i : Int) : Option Int :=
  match addr.toNat with
  | 0 => some (clampInt 0 ((size : Int) - 1) i)
  | 1 => some (i % (size : Int))
  | _ => if 0 ≤ i && i < size then some i else none

/-- The texels of a lane and their weights, in 2^24ths: level, x, y; no coordinates for a border texel. -/
def texels (d : ImgDesc) (addr : BitVec 2) (near : Bool) (lod : Nat) (u v : Fv) : List (Nat × Option (Int × Int) × Nat) :=
  let at_ (n : Nat) (i j : Int) : Option (Int × Int) :=
    match wrapIndex addr (levelW d n) i, wrapIndex addr (levelH d n) j with
    | some x, some y => some (x, y)
    | _, _ => none
  if near then [(lod, at_ lod (fvFloor (fvTimes u (levelW d lod))) (fvFloor (fvTimes v (levelH d lod))), 2 ^ 24)]
  else
    let bil (n scale : Nat) : List (Nat × Option (Int × Int) × Nat) :=
      let (i, a) := splitHalf (fvTimes u (levelW d n))
      let (j, c) := splitHalf (fvTimes v (levelH d n))
      [(n, at_ n i j, scale * (256 - a) * (256 - c)), (n, at_ n (i + 1) j, scale * a * (256 - c)),
       (n, at_ n i (j + 1), scale * (256 - a) * c), (n, at_ n (i + 1) (j + 1), scale * a * c)]
    (bil (lod / 256) (256 - lod % 256) ++ bil (lod / 256 + 1) (lod % 256)).filter (·.2.2 != 0)

/-- A sum of weighted values in 2^24ths over a divisor, rounded once to f32; a zero is +0. -/
def roundSum (v : Fv) (div : Nat) : Nat :=
  let q := (fvDiv (v.scale (-24)) (intVal div)).1
  if q.isZero then 0 else (f32.round .rne false q).1

/-- The four channels of a lane from its texels: value, weight, and whether it lies in the image. -/
def channels (d : ImgDesc) (ts : List (Nat × Nat × Bool)) : List Nat :=
  let inside := ts.filter (·.2.2)
  let weighted (f : Nat → Fv) : Fv :=
    inside.foldl (fun acc t => (fvAdd .rne acc (fvTimes (f t.1) t.2.1)).1) (.num false 0 0 false)
  if d.fmt = 1 then
    [roundSum (weighted f32.read) 1, 0, 0, roundSum (weighted fun _ => intVal 1) 1]
  else (List.range 4).map fun c => roundSum (weighted fun x => intVal (bitsAt x (8 * c) 8)) 255

/-- SAMPLE (form 0), SAMPLEL (1) and SAMPLEG (2) (11 R274): `l0` to `l3` are the level of detail or the gradients. -/
def doSample (s : State) (r : Req) (form : Nat) (desc : W64) (addr : BitVec 2) (near : Bool)
    (u v l0 l1 l2 l3 : List W32) : Done :=
  if r.lanes = 0 then .ok (deliver s r 4 fun _ => 0)
  else
    match getDesc s desc with
    | (s, .poison pa) => .poison s pa
    | (s, .wait) => .wait s
    | (s, .fault f) =>
      match everyLane s r f with
      | [] => .ok (deliver s r 4 fun _ => 0)
      | fs => faulted s fs
    | (s, .ok d) =>
      let val (xs : List W32) (l : Nat) : Fv := f32.read (xs.getD l 0).toNat
      let diff (xs : List W32) (a b : Nat) : Fv := f32.read (quadSub (xs.getD a 0).toNat (xs.getD b 0).toNat)
      let grads (l : Nat) : Fv × Fv × Fv × Fv :=
        if form = 2 then (val l0 l, val l1 l, val l2 l, val l3 l)
        else
          let q := l / 4 * 4
          let px := if l % 4 < 2 then (q + 1, q) else (q + 3, q + 2)
          let py := if l % 2 = 0 then (q + 2, q) else (q + 3, q + 1)
          (diff u px.1 px.2, diff v px.1 px.2, diff u py.1 py.2, diff v py.1 py.2)
      let finite (x : Fv) : Bool := !x.isNan && !x.isInf
      let one (s : State) (l : Nat) : State × Except LFault (List (TexAt × Nat)) :=
        if !(finite (val u l) && finite (val v l)) then (s, .ok [])
        else
          let g := grads l
          let grad := if form = 1 then none
            else some (maxFv (sumSquares g.1 g.2.1 d.w d.h) (sumSquares g.2.2.1 g.2.2.2 d.w d.h))
          let lod := lodOf near d.last grad (val l0 l)
          let (s, ts, bad) := checkLanes (fun s i =>
            match (texels d addr near lod (val u l) (val v l))[i]? with
            | some (n, some (x, y), w) =>
              match texCheck s .read d n x y with
              | (s, .ok t) => (s, .ok (t, w))
              | (s, .error f) => (s, .error f)
            | some (_, none, w) => (s, .ok (TexAt.outside, w))
            | none => (s, .ok (TexAt.outside, 0)))
            (List.range (texels d addr near lod (val u l) (val v l)).length) s [] []
          match bad with
          | f :: _ => (s, .error f.2)
          | [] => (s, .ok (ts.map (·.2)))
      let (s, oks, bad) := checkLanes one (maskLanes r.lanes) s [] []
      withTexels s d oks (raisedOnly s bad) fun s vals =>
        .ok (deliver s r 4 fun l =>
          match vals.find? (·.1 == l) with
          | some (_, ts) => if ts.isEmpty then 0 else joinBits ((channels d ts).map fun c => (32, c))
          | none => 0)
where
  /-- A difference of two lanes of a quad, without FTZ and flags (11 R274, R271). -/
  quadSub (a b : Nat) : Nat := (fmtSub f32 false .rne a b).1

end Sys2Proof.Machine
end

