-- ==== Sys2Proof/Machine/Work.lean ====
section
/-! DEFINITION. Work: areas, node entries, bins, frames, where a workgroup fits, warps coming and going (chapters 12 and 14,
07 R158, 10 R232, 09 R409). -/
namespace Sys2Proof.Machine

/-! Areas (12 R300). -/

/-- Two blocks meet. -/
def blocksMeet (a n : Nat) (u : Nat × Nat) : Bool := rangesMeet a n u.1 u.2

/-- The lowest place for `n` bytes among blocks in use, below a limit. -/
def firstFit (used : List (Nat × Nat)) (n limit : Nat) : Option Nat :=
  let ok (a : Nat) : Bool := a + n ≤ limit && !used.any (blocksMeet a n)
  (((0 :: used.map fun u => u.1 + u.2).filter ok).foldl (fun (m : Option Nat) a => some (match m with
    | some b => min a b
    | none => a)) none)

/-- A block of an area taken: its offset, and the area. -/
def Area.take (a : Area) (n : Nat) : Option (Nat × Area) :=
  if n = 0 then some (0, a) else (firstFit a.used n a.size).map fun o => (o, { a with used := (o, n) :: a.used })

/-- The block at an offset given back. -/
def Area.give (a : Area) (o n : Nat) : Area := if n = 0 then a else { a with used := a.used.filter (·.1 != o) }

/-- The areas of a context, and a change of one of them: bin, frame, stack pool, save pool. -/
def ctxAreas (s : State) (ctx : Nat) : Option (Area × Area × Area × Area) := (getCtx s ctx).bind (·.areas)
def modFrameArea (s : State) (ctx : Nat) (f : Area → Area) : State :=
  modCtx s ctx fun c => { c with areas := c.areas.map fun a => (a.1, f a.2.1, a.2.2.1, a.2.2.2) }
def modStackPool (s : State) (ctx : Nat) (f : Area → Area) : State :=
  modCtx s ctx fun c => { c with areas := c.areas.map fun a => (a.1, a.2.1, f a.2.2.1, a.2.2.2) }
def modSavePool (s : State) (ctx : Nat) (f : Area → Area) : State :=
  modCtx s ctx fun c => { c with areas := c.areas.map fun a => (a.1, a.2.1, a.2.2.1, f a.2.2.2) }

/-! Nodes (12 R294, R295). -/

def nodeField (e : BitVec 512) (lo n : Nat) : Nat := bitsAt e.toNat lo n
def nodeWords (e : BitVec 512) : Nat := nodeField e 128 6 + 1
def nodeCount (e : BitVec 512) : Nat := nodeField e 134 7 + 1
def nodeTimer (e : BitVec 512) : Nat := nodeField e 160 32
def nodeRegs (e : BitVec 512) : Nat := 8 * nodeField e 192 7

/-- A stride and a number of planes that agree (12 Table 12-1). -/
def planesOk (planes stride : Nat) : Bool := if planes = 0 then stride = 0 else 1 ≤ stride && stride ≤ 16383

/-- An entry with a nonzero reserved field or a reserved value (12 R295). -/
def nodeInvalid (e : BitVec 512) : Bool :=
  nodeField e 0 12 != 0 || nodeField e 64 2 != 0 || !planesOk (nodeField e 96 2) (nodeField e 98 14) ||
  nodeField e 112 16 != 0 || nodeWords e < 4 || nodeField e 141 19 != 0 || 64 < nodeField e 192 7 || 8 < nodeField e 199 4 ||
  nodeField e 203 2 == 3 || nodeField e 206 50 != 0 || nodeField e 320 32 % 256 != 0 || nodeField e 352 160 != 0

/-- What a handle names. -/
inductive NodeGot where
  | ok (e : BitVec 512)
  | nothing
  | fault (f : PFault)
  | poison (pa : Nat)
  | wait

/-- The entry of a handle below 0xFF00, from the node cache of a cluster or read at its home and kept (12 R294). -/
def readNode (s : State) (u : Walker) (who cl ctx h : Nat) : State × NodeGot :=
  match getCtx s ctx with
  | none => (s, .nothing)
  | some c =>
    if 0xFF00 ≤ h || c.ntcount ≤ h then (s, .nothing)
    else
      match (getCluster s cl).nodes.find? fun x => x.1 == ctx && x.2.1 == h with
      | some x => (s, .ok x.2.2)
      | none =>
        match unitRead s u who ctx (c.ntbase.toNat + 64 * h) 64 with
        | (s, .ok bs) =>
          let e := BitVec.ofNat 512 (leNat bs)
          (modCluster (dropRemotes s who) cl fun k => { k with nodes := (ctx, h, e) :: k.nodes }, .ok e)
        | (s, .fault f) => (s, .fault f)
        | (s, .poison pa) => (s, .poison pa)
        | (s, .wait) => (s, .wait)

/-- The same for a warp, whose core first writes back its dirty bytes when the entry must be fetched. -/
def warpNode (s : State) (h : Nat) : State × NodeGot :=
  let held := (getCluster s s.w.cluster).nodes.any fun x => x.1 == s.ctx && x.2.1 == h
  readNode (if held then s else writeBackCtx s s.core s.ctx) s.walker s.w.id s.w.cluster s.ctx h

/-! Bins (12 R296, R297). -/

/-- The bin of a node of a context in a cluster, with its number. -/
def findBin (k : Cluster) (ctx node : Nat) : Option (Nat × Bin) := k.bins.find? fun b => b.2.ctx == ctx && b.2.node == node

/-- Bytes of records that the bins of a context hold. -/
def binBytes (s : State) (ctx : Nat) : Nat :=
  s.clusters.foldl (fun n p => p.2.bins.foldl (fun n b =>
    if b.2.ctx == ctx then b.2.recs.foldl (fun n r => n + 4 * r.words.length) n else n) n) 0

/-- Room for `n` records of `words` words of a node in a cluster (12 R297). -/
def binRoom (s : State) (cl ctx node words n : Nat) : Bool :=
  let k := getCluster s cl
  ((findBin k ctx node).isSome || k.bins.length < 64) &&
    binBytes s ctx + 4 * words * n ≤ ((ctxAreas s ctx).map (·.1.size)).getD 0

/-- A record joins its bin; the timer starts when the bin was empty (12 R296). -/
def addRecord (s : State) (cl ctx node timer : Nat) (r : BinRec) : State :=
  modCluster s cl fun k =>
    match findBin k ctx node with
    | some (i, b) => { k with bins := tput k.bins i { b with recs := b.recs ++ [r] } }
    | none =>
      let i := ((List.range 64).find? fun i => (tget k.bins i).isNone).getD 0
      { k with bins := tput k.bins i ⟨ctx, node, [r], some (s.clock + timer), 0⟩ }

/-- Records of the oldest record's kind, which a warp of the node may take (11 R267). -/
def Bin.sameKind (b : Bin) : List BinRec := b.recs.filter fun r => r.kind == (b.recs.head?.map (·.kind)).getD 0

/-- C for the records that a bin holds (12 R296, 11 R267, R282). -/
def Bin.quota (b : Bin) (e : BitVec 512) : Nat :=
  match (b.recs.head?.map (·.kind)).getD 0 with
  | 1 => min (nodeCount e) 32
  | _ => min (nodeCount e) 128

/-! Frames (12 R298). -/

def laneCount (f : Frame) (l : Nat) : Nat := tgetD f.lanes l 0

/-- A counter of a frame raised by one: a lane's, or with slot 128 the warp's. -/
def countUp (s : State) (fr slot : Nat) : State :=
  match getFrame s fr with
  | some f => setFrame s fr (if slot < 128 then { f with lanes := tput f.lanes slot (laneCount f slot + 1) } else { f with warp := f.warp + 1 })
  | none => s

/-- The save image of a frame (12 Table 12-4); where lanes have different parents, that of the lowest lane. -/
def frameImage (s : State) (f : Frame) : List Byte :=
  let (pva, slot) := match f.parent.head? with
    | some p => (((getFrame s p.2.1).map (·.va.toNat)).getD 0, p.2.2)
    | none => (0, 0xFF)
  leBytes 256 (joinBits ((List.range 128).map fun l => (16, laneCount f l))) ++ leBytes 8 f.warp ++ leBytes 8 pva ++ leBytes 8 slot ++ leBytes 232 0

/-- The save image of a frame written. -/
def saveFrame (s : State) (f : Frame) : State := (unitWrite s .firmware 0 f.ctx f.va.toNat (frameImage s f)).1

/-- A counter lowered by one when a child completes; while the warp is saved, in its image as well (15 R378). -/
def countDown (s : State) (fr slot : Nat) : State :=
  match getFrame s fr with
  | some f =>
    let f := if slot < 128 then { f with lanes := tput f.lanes slot (laneCount f slot - 1) } else { f with warp := f.warp - 1 }
    let s := setFrame s fr f
    if f.saved then saveFrame s f else s
  | none => s

/-! The records of a saved workgroup (15 R381, R382). -/

/-- Bytes of a warp's record; that of a warp that has exited holds no register (15 R381). -/
def recordSize (w : Warp) : Nat := roundUp (0x6000 + 512 * w.v.length + w.zregs * 128 * (w.zbytes + 4) + 16) 4096

/-- Where the record of a warp lies in its workgroup's image. -/
def recordOffset (s : State) (k : Nat) : List Nat → Nat
  | [] => 0x1000
  | x :: xs => if x = k then 0x1000 else recordSize ((getWarp s x).getD (Warp.idle x .none)) + recordOffset s k xs

/-- Outstanding counts and error bits as a record holds them. -/
def countBytes (w : Warp) : List Byte :=
  leBytes 24 (joinBits ((List.range 11).map (fun e => (16, tgetD w.counts e 0)) ++ (List.range 11).map fun e => (1, (tgetD w.errors e false).toNat)))

/-- The counts of a warp that is saved written in its record (15 R378). -/
def resaveCounts (s : State) (k : Nat) : State :=
  match getWarp s k with
  | some w =>
    match w.groupId.bind (getGroup s) with
    | some g =>
      if w.live && !w.home.resident && g.image ≠ 0 then
        (unitWrite s .firmware 0 w.home.ctx (g.image.toNat + recordOffset s k g.warps + 0x160) (countBytes w)).1
      else s
    | none => s
  | none => s

/-! Where a workgroup fits (14 R345). -/

/-- The live warps resident on a core, and in one of its lane groups. -/
def warpsOn (s : State) (core : Nat) : List Warp :=
  (allWarps s).filter fun w => w.live && w.home.resident && w.groupId.isSome && w.home.core == core
def warpsIn (s : State) (core lg : Nat) : List Warp := (warpsOn s core).filter fun w => w.home.group == lg

/-- Register units of a lane group in use: reservations, and 8 for each queue bank (07 R158). -/
def unitsUsed (s : State) (core lg : Nat) : Nat :=
  (groupsOnCore s core).foldl (fun n p => n + tgetD p.2.reserve lg 0) 0 + 8 * (warpsIn s core lg).length

/-- The lane groups that a workgroup uses, ascending. -/
def usedGroups (lgs : List Nat) : List Nat := (List.range 4).filter lgs.contains

/-- The headroom of each lane group (07 R158): shared evenly in units of 8, the rest to the lowest-numbered. -/
def headroom (lgs regs : List Nat) (budget : Nat) : Tab Nat :=
  let used := usedGroups lgs
  let n := max used.length 1
  let h := (8 * budget - regs.foldl (· + ·) 0) / 8
  used.map fun g => (g, 8 * (h / n) + if some g == used.head? then 8 * (h % n) else 0)

/-- The reservation of each lane group: initial allotments and headroom (07 R158). -/
def reservation (lgs regs : List Nat) (budget : Nat) : Tab Nat :=
  (headroom lgs regs budget).map fun p => (p.1, p.2 + ((lgs.zip regs).filter (·.1 == p.1)).foldl (fun n q => n + q.2) 0)

/-- A scratchpad fits beside those of a core (05 R109). -/
def scratchFits (s : State) (core kib : Nat) : Bool :=
  roundUp ((groupsOnCore s core).foldl (fun n p => n + p.2.scratch) 0 + kib) 64 ≤ 448

/-- Bytes of a warp's stream reservation (10 R232). -/
def streamBytes (zregs zmax : Nat) : Nat := roundUp (zregs * 128 * (256 * 2 ^ zmax / 8 + 4)) 16

/-- Stream reservations of a cluster in use. -/
def streamsUsed (s : State) (cl : Nat) : List (Nat × Nat) :=
  ((allWarps s).filter fun w => w.live && w.home.resident && w.groupId.isSome && w.cluster == cl && w.zregs != 0).map fun w => (w.zbase, w.zsize)

/-- Places for `n` more stream reservations of a size. -/
def streamPlaces (size : Nat) : Nat → List (Nat × Nat) → Option (List Nat)
  | 0, _ => some []
  | n + 1, used =>
    if size = 0 then (streamPlaces size n used).map (0 :: ·)
    else
      match firstFit used size 0x40000 with
      | some a => (streamPlaces size n ((a, size) :: used)).map (a :: ·)
      | none => none

/-- Free slots of a core, ascending (07 Table 07-1, 14 R345). -/
def freeSlots (s : State) (core : Nat) : List Nat :=
  let used := (warpsOn s core).map (·.home.slot)
  (List.range 64).filter fun i => !used.contains i

/-- What a workgroup needs of a core. -/
structure Needs where
  ctx     : Nat
  regs    : List Nat
  budget  : Nat
  scratch : Nat
  zregs   : Nat
  zmax    : Nat
  matrix  : Bool
  deriving DecidableEq, Repr

/-- Every condition of R345, and of the matrix mark (09 R203, R409), on one core. -/
def placeFits (s : State) (n : Needs) (p : Place) : Bool :=
  p.core < 640 && p.groups.length == n.regs.length && p.groups.all (· < 4) &&
  n.regs.length ≤ (freeSlots s p.core).length &&
  (List.range 4).all (fun g =>
    (warpsIn s p.core g).length + (p.groups.filter (· == g)).length ≤ 16 &&
    unitsUsed s p.core g + tgetD (reservation p.groups n.regs n.budget) g 0 + 8 * (p.groups.filter (· == g)).length ≤ 1024) &&
  scratchFits s p.core n.scratch &&
  (streamPlaces (streamBytes n.zregs n.zmax) n.regs.length (streamsUsed s (clusterOfCore p.core))).isSome &&
  (!n.matrix || (getCluster s (clusterOfCore p.core)).owner == none || (getCluster s (clusterOfCore p.core)).owner == some n.ctx)

/-- The KiB of a core's scratchpad part that a workgroup gets (05 R109): the lowest run that is free, or else the lowest free ones, so
that nothing on the core moves (R114; log 9). -/
def freeKib (s : State) (core n : Nat) : List Nat :=
  let used := (groupsOnCore s core).flatMap fun p => p.2.skib
  match firstFit (used.map fun k => (k, 1)) n 448 with
  | some a => (List.range n).map (a + ·)
  | none => ((List.range 448).filter fun k => !used.contains k).take n

/-- A workgroup joins a core: its scratchpad, and the L1 that is left (05 R109). -/
def joinCore (s : State) (key core : Nat) (g : Group) : State :=
  fitL1 (setGroup s key { g with core := core, resident := true, skib := freeKib s core g.scratch }) core

/-- A matrix set gained by a context in whose cluster a marked workgroup is placed (09 R202, R409). -/
def gainSet (s : State) (cl ctx : Nat) (matrix : Bool) : State :=
  if matrix && (getCluster s cl).owner == none then clearSetOf s cl (some ctx) else s

/-! Warps coming and going. -/

/-- What a launched warp is made from. -/
structure Birth where
  home   : Home
  group  : Nat
  code   : Code
  entry  : W32
  regs   : Nat
  zregs  : Nat
  zmax   : Nat
  mask   : Mask
  wid    : W64
  role   : Nat
  stack  : Nat
  zbase  : Nat
  deriving DecidableEq, Repr

/-- A launched warp (12 R292, R296, 07 R153, R157, R159, 10 R233). -/
def Birth.warp (b : Birth) (key frame : Nat) (frameVA stackBase : W64) (pooled : Nat × Nat) : Warp :=
  { Warp.idle key (.group b.group) with
    live := true, home := b.home, code := b.code, o := b.entry, v := List.replicate b.regs Vec.zero, exec := b.mask
    exited := ~~~ b.mask, wid := b.wid, role := BitVec.ofNat 32 b.role, lmax := 256 * 2 ^ b.zmax, zregs := b.zregs, zbase := b.zbase
    z := List.replicate b.zregs (List.replicate 128 ZLane.void0), frame := frame, frameVA := frameVA, stackBase := stackBase
    stackSize := b.stack, pooled := pooled }

/-- The two allocations of a warp (12 R300), or nothing when they do not fit. -/
def takeAreas (s : State) (ctx stack : Nat) : Option (State × W64 × W64 × Nat) :=
  match ctxAreas s ctx with
  | none => none
  | some (_, fa, sp, _) =>
    match fa.take 1024, sp.take stack with
    | some (fo, fa'), some (so, sp') =>
      some (modStackPool (modFrameArea s ctx fun _ => fa') ctx fun _ => sp', fa.va + BitVec.ofNat 64 fo, sp.va + BitVec.ofNat 64 so, so)
    | _, _ => none

/-- The bytes of a fresh frame record: a zero image and the stack descriptor (12 R300, 15 R375). -/
def frameRecord (stackBase : W64) (stack : Nat) : List Byte :=
  leBytes 512 0 ++ leBytes 16 (joinBits [(64, stackBase.toNat), (32, stack)]) ++ leBytes 496 0

/-- A warp launched: its areas, its frame, its record in memory, and the warp. A fault of the record's write stops the context
(12 R300). Nothing when the areas have no room. -/
def launchWarp (s : State) (b : Birth) (fr : Frame) (k : Warp → Warp) : Option State :=
  match takeAreas s b.home.ctx b.stack with
  | none => none
  | some (s, fva, sva, so) =>
    let key := s.nextKey
    let s := { s with nextKey := key + 2 }
    let s := setFrame s (key + 1) { fr with va := fva }
    let s := match unitWrite s .firmware 0 b.home.ctx fva.toNat (frameRecord sva b.stack) with
      | (s, .fault f) => stopCtx s b.home.ctx [BitVec.ofNat 64 f.cause, BitVec.ofNat 64 f.va, 0xFFFFFFFF, 0]
      | (s, .poison pa) => poisonStop s b.home.ctx pa 0
      | (s, _) => s
    let s := setWarp s (k (b.warp key (key + 1) fva sva (so, b.stack)))
    let s := modGroup s b.group fun g => { g with warps := g.warps ++ [key] }
    -- the child's core reconciles with what came before the launch (12 Table 12-7)
    some (genBump s b.home.core)

/-- A frame's record returns to the frame area, and the frame is gone (12 R300). -/
def dropFrame (s : State) (fr : Nat) (f : Frame) : State :=
  let s := modFrameArea s f.ctx fun a => a.give (f.va.toNat - a.va.toNat) 1024
  { s with frames := tdel s.frames fr }

/-! Barriers (12 R308). -/

/-- Warps of a workgroup that have not exited. -/
def liveWarps (s : State) (g : Group) : Nat := (g.warps.filter fun k => ((getWarp s k).map (·.live)).getD false).length

/-- The phase of a slot completes when enough have arrived. -/
def barCheck (s : State) (g slot : Nat) : State :=
  match getGroup s g with
  | none => s
  | some x =>
    match tget x.bars slot with
    | none => s
    | some b =>
      let need := if b.expected = 0 then liveWarps s x else b.expected
      if b.arrivals ≠ 0 && need ≤ b.arrivals then setGroup s g { x with bars := tdel x.bars slot } else s

/-- Every slot whose expected count is zero is checked again (12 R308). -/
def barChecks (s : State) (g : Nat) : List Nat → State
  | [] => s
  | k :: ks =>
    let open_ := match (getGroup s g).bind fun x => tget x.bars k with
      | some b => b.expected == 0
      | none => false
    barChecks (if open_ then barCheck s g k else s) g ks

/-! Leaving. -/

/-- The workgroup of a warp that has left, gone with its last warp; its lane group's pool takes the registers (07 R158). -/
def leaveGroup (s : State) (g lg regs me : Nat) : State :=
  match getGroup s g with
  | none => s
  | some x =>
    let chans := x.chans.map fun c => (c.1, if c.2.consumer == some me then { c.2 with gone := true, slots := [] } else c.2)
    let s := setGroup s g { x with pool := tput x.pool lg (tgetD x.pool lg 0 + regs), chans := chans }
    if liveWarps s x = 0 then { s with groups := tdel s.groups g } else barChecks s g (List.range 8)

/-- A warp that has exited gives everything back but its frame (12 R299, R300, 14 R357). -/
def releaseWarp (s : State) : State :=
  let w := s.w
  let s := writeBackCtx s s.core s.ctx
  let s := returnLease s w
  let s := modStackPool s s.ctx fun a => a.give w.pooled.1 w.pooled.2
  let s := { s with w := Warp.idle w.id .none }
  match w.groupId with
  | some g => leaveGroup s g w.home.group w.v.length w.home.index
  | none => s

/-- Entries popped until a lane is active or the stack is empty (13 R326). -/
def popToLane : Nat → State → State
  | 0, s => s
  | n + 1, s =>
    if s.w.exec &&& s.w.alive != 0 then s
    else
      match s.w.stack with
      | [] => s
      | e :: _ =>
        if e.kind == .loop then popToLane n ((dropTop s).modW fun w => { w with exec := w.gate e.mask, o := e.rpc })
        else popToLane n (popEntry s e)

/-- A frame's exited lanes noted. -/
def noteExit (s : State) (fr : Nat) (m : Mask) : State :=
  match getFrame s fr with
  | some f => setFrame s fr { f with exited := f.exited ||| m }
  | none => s

/-- The pops of an EXIT (13 R326): a lane is active again, or the warp has left with no entry, with which every lane that is left counts
as exited; entries in the stack area that cannot be read yet are waited for. -/
def finishExit (s : State) : State :=
  let s := popToLane (s.w.stack.length + s.w.spilled + 1) s
  if s.w.exec &&& s.w.alive != 0 then popAll (s.modW fun w => { w with exiting := false })
  else if s.w.owesEntry then s.modW fun w => { w with exiting := true }
  else releaseWarp (noteExit s s.w.frame (~~~ 0))

/-- Every lane of %exec exits (13 R339): NTSTs gathered first, then the pops. -/
def exitLanes (s : State) (m : Mask) : State :=
  let s := performNt s fun _ => true
  let s := writeBackCtx s s.core s.ctx
  let s := noteExit s s.w.frame m
  finishExit (s.modW fun w => { w with exited := w.exited ||| m, exec := w.exec &&& ~~~ m, o := w.iss.next })

end Sys2Proof.Machine
end

