-- ==== Sys2Proof/Machine/Trace.lean ====
section
/-! DEFINITION. The traversal unit: scenes, exact ray tests, hits and hit records (11 R280 to R284). -/
namespace Sys2Proof.Machine

/-! Exact coordinates: a finite FP32 is an integer count of 2^-149; an exact parameter is a fraction. -/

/-- An FP32 as a count of 2^-149, an infinity, or a NaN. -/
inductive Coord where
  | fin (i : Int)
  | inf (neg : Bool)
  | nan
  deriving DecidableEq, Repr

def coordOf (x : Nat) : Coord :=
  match f32.read x with
  | .num neg m e _ => .fin (scaledInt neg m e (-149))
  | .inf neg => .inf neg
  | .nan _ => .nan

/-- A fraction; its denominator is positive. -/
structure Frac where
  n : Int
  d : Nat
  deriving DecidableEq, Repr

def Frac.lt (a b : Frac) : Bool := decide (a.n * b.d < b.n * a.d)

/-- n / d for a nonzero d of either sign. -/
def fracOf (n d : Int) : Frac := if d < 0 then ⟨-n, d.natAbs⟩ else ⟨n, d.natAbs⟩

/-- A fraction rounded once to FP32; zero is +0. -/
def Frac.f32 (x : Frac) : Nat := if x.n = 0 then 0 else (Machine.f32.round .rne false (fvDiv (intVal x.n) (intVal x.d)).1).1

/-- A set of parameters t: its ends, where it has them; empty or not. -/
structure Span where
  lo    : Option Frac
  hi    : Option Frac
  empty : Bool
  deriving DecidableEq, Repr

/-- The larger of two lower ends, the smaller of two upper ends. -/
def maxEnd (a b : Option Frac) : Option Frac :=
  match a, b with
  | some x, some y => some (if x.lt y then y else x)
  | some x, none => some x
  | none, y => y
def minEnd (a b : Option Frac) : Option Frac :=
  match a, b with
  | some x, some y => some (if y.lt x then y else x)
  | some x, none => some x
  | none, y => y

def Span.meet (a b : Span) : Span := ⟨maxEnd a.lo b.lo, minEnd a.hi b.hi, a.empty || b.empty⟩

/-- No parameter is left. -/
def Span.none? (a : Span) : Bool :=
  a.empty || match a.lo, a.hi with
    | some x, some y => y.lt x
    | _, _ => false

/-- The parameters t with lo <= o + t d <= hi on one axis; a bound that is an infinity of its side bounds nothing. -/
def axisSpan (o d : Int) (lo hi : Coord) : Span :=
  let never : Span := ⟨none, none, true⟩
  let bound (c : Coord) (upper : Bool) : Option (Option Int) :=
    match c with
    | .fin i => some (some i)
    | .inf neg => if neg == upper then none else some none
    | .nan => none
  match bound lo false, bound hi true with
  | some l, some h =>
    let wrong := match l, h with
      | some a, some b => decide (b < a)
      | _, _ => false
    if wrong then never
    else if d = 0 then
      if (l.map fun a => decide (a ≤ o)).getD true && (h.map fun b => decide (o ≤ b)).getD true then ⟨none, none, false⟩ else never
    else
      let tl := l.map fun a => fracOf (a - o) d
      let th := h.map fun b => fracOf (b - o) d
      if 0 < d then ⟨tl, th, false⟩ else ⟨th, tl, false⟩
  | _, _ => never

/-- A ray that can hit something (11 R281): origin, direction, and the segment's parameters. -/
structure Ray where
  o    : List Int
  d    : List Int
  span : Span
  deriving DecidableEq, Repr

/-- The ray of eight words; none when it misses everything. An infinite origin or direction names no point of space. -/
def rayOf (xs : List W32) : Option Ray :=
  let c (i : Nat) : Coord := coordOf (xs.getD i 0).toNat
  let fin (i : Nat) : Option Int := match c i with
    | .fin x => some x
    | _ => none
  let o := (List.range 3).filterMap fin
  let d := ([3, 4, 5] : List Nat).filterMap fin
  let stop (i : Nat) (lower : Bool) : Option (Option Frac) := match c i with
    | .fin x => some (some ⟨x, 2 ^ 149⟩)
    | .inf neg => if neg == lower then some none else none
    | .nan => none
  match stop 6 true, stop 7 false with
  | some lo, some hi =>
    let sp : Span := ⟨lo, hi, false⟩
    if o.length = 3 && d.length = 3 && d.any (· != 0) && !sp.none? then some ⟨o, d, sp⟩ else none
  | _, _ => none

/-- The parameters at which a ray is in a box of three minima and three maxima. -/
def boxSpan (r : Ray) (lo hi : Nat → Coord) : Span :=
  (List.range 3).foldl (fun sp i => sp.meet (axisSpan (r.o.getD i 0) (r.d.getD i 0) (lo i) (hi i))) r.span

/-- A hit: its exact parameter, (u, v), ID, and the cell index of a brick. -/
structure Hit where
  t     : Frac
  u     : Frac
  v     : Frac
  id    : Nat
  brick : Bool
  cell  : Nat
  deriving DecidableEq, Repr

/-- The order of hits: least t, then ID, then cell (11 R281). -/
def Hit.before (a b : Hit) : Bool :=
  a.t.lt b.t || (!b.t.lt a.t && (a.id < b.id || (a.id == b.id && a.cell < b.cell)))

def crossProd (a b : List Int) : List Int :=
  let g (x : List Int) (i : Nat) : Int := x.getD i 0
  [g a 1 * g b 2 - g a 2 * g b 1, g a 2 * g b 0 - g a 0 * g b 2, g a 0 * g b 1 - g a 1 * g b 0]
def dotProd (a b : List Int) : Int := (List.range 3).foldl (fun n i => n + a.getD i 0 * b.getD i 0) 0
def minus (a b : List Int) : List Int := (List.range 3).map fun i => a.getD i 0 - b.getD i 0

/-- Whether a parameter lies in a span. -/
def Span.has (sp : Span) (t : Frac) : Bool :=
  !sp.empty && (sp.lo.map fun x => !t.lt x).getD true && (sp.hi.map fun x => !x.lt t).getD true

/-- The exact intersection of a ray with a triangle, on either face (11 R281): u and v are of vertices i1 and i2. -/
def triHit (r : Ray) (p0 p1 p2 : List Int) (id : Nat) : Option Hit :=
  let e1 := minus p1 p0
  let e2 := minus p2 p0
  let p := crossProd r.d e2
  let det := dotProd e1 p
  if det = 0 then none
  else
    let tv := minus r.o p0
    let q := crossProd tv e1
    let u := fracOf (dotProd tv p) det
    let v := fracOf (dotProd r.d q) det
    let t := fracOf (dotProd e2 q) det
    if 0 ≤ u.n && 0 ≤ v.n && u.n + v.n ≤ u.d && r.span.has t then some ⟨t, u, v, id, false, 0⟩ else none

/-! The scene in memory. -/

/-- The bytes of a piece of the scene, as an access of the warp through its traversal engine's translations (03 R68); what faults faults
in the lane that reads it. -/
def sceneBytes (s : State) : List (Nat × Nat) → List Byte → State × Got (List Byte)
  | [], acc => (s, .ok acc)
  | (va, n) :: rest, acc =>
    match translate s s.traverser s.ctx .read (va % 2 ^ 64) n with
    | (s, .error f) => (s, f.got)
    | (s, .ok x) =>
      match readPiece s .default x.pa n with
      | (s, .ok bs) => sceneBytes s rest (acc ++ bs)
      | r => r

def sceneRead (s : State) (va n : Nat) : State × Got (List Byte) := sceneBytes s (piecesOf va n) []

/-- A 32-bit word of a list of bytes. -/
def wordAt (bs : List Byte) (i : Nat) : Nat := leNat ((bs.drop i).take 4)

/-- A scene root (11 R280): ROOT, CLTAB, MNODE. -/
structure Scene where
  root  : Nat
  cltab : Nat
  mnode : Nat
  deriving DecidableEq, Repr

/-- The first words of a cluster's data (11 Table 11-3): NTRI, NVERT, NATTR, ATTR. -/
structure ClusterHead where
  ntri  : Nat
  nvert : Nat
  nattr : Nat
  attr  : Nat
  deriving DecidableEq, Repr

/-- The head of a cluster from its first 32 bytes; none when the cluster is reserved (11 R259). -/
def clusterHead (x : Nat) : Option ClusterHead :=
  if 16 < bitsAt x 16 5 || bitsAt x 21 43 != 0 || bitsAt x 64 2 != 0 || bitsAt x 128 128 != 0 then none
  else some ⟨bitsAt x 0 8 + 1, bitsAt x 8 8 + 1, bitsAt x 16 5, bitsAt x 64 64⟩

/-- What a lane's walk gives: hits, more nodes to visit, or a stop. -/
inductive Visit where
  | ok (hits : List Hit) (more : List Nat)
  | fault (f : PFault)
  | poison (pa : Nat)
  | wait

/-- A 64-bit visibility ID (11 R264). -/
def visId (inst cluster tri : Nat) : Nat := inst * 2 ^ 40 + cluster * 2 ^ 8 + tri

/-- A vertex of a cluster's bytes as exact coordinates, if all are finite. -/
def vertexAt (bs : List Byte) (at_ : Nat) : Option (List Int) :=
  let cs := (List.range 3).map fun i => coordOf (wordAt bs (at_ + 4 * i))
  let xs := cs.filterMap fun c => match c with
    | .fin i => some i
    | _ => none
  if xs.length = 3 then some xs else none

/-- The hits of a triangle leaf's cluster: its vertices and triangles are the bytes after the head. -/
def leafHits (r : Ray) (h : ClusterHead) (inst cluster : Nat) (bs : List Byte) : List Hit :=
  (List.range h.ntri).filterMap fun t =>
    let idx (k : Nat) : Nat := ((bs.getD (16 * h.nvert + 4 * t + k) 0).toNat)
    if (List.range 3).all fun k => idx k < h.nvert then
      match vertexAt bs (16 * idx 0), vertexAt bs (16 * idx 1), vertexAt bs (16 * idx 2) with
      | some a, some b, some c => triHit r a b c (visId inst cluster t)
      | _, _, _ => none
    else none

/-- The hit of a cell of a brick. -/
def cellHit (r : Ray) (org : Nat → Coord) (size : Int) (id i : Nat) : Option Hit :=
  let c (a : Nat) : Nat := i / 8 ^ a % 8
  let edge (a k : Nat) : Coord := match org a with
    | .fin o => .fin (o + size * (c a + k : Nat))
    | x => x
  let sp := boxSpan r (edge · 0) (edge · 1)
  if sp.none? then none else sp.lo.map fun t => ⟨t, ⟨0, 1⟩, ⟨0, 1⟩, id, true, i⟩

/-- A reference that names a node (11 R280). -/
def refNode (ref : Nat) : Bool := bitsAt ref 2 4 == 0 && ref % 4 != 3

/-- One node reference visited (11 R280, R281): a leaf's hits, or the children met that name nodes. -/
def visitNode (s : State) (r : Ray) (ref : Nat) : State × Visit :=
  let va := ref / 64 * 64
  let stop {α : Type} (s : State) (g : Got α) : State × Visit := match g with
    | .fault f => (s, .fault f)
    | .poison p => (s, .poison p)
    | _ => (s, .wait)
  if bitsAt ref 2 4 ≠ 0 then (s, .ok [] [])
  else
    match ref % 4 with
    | 0 =>
      match sceneRead s va 128 with
      | (s, .ok bs) =>
        let at_ (c i : Nat) : Coord := coordOf (wordAt bs (24 * c + 4 * i))
        let kids := (List.range 4).filter fun c => !(boxSpan r (at_ c) (fun i => at_ c (3 + i))).none?
        (s, .ok [] ((kids.map fun c => leNat ((bs.drop (96 + 8 * c)).take 8)).filter refNode))
      | (s, g) => stop s g
    | 1 =>
      match sceneRead s va 64 with
      | (s, .ok bs) =>
        let x := leNat bs
        let data := bitsAt x 0 64
        if bitsAt x 88 8 ≠ 0 || bitsAt x 128 384 ≠ 0 || data % 32 ≠ 0 then (s, .ok [] [])
        else
          match sceneRead s data 32 with
          | (s, .ok hd) =>
            match clusterHead (leNat hd) with
            | none => (s, .ok [] [])
            | some h =>
              match sceneRead s (data + 32) (16 * h.nvert + 4 * h.ntri) with
              | (s, .ok body) =>
                if (List.range h.ntri).any fun t => (body.getD (16 * h.nvert + 4 * t + 3) 0) != 0 then (s, .ok [] [])
                else (s, .ok (leafHits r h (bitsAt x 64 24) (bitsAt x 96 32) body) [])
              | (s, g) => stop s g
          | (s, g) => stop s g
      | (s, g) => stop s g
    | 2 =>
      match sceneRead s va 128 with
      | (s, .ok bs) =>
        let x := leNat bs
        match coordOf (wordAt bs 12) with
        | .fin size =>
          if size ≤ 0 || bitsAt x 152 8 ≠ 0 || bitsAt x 192 320 ≠ 0 then (s, .ok [] [])
          else
            let id := visId (bitsAt x 128 24) (bitsAt x 160 32) 0
            (s, .ok ((List.range 512).filterMap fun i =>
              if bitsAt x (512 + i) 1 = 1 then cellHit r (fun a => coordOf (wordAt bs (4 * a))) size id i else none) [])
        | _ => (s, .ok [] [])
      | (s, g) => stop s g
    | _ => (s, .ok [] [])

/-- What a lane's ray gives: its candidates and the deepest stack it needed, or a stop. -/
inductive Traced where
  | ok (hits : List Hit) (deep : Nat)
  | fault (f : PFault)
  | poison (pa : Nat)
  | wait

/-- A walk from a stack of references to nodes, with as many visits left as `fuel`: the last visit ends it as a miss (11 R281). -/
def walkScene (r : Ray) : Nat → List Nat → State → List Hit → Nat → State × Traced
  | 0, _, s, _, deep => (s, .ok [] deep)
  | _ + 1, [], s, hits, deep => (s, .ok hits deep)
  | n + 1, ref :: rest, s, hits, deep =>
    match visitNode s r ref with
    | (s, .ok more kids) => walkScene r n (kids ++ rest) s (hits ++ more) (max deep (kids.length + rest.length))
    | (s, .fault f) => (s, .fault f)
    | (s, .poison pa) => (s, .poison pa)
    | (s, .wait) => (s, .wait)

/-- The hit taken of the candidates; with ANY, whichever the device takes. -/
def takeHit (s : State) (any : Bool) (hits : List Hit) : State × Option Hit :=
  if any && 1 < hits.length then
    let (i, s) := freeChoice s hits.length
    (s, hits[i]?)
  else (s, hits.foldl (fun (m : Option Hit) h => match m with
    | some x => some (if h.before x then h else x)
    | none => some h) none)

/-- The words that TRACE writes for a lane (11 R282). -/
def hitWords (h : Option Hit) : List Nat :=
  match h with
  | some h => [h.t.f32, h.id % 2 ^ 32, h.id / 2 ^ 32, if h.brick then 0 else h.u.f32, if h.brick then 0 else h.v.f32]
  | none => [f32.infBits, 2 ^ 32 - 1, 2 ^ 32 - 1, 0, 0]

/-- A hit record (11 Table 11-8). -/
def hitRecord (ray par : Nat → Nat) (h : Hit) : List W32 :=
  ((List.range 6).map ray ++ [h.t.f32, h.id % 2 ^ 32, h.id / 2 ^ 32, (if h.brick then 1 else 0) + 2 * h.cell] ++
    (List.range 4).map par ++ [0, 0]).map (BitVec.ofNat 32)

/-- The root of a scene read (11 R280, R276): its reserved bits and its alignment are checked as a descriptor's are. -/
inductive SceneGot where
  | ok (x : Scene)
  | fault (f : LFault)
  | poison (pa : Nat)
  | wait

def getScene (s : State) (va : W64) : State × SceneGot :=
  if va.toNat % 64 ≠ 0 then (s, .fault (lfVa MISALIGNED va.toNat))
  else
    match sceneRead s va.toNat 64 with
    | (s, .ok bs) =>
      let x := leNat bs
      if bitsAt x 144 368 ≠ 0 then (s, .fault (lfVa FORMAT_MISMATCH va.toNat)) else (s, .ok ⟨bitsAt x 0 64, bitsAt x 64 64, bitsAt x 128 16⟩)
    | (s, .fault f) => (s, .fault (lfOfP f))
    | (s, .poison pa) => (s, .poison pa)
    | (s, .wait) => (s, .wait)

/-- One lane traced. -/
def traceLane (s : State) (sc : Scene) (any : Bool) (ray : List W32) : State × Got (Option Hit × Nat) :=
  match rayOf ray with
  | none => (s, .ok (none, 0))
  | some r =>
    match walkScene r (2 ^ 24) ([sc.root].filter refNode) s [] 1 with
    | (s, .ok hits deep) =>
      let (s, h) := takeHit s any hits
      (s, .ok (h, deep))
    | (s, .fault f) => (s, .fault f)
    | (s, .poison pa) => (s, .poison pa)
    | (s, .wait) => (s, .wait)

/-- Where a lane's hit record goes (11 R283): the node, its timer, and its record's class of work. -/
inductive Target5 where
  | none_
  | node (h timer : Nat)
  | fault (f : LFault)
  | poison (pa : Nat)
  | wait

/-- The checks of a lane that would emit a record. -/
def hitTarget (s : State) (sc : Scene) (h : Hit) : State × Target5 :=
  match sceneRead s ((sc.cltab + 16 * bitsAt h.id 8 32) % 2 ^ 64) 16 with
  | (s, .fault f) => (s, .fault (lfOfP f))
  | (s, .poison pa) => (s, .poison pa)
  | (s, .wait) => (s, .wait)
  | (s, .ok bs) =>
    let node := (sc.mnode + bitsAt (leNat bs) 64 16) % 2 ^ 16
    match warpNode s node with
    | (s, .ok e) =>
      if nodeInvalid e || nodeWords e < 16 then (s, .fault ⟨ENGINE_ID, node, 0, 0⟩) else (s, .node node (nodeTimer e))
    | (s, .nothing) => (s, .fault ⟨ENGINE_ID, node, 0, 0⟩)
    | (s, .fault f) => (s, .fault (lfOfP f))
    | (s, .poison pa) => (s, .poison pa)
    | (s, .wait) => (s, .wait)

/-- How TRACE ends: as an access does, or stalled for want of room, or with its stack area full (11 R282). -/
inductive TraceEnd where
  | done (d : Done)
  | stall
  | exhausted (ray : Nat)

/-- The bytes that the wave's rays must spill when the unit's 2,048 entries do not hold them all: which rays are deep at the
same moment is the device's (log 5), so the peak lies between the deepest ray's need and all of them together. -/
def traceSpill (s : State) (deeps : List Nat) : Nat × State :=
  let sum := deeps.foldl (· + ·) 0
  let top := deeps.foldl max 0
  if sum ≤ 2048 then (0, s)
  else
    let (k, s) := freeChoice s (sum - top + 1)
    (1024 * ceilDiv (top + k - 2048) 64, s)

/-- Spilled bytes written from the top of the stack area down; what an entry holds is not given (log 5). -/
def writeSpill : Nat → State → Nat → State × Got Unit
  | 0, s, _ => (s, .ok ())
  | n + 1, s, top =>
    let bs := (List.range 32).map fun i => Config.raySpillByte (s.free + i)
    match vaStore { s with free := s.free + 32 } (top - 32) bs with
    | (s, .ok ()) => writeSpill n s (top - 32)
    | (s, .fault f) => (s, .fault f)
    | (s, .poison p) => (s, .poison p)
    | (s, .wait) => (s, .wait)

/-- Hit records emitted, ascending lanes (11 R282, 12 R304), each with its scene's cluster table for the delivery of attributes. -/
def emitHits (s : State) (cltab : Nat) (ray par : List (List W32)) : List (Nat × Hit × Nat × Nat) → State
  | [] => s
  | (l, h, node, timer) :: rest =>
    let word (xs : List (List W32)) (i : Nat) : Nat := ((xs.getD i []).getD l 0).toNat
    let s := countUp s s.w.frame l
    let s := addRecord s s.w.cluster s.ctx node timer
      ⟨hitRecord (word ray) (word par) h, s.w.frame, l, 2, cltab, 0, s.w.home.qi, s.w.home.prio, s.w.home.cls,
        [(h.u.n, h.u.d), (h.v.n, h.v.d)]⟩
    emitHits s cltab ray par rest

/-- Nodes and how many records each would get. -/
def perNode (xs : List (Nat × Hit × Nat × Nat)) : List (Nat × Nat) :=
  let nodes := (xs.map fun x => x.2.2.1).eraseDups
  nodes.map fun n => (n, (xs.filter fun x => x.2.2.1 == n).length)

/-- Room for the records of an issue over several nodes (12 R297, R304). -/
def hitRoom (s : State) (xs : List (Nat × Hit × Nat × Nat)) : Bool :=
  let k := getCluster s s.w.cluster
  let nodes := perNode xs
  let fresh := (nodes.filter fun n => (findBin k s.ctx n.1).isNone).length
  xs.isEmpty || (k.bins.length + fresh ≤ 64 &&
    binBytes s s.ctx + 64 * xs.length ≤ ((ctxAreas s s.ctx).map (·.1.size)).getD 0 &&
    xs.all fun x => match getFrame s s.w.frame with
      | some f => laneCount f x.1 < 4095
      | none => false)

/-- TRACE (11 R282, R283): every lane traced, then every lane that emits checked, then room, then results and records. -/
def doTrace (s : State) (r : Req) (root : W64) (emit any : Bool) (ray par : List (List W32)) : TraceEnd :=
  if r.lanes = 0 then .done (.ok (deliver s r 5 fun _ => 0))
  else
    match getScene s root with
    | (s, .poison pa) => .done (.poison s pa)
    | (s, .wait) => .done (.wait s)
    | (s, .fault f) =>
      match raisedOnly s ((maskLanes r.lanes).map fun l => (l, f)) with
      | [] => .done (.ok (deliver s r 5 fun _ => 0))
      | fs => .done (faulted s fs)
    | (s, .ok sc) =>
      let one (s : State) (l : Nat) : State × Except LFault (Got (Option Hit × Nat)) :=
        match traceLane s sc any ((List.range 8).map fun i => (ray.getD i []).getD l 0) with
        | (s, .fault f) => (s, .error (lfOfP f))
        | (s, g) => (s, .ok g)
      let (s, oks, bad) := checkLanes one (maskLanes r.lanes) s [] []
      match raisedOnly s bad with
      | f :: fs => .done (faulted s (f :: fs))
      | [] =>
        let hitOf (l : Nat) : Option Hit := match oks.find? (·.1 == l) with
          | some (_, .ok x) => x.1
          | _ => none
        let stop := oks.findSome? fun p => match p.2 with
          | .poison pa => some pa
          | _ => none
        let waits := oks.any fun p => match p.2 with
          | .wait => true
          | _ => false
        let emits := if emit then (maskLanes (r.lanes &&& ~~~ s.w.helpers)).filter fun l => (hitOf l).isSome else []
        match stop, waits with
        | some pa, _ => .done (.poison s pa)
        | none, true => .done (.wait s)
        | none, false =>
          let tgt (s : State) (l : Nat) : State × Except LFault (Target5 × Hit) :=
            match hitOf l with
            | none => (s, .error ⟨ENGINE_ID, 0, 0, 0⟩)
            | some h =>
              match hitTarget s sc h with
              | (s, .fault f) => (s, .error f)
              | (s, t) => (s, .ok (t, h))
          let (s, tgts, badT) := checkLanes tgt emits s [] []
          match badT with
          | f :: fs => .done (faulted s (f :: fs))
          | [] =>
            let stopT := tgts.findSome? fun p => match p.2.1 with
              | .poison pa => some pa
              | _ => none
            let waitT := tgts.any fun p => match p.2.1 with
              | .wait => true
              | _ => false
            let out := tgts.filterMap fun p => match p.2.1 with
              | .node h t => some (p.1, p.2.2, h, t)
              | _ => none
            let (spill, s) := traceSpill s (oks.map fun p => match p.2 with
              | .ok x => x.2
              | _ => 0)
            let room := s.w.spillRoom - 32 * s.w.spilled
            match stopT, waitT with
            | some pa, _ => .done (.poison s pa)
            | none, true => .done (.wait s)
            | none, false =>
              if room < spill then .exhausted (room / 1024 * 1024)
              else if !hitRoom s out then .stall
              else
                match writeSpill (spill / 32) s (s.w.stackBase.toNat + s.w.stackSize) with
                | (s, .fault f) => .done (scalarFault s (lfOfP f))
                | (s, .poison pa) => .done (.poison s pa)
                | (s, _) =>
                  let s := emitHits s sc.cltab ray par out
                  let s := if out.isEmpty then s else writeBackCtx s s.core s.ctx
                  .done (.ok (deliver (dropRemotes s s.w.id) r 5 fun l =>
                    if (oks.any fun p => p.1 == l) then joinBits ((hitWords (hitOf l)).map fun x => (32, x)) else 0))

end Sys2Proof.Machine
end

