-- ==== Sys2Proof/Machine/Logged.lean ====
section
/-! DEFINITION. Logged instructions: how one is issued, performed, delayed, faulted and issued again (15 R365 to R367, 06 R134).
The access of an instruction is performed within its step, unless the host or a peer still owes bytes. -/
namespace Sys2Proof.Machine

/-! WAITMEM (06 R133, R134). -/

/-- What a poll of memory finds. -/
inductive Poll where
  | met (s : State)
  | unmet (s : State)
  | fault (s : State) (f : LFault)
  | poison (s : State) (pa : Nat)
  | wait (s : State)

/-- The comparison of WAITMEM (06 Table 06-2) at a width in bits. -/
def waitCond (n : Nat) (cond : BitVec 3) (x v : Nat) : Bool :=
  match cond.toNat with
  | 0 => x == v
  | 1 => x != v
  | 2 => v ≤ x
  | 3 => x < v
  | 4 => decide (signed n v ≤ signed n x)
  | _ => decide (signed n x < signed n v)

/-- One turn of the loop of R134: the core's own bytes go home, and the word is read there. -/
def pollMem (s : State) (va : W64) (size : Nat) (cond : BitVec 3) (v : W64) : Poll :=
  match checkAligned .read size va.toNat s with
  | (s, .error f) => .fault s f
  | (s, .ok x) =>
    match homePiece (homeFirst s x.pa size) x.pa size with
    | (s, .ok bs) =>
      let s := dropRemotes s s.w.id
      if waitCond (8 * size) cond (leNat bs) (v.toNat % 2 ^ (8 * size)) then .met s else .unmet s
    | (s, .poison pa) => .poison s pa
    | (s, _) => .wait s

/-- WAITMEM: satisfied, with a generation bump for ACQ, or blocked for at most 2,048 fabric cycles before it looks again. -/
def doWaitmem (s : State) (r : Req) (va : W64) (size : Nat) (cond : BitVec 3) (v : W64) (acq : Bool) : Done :=
  match pollMem s va size cond v with
  | .met s => .ok (if acq then genBump s s.core else s)
  | .unmet s => .ok (s.modW fun w => { w with wake := .waitmem r (s.clock + 2048) })
  | .fault s f => scalarFault s f
  | .poison s pa => .poison s pa
  | .wait s => .wait s

/-! Performing a logged access. -/

/-- Bytes of an element in a tile run (06 R143). -/
def runSize (ty : Ty) : Nat := if ty == .f16 || ty == .bf16 then 2 else 4

/-- TLDG and TSTG handed to memory: what the operands alone decide is checked, and the rest is left to the transfer's own
event (06 R123 steps 4 and 5, R143, R145). -/
def startTile (s : State) (r : Req) (tile ofs : Nat) (ty : Ty) (b0 n : W64) : Done :=
  if 8192 < 32 * ofs + n.toNat * runSize ty then scalarFault s ⟨LAYOUT_BOUNDS, n.toNat % 2 ^ 32, ofs, tile⟩
  else if b0.toNat % 32 ≠ 0 then scalarFault s (lfVa MISALIGNED b0.toNat)
  else .ok (s.modW fun w => { w with xfers := w.xfers ++ [r] })

/-- A logged access performed. A tile transfer is finished by its own event (06 R145). -/
def performReq (s : State) (r : Req) : TraceEnd :=
  match r.op with
  | .load va size hint => .done (doLoad s r va size hint)
  | .store va size data hint nt => .done (doStore s r va size data hint nt)
  | .scratchLoad off size => .done (doScratchLoad s r off size)
  | .scratchStore off size data => .done (doScratchStore s r off size data)
  | .uload va size => .done (doUload s r va size)
  | .ustore va size data => .done (doUstore s va size data)
  | .loadElem b0 e hint => .done (doLoadElem s r b0 e hint)
  | .storeElem b0 e data hint => .done (doStoreElem s r b0 e data hint)
  | .atomic op va size sgn d c ord _ => .done (doAtomic s r op va size sgn d c ord)
  | .ldt h coord => .done (doLdt s r h coord)
  | .stt h coord data rnd seed => .done (doStt s r h coord data rnd seed)
  | .lhbind h src => .done (doLhbind s h src)
  | .lhinv h => .done (doLhinv s h)
  | .lhq h k => .done (doLhq s r h k)
  | .tile _ tile ofs ty _ b0 _ n _ _ => .done (startTile s r tile ofs ty b0 n)
  | .waitmem va size cond v acq => .done (doWaitmem s r va size cond v acq)
  | .sample form desc addr near u v l0 l1 l2 l3 => .done (doSample s r form desc addr near u v l0 l1 l2 l3)
  | .imgld desc lvl x y => .done (doImgld s r desc lvl x y)
  | .imgst desc lvl x y data => .done (doImgst s r desc lvl x y data)
  | .trace root emit any ray par => doTrace s r root emit any ray par

/-- The values of the handler queue when a ray stack finds no room (15 R375). -/
def spillVals (w : Warp) (ray : Nat) : List Nat := [w.stack.length + w.spilled, ray, 1024]

/-- Accesses that wait join those the warp already waits for. -/
def waitRemote (s : State) (r : Req) : State :=
  s.modW fun w => { w with wake := match w.wake with
    | .remote rs => .remote (rs ++ [r])
    | _ => .remote [r] }

/-- A fault of a logged access: it stays in the log, and the warp takes the trap. ENGINE_ID re-executes (15 Table 15-3). -/
def logFault (s : State) (r : Req) (fs : List (Nat × LFault)) : State :=
  let t := faultTrap r fs
  let t := if t.cause.toNat == ENGINE_ID then { t with mode := 0, log := 0 } else t
  takeTrap (s.modW fun w => { w with log := if t.mode = 1 then [[r]] else w.log }) t

/-- A logged instruction issued: performed, or faulted, or waiting; or stalled or stopped by poison, its issue undone. Of an offset
whose accesses are held, it is only noted (15 R367). -/
def issueReq (s : State) (r : Req) : State :=
  let s := s.modW fun w => { w with iss := { w.iss with reqs := w.iss.reqs ++ [r] } }
  if s.w.iss.hold then advance s
  else
    match performReq s r with
    | .done (.ok s) => advance s
    | .done (.fault s fs) => logFault s r fs
    | .done (.poison s pa) => stallPoison s pa r.pc
    | .done (.wait s) => advance (waitRemote s r)
    | .stall => stall s
    | .exhausted n => raise0 s SPILL_EXHAUSTED (spillVals s.w n)

/-- Traps of one offset taken as one: the cause of the lowest lane, every lane, and each lane's own values (03 R70, 06 R123,
10 R248). -/
def mergeTraps (t : Trap) (ts : List Trap) : Trap :=
  let all := t :: ts
  let first := ts.foldl (fun a b => if lowLane b.mask < lowLane a.mask then b else a) t
  let n := all.foldl (fun n x => max n x.hq.length) 0
  let val (i l : Nat) : W32 := match all.find? fun x => hasLane x.mask l with
    | some x => (x.hq.getD i []).getD l 0
    | none => 0
  if ts.isEmpty then t
  else { first with mask := all.foldl (fun m x => m ||| x.mask) 0, hq := (List.range n).map fun i => (List.range 128).map (val i) }

/-- How the re-issue of the logged accesses of an offset ends. -/
inductive Reissued where
  | ok (s : State)
  | faults (t : Trap) (ts : List Trap)
  | poison (pa : Nat) (pc : W64)
  | stall
  | exhausted (r : Req) (vals : List Nat)

/-- Logged accesses performed in order; `ts` are the faults met so far. -/
def performAll : List Req → State → List Trap → Reissued
  | [], s, [] => .ok s
  | [], _, t :: ts => .faults t ts
  | r :: rs, s, ts =>
    match performReq s r with
    | .done (.ok s) => performAll rs s ts
    | .done (.fault s fs) => performAll rs s (ts ++ [faultTrap r fs])
    | .done (.poison _ pa) => .poison pa r.pc
    | .done (.wait s) => performAll rs (waitRemote s r) ts
    | .stall => .stall
    | .exhausted n => .exhausted r (spillVals s.w n)

/-- A trap of a re-issue that has the instruction executed again: the log lets it go, and the queue is as before its push
(15 Table 15-3, R364). -/
def reexecute (s : State) (r : Req) (t : Trap) : State :=
  takeTrap (s.modW fun w => { w with log := [], queue := w.logQueue })
    { t with resume := r.at_, rpc := s.w.iss.next, mode := 0, log := 0 }

/-- The logged accesses of an offset issued again (15 R367): all of them performed, or, when one faults, none, and the trap is taken
again with all of them in the log. -/
def reissue (s : State) (rs : List Req) : State :=
  match performAll rs s [] with
  | .ok s => s
  | .faults t ts =>
    let t := mergeTraps t ts
    match rs with
    | r :: _ =>
      if t.cause.toNat == ENGINE_ID then reexecute s r t
      else takeTrap (s.modW fun w => { w with log := [rs] }) { t with rpc := s.w.iss.next }
    | [] => s
  | .poison pa pc => stallPoison s pa pc
  | .stall => stall s
  | .exhausted r vals => reexecute s r ⟨BitVec.ofNat 8 SPILL_EXHAUSTED, r.pc, 1, r.at_, s.w.iss.next, 0, 0, vals.map fun x => [BitVec.ofNat 32 x]⟩

/-- The registers that a destination names, of an access. -/
def destRegs (op : MemOp) : Dst → List Nat
  | .vec n => (List.range op.words).map (n.toNat + ·)
  | _ => []

/-- The access of the present issue, with the slots that it reserved. -/
def mkReq (s : State) (op : MemOp) (dst : Dst) (pushes : Bool) (slots : List (Nat × Nat × Nat)) : Req :=
  ⟨op, s.lanes, s.w.iss.pc, s.w.iss.words, s.w.o, s.w.iss.next, dst, pushes && !s.w.isSeq, slots⟩

/-- A logged instruction noted: the queue that it found, the entry that it pushes, and the channel slots that it reserves. -/
def noted (s : State) (op : MemOp) (dst : Dst) (pushes tr : Bool) : State × List (Nat × Nat × Nat) :=
  let s := if s.w.handler then s else s.modW fun w => { w with logQueue := w.queue }
  reserveSlots (if pushes then pushQ s Vec.zero tr else s) (destRegs op dst) []

/-- A logged instruction whose operands passed: it is noted, then its access performed. -/
def logged (s : State) (op : MemOp) (dst : Dst) (pushes tr : Bool) : State :=
  let (s, slots) := noted s op dst pushes tr
  issueReq s (mkReq s op dst pushes slots)

/-! Events. -/

/-- The answers of every remote byte that a warp waits for have come, and its accesses can be performed. -/
def remoteReady (s : State) (rs : List Req) : Bool :=
  rs.all fun r => match performReq s r with
    | .done (.wait _) => false
    | .stall => false
    | _ => true

/-- The end of an access performed by an event: poison stops the context, what stalled waits on, and else the pop check is made. -/
def endReturn (s t : State) : State :=
  match t.w.iss.poison with
  | some (pa, pc) => poisonStop s s.ctx pa pc
  | none => if t.w.iss.stalled then s else popAll t

/-- LOAD_RETURN (07 R162, 15 Table 15-4): a warp's remote accesses are performed with the bytes that have come. -/
def execLoadReturn (warp : Nat) (s : State) : Out := .next <|
  match getWarp s warp with
  | some w =>
    match w.wake with
    | .remote rs =>
      let s := focus s warp
      if remoteReady s rs then endReturn s (reissue (s.modW fun w => { w with wake := .ready, iss := { Issue.idle with next := w.o } }) rs) else s
    | _ => s
  | none => s

/-- WAITMEM_RECHECK (06 R134): when its wait has passed, or when the word now meets the condition. -/
def execWaitmemRecheck (warp : Nat) (s : State) : Out := .next <|
  match getWarp s warp with
  | some w =>
    match w.wake with
    | .waitmem r again =>
      let s0 := s
      let s := focus s warp
      match r.op with
      | .waitmem va size cond v acq =>
        match pollMem s va size cond v with
        | .met s => (if acq then genBump s s.core else s).modW fun w => { w with wake := .ready }
        | .unmet s => if again ≤ s0.clock then s.modW fun w => { w with wake := .waitmem r (s.clock + 2048) } else s0
        | .fault s f =>
          if f.cause = 0 then poisonStop s s.ctx (f.q2 * 2 ^ 32 + f.q3) r.pc
          else
            let t := s.modW fun w => { w with wake := .ready, log := [[r]], iss := { Issue.idle with next := w.o } }
            endReturn s (takeTrap t { faultTrap r [(0, f)] with rpc := s.w.o })
        | .poison s pa => poisonStop s s.ctx pa r.pc
        | .wait s => s
      | _ => s0
    | _ => s
  | none => s

/-- WAITMEM from a scalar register (06 R133). -/
def waitmemReq (s : State) (v : W64) (w64 acq : Bool) (cond : BitVec 3) (sa : BitVec 5) : State :=
  logged s (.waitmem (s.w.sreg sa.toNat) (if w64 then 8 else 4) cond v acq) .discard false false

def execWaitmem (sv : BitVec 6) (w64 acq : Bool) (cond : BitVec 3) (sa : BitVec 5) (s : State) : Out := .next <|
  waitmemReq s (s.w.sreg sv.toNat) w64 acq cond sa

/-- WAITMEM with a literal (06 R133). -/
def execWaitmemLit (lit : W64) (w64 acq : Bool) (cond : BitVec 3) (sa : BitVec 5) (s : State) : Out := .next <|
  waitmemReq s lit w64 acq cond sa

/-- RTT (15 R374). -/
def execRtt (skip : Bool) (s : State) : Out := .next <| returnFromTrap reissue skip s

/-! Major LDST (06 R125 to R131). -/

/-- Registers that an access of a size names (06 R125). -/
def sizeRegs (z : Size) : Nat := max 1 (sizeBytes z / 4)

/-- A value for each of the 128 lanes. -/
def perLane {α : Type} (f : Nat → α) : List α := (List.range 128).map f

/-- Vector addresses (06 R120). -/
def addrVec (w : Warp) (lit : Option W64) (adr : Src) (base : BitVec 4) (scale : Nat) : List W64 :=
  perLane fun l => w.sreg base.toNat + BitVec.ofNat 64 (w.opnd .n32 false none l adr * scale) + lit.getD 0

/-- Pair addresses (06 R120). -/
def addrPair (w : Warp) (lit : Option W64) (adr : Src) : List W64 :=
  perLane fun l => BitVec.ofNat 64 (w.opnd .n64 true none l adr) + lit.getD 0

/-- The uniform address (06 R120). -/
def addrUni (w : Warp) (lit : Option W64) (adr : Src) (base : BitVec 4) : W64 :=
  w.sreg base.toNat + BitVec.ofNat 64 (w.opnd .n64 true none 0 adr) + lit.getD 0

/-- The value of a run of registers, or of one operand, in a lane. -/
def dataOf (w : Warp) (src : Src) (regs l : Nat) : Nat :=
  match src with
  | .vec n => joinBits ((List.range regs).map fun i => (32, ((w.srcV (n.toNat + i)).lane l).toNat))
  | x => w.opnd .b32 false none l x

/-- A load of the LDST major. -/
def loadForm (m : Load) (adrRegs : Nat) (op : Warp → MemOp) (s : State) : State :=
  match prep s [(m.adr, adrRegs)] [(m.dst, sizeRegs m.size)] with
  | .stop s => s
  | .go s => logged s (op s.w) m.dst true false

/-- A store of the LDST major. -/
def storeForm (m : Store) (adrRegs : Nat) (op : Warp → List Nat → MemOp) (s : State) : State :=
  match prep s [(m.adr, adrRegs), (m.src, sizeRegs m.size)] [] with
  | .stop s => s
  | .go s => logged s (op s.w (perLane (dataOf s.w m.src (sizeRegs m.size)))) .discard false false

def execLd (m : Load) (s : State) : Out := .next <|
  loadForm m 1 (fun w => .load (addrVec w m.lit m.adr m.base (sizeBytes m.size)) (sizeBytes m.size) m.hint) s
def execSt (m : Store) (s : State) : Out := .next <|
  storeForm m 1 (fun w d => .store (addrVec w m.lit m.adr m.base (sizeBytes m.size)) (sizeBytes m.size) d m.hint false) s

/-- B0 of an element path: the base and the literal (06 R128). -/
def elemBase (w : Warp) (lit : Option W64) (base : BitVec 4) : W64 := w.sreg base.toNat + lit.getD 0

def execLde (m : Load) (s : State) : Out := .next <|
  loadForm m 1 (fun w => .loadElem (elemBase w m.lit m.base) (w.opndV .n32 none m.adr) m.hint) s
def execSte (m : Store) (s : State) : Out := .next <|
  storeForm m 1 (fun w d => .storeElem (elemBase w m.lit m.base) (w.opndV .n32 none m.adr) (d.map (BitVec.ofNat 32)) m.hint) s
def execLds (m : Load) (s : State) : Out := .next <|
  loadForm m 1 (fun w => .scratchLoad (addrVec w m.lit m.adr m.base (sizeBytes m.size)) (sizeBytes m.size)) s
def execSts (m : Store) (s : State) : Out := .next <|
  storeForm m 1 (fun w d => .scratchStore (addrVec w m.lit m.adr m.base (sizeBytes m.size)) (sizeBytes m.size) d) s

/-- LDU: once, on scalars (06 R126). -/
def execLdu (m : Load) (s : State) : Out := .next <|
  logged s (.uload (addrUni s.w m.lit m.adr m.base) (sizeBytes m.size)) m.dst false false
/-- STU: once, on scalars (06 R126). -/
def execStu (m : Store) (s : State) : Out := .next <|
  logged s (.ustore (addrUni s.w m.lit m.adr m.base) (sizeBytes m.size) (s.w.opnd .n64 true none 0 m.src)) .discard false false
def execNtst (m : Store) (s : State) : Out := .next <|
  storeForm m 1 (fun w d => .store (addrVec w m.lit m.adr m.base (sizeBytes m.size)) (sizeBytes m.size) d .default true) s
def execLd64 (m : Load) (s : State) : Out := .next <|
  loadForm m 2 (fun w => .load (addrPair w m.lit m.adr) (sizeBytes m.size) m.hint) s
def execSt64 (m : Store) (s : State) : Out := .next <|
  storeForm m 2 (fun w d => .store (addrPair w m.lit m.adr) (sizeBytes m.size) d m.hint false) s

/-- The lines of a list of addresses brought into L1, and with the keep hint into their home slices; an address that would fault is
dropped (06 R130). -/
def prefetch (hint : Hint) : List W64 → State → State
  | [], s => s
  | va :: vas, s =>
    match translatePrefetch s s.walker s.ctx .read va.toNat with
    | (s, .error _) => prefetch hint vas s
    | (s, .ok x) =>
      let s := if hint = .keep && region x.pa < 2 then l2Access s s.w.home.cls .keep (x.pa / 128) 0 else s
      prefetch hint vas (if region x.pa < 2 then (openLine s s.core s.ctx s.w.home.cls hint x.pa).1 else s)

/-- PRF (06 R130). -/
def execPrf (lit : Option W64) (adr : Src) (base : BitVec 4) (hint : Hint) (s : State) : Out := .next <|
  match prep s [(adr, 1)] [] with
  | .stop s => s
  | .go s => advance (prefetch hint ((maskLanes s.lanes).map fun l => (addrVec s.w lit adr base 1).getD l 0) s)

/-! Major ATOM (06 R135 to R137). -/

/-- An atomic of either form: `sgn` is the comparison of its base form. -/
def atomForm (op : AOp) (a : Atom) (s : State) : State :=
  match a with
  | .base lit adr src double sb ord =>
    let size := if double then 8 else 4
    match prep s [(adr, 1), (src, size / 4)] [] with
    | .stop s => s
    | .go s =>
      logged s (.atomic op (addrVec s.w lit adr sb size) size true (perLane (dataOf s.w src (size / 4))) (perLane fun _ => 0) ord false)
        .discard false false
  | .ext a b c d ty sb ord tr =>
    let double := ty == .i64 || ty == .n64
    let size := if double then 8 else 4
    match prep s [(a, 1), (b, size / 4), (c, size / 4)] [(d, size / 4)] with
    | .stop s => s
    | .go s =>
      let val (x : Src) := perLane fun l => s.w.opnd ty double none l x
      let returns := d != .discard
      logged s (.atomic op (addrVec s.w none a sb size) size (ty == .i32 || ty == .i64) (val b) (val c) ord returns) d returns tr

def execAadd (a : Atom) (s : State) : Out := .next <| atomForm .add a s
def execAmin (a : Atom) (s : State) : Out := .next <| atomForm .min a s
def execAmax (a : Atom) (s : State) : Out := .next <| atomForm .max a s
def execAand (a : Atom) (s : State) : Out := .next <| atomForm .and a s
def execAor (a : Atom) (s : State) : Out := .next <| atomForm .or a s
def execAxor (a : Atom) (s : State) : Out := .next <| atomForm .xor a s
def execAxch (a : Atom) (s : State) : Out := .next <| atomForm .xch a s
def execAcas (a : Atom) (s : State) : Out := .next <| atomForm .cas a s
def execAfadd (a : Atom) (s : State) : Out := .next <| atomForm .fadd a s
def execAinc (a : Atom) (s : State) : Out := .next <| atomForm .inc a s

/-! Major LAYOUT (06 R142, R408). -/

/-- The five coordinates that an operand gives, those that do not exist being absent (06 R408); a coordinate d ≥ 1 reads the register
itself, whatever channel it belongs to (log 99). -/
def coords (w : Warp) (c : Src) : List (Option (List W32)) :=
  (List.range 5).map fun d =>
    match c with
    | .vec n => if d = 0 then some (w.srcV n.toNat).l else if n.toNat + d < min 512 w.v.length then some (w.vreg (n.toNat + d)).l else none
    | .queue n => if n.toNat + d < w.activeQueue.length then some (w.activeQueue.getD (n.toNat + d) ⟨Vec.zero, false⟩).v.l else none
    | .sca n => if n.toNat + d < 64 then some (List.replicate 128 ((w.sreg (n.toNat + d)).setWidth 32)) else none
    | x => if d = 0 then some (w.opndV .b32 none x) else none

/-- The queue entries among the coordinates, which must not be transient (07 R154). -/
def coordSrcs (w : Warp) (c : Src) : List (Src × Nat) :=
  match c with
  | .queue n => ((List.range 5).filter fun d => n.toNat + d < w.activeQueue.length).map fun d => (.queue (n + BitVec.ofNat 4 d), 1)
  | x => [(x, 1)]

def execLdt (lit : Option W64) (h c : Src) (d : Dst) (tr : Bool) (s : State) : Out := .next <|
  match prep s ((h, 1) :: coordSrcs s.w c) [(d, 1)] with
  | .stop s => s
  | .go s => logged s (.ldt (s.w.opndV .b32 lit h) (coords s.w c)) d (d != .discard) tr

def execStt (lit : Option W64) (h c src : Src) (rnd : Rnd) (_tr : Bool) (s : State) : Out := .next <|
  match prep s ((h, 1) :: (src, 1) :: coordSrcs s.w c) [] with
  | .stop s => s
  | .go s => 
    let draw : Seed := { s.w.seed with draw := s.w.drawIndex }
    logged (drawIf s rnd (s.lanes != 0)) (.stt (s.w.opndV .b32 lit h) (coords s.w c) (s.w.opndV .b32 lit src) (fixedRnd s.w rnd) draw)
      .discard false false

def execLhbind (lit : Option W64) (h src : Src) (_tr : Bool) (s : State) : Out := .next <|
  logged s (.lhbind (BitVec.ofNat 32 (handleBits s lit h)) (s.w.opndS lit src)) .discard false false
where
  /-- A handle; bits above 31 of a scalar do not reach it. -/
  handleBits (s : State) (lit : Option W64) (h : Src) : Nat := s.w.asUniform.opnd .b32 false lit 0 h

def execLhinv (lit : Option W64) (h : Src) (_tr : Bool) (s : State) : Out := .next <|
  logged s (.lhinv (BitVec.ofNat 32 (s.w.asUniform.opnd .b32 false lit 0 h))) .discard false false

def execLhq (lit : Option W64) (h i : Src) (d : Dst) (tr : Bool) (s : State) : Out := .next <|
  match prep s [(h, 1), (i, 1)] [(d, 1)] with
  | .stop s => s
  | .go s => logged s (.lhq (s.w.opndV .b32 lit h) (s.w.opndV .b32 lit i)) d (d != .discard) tr

/-! Major GFX (11 R273 to R284). -/

/-- The minors of SAMPLE: `l` gives the level of detail or the four gradients. -/
def sampleForm (m : Samp) (form : Nat) (more : List (Src × Nat)) (l : Warp → Nat → List W32) (s : State) : State :=
  match prep s ([(m.u, 1), (m.v, 1)] ++ more) [(.vec m.d, 4)] with
  | .stop s => s
  | .go s =>
    let w := s.w
    logged s (.sample form (w.sreg m.si.toNat) m.addr m.near (w.opndV .f32 m.lit m.u) (w.opndV .f32 m.lit m.v) (l w 0) (l w 1) (l w 2) (l w 3))
      (.vec m.d) true m.tr

def execSample (m : Samp) (s : State) : Out := .next <| sampleForm m 0 [] (fun _ _ => []) s
def execSamplel (m : Samp) (lod : Src) (s : State) : Out := .next <|
  sampleForm m 1 [(lod, 1)] (fun w i => if i = 0 then w.opndV .f32 m.lit lod else []) s
def execSampleg (m : Samp) (vg : BitVec 9) (s : State) : Out := .next <|
  sampleForm m 2 [(.vec vg, 4)] (fun w i => (w.srcV (vg.toNat + i)).l) s

def execImgld (lit : Option W64) (si : BitVec 6) (lvl : BitVec 4) (x y : Src) (d : Dst) (tr : Bool) (s : State) : Out := .next <|
  match prep s [(x, 1), (y, 1)] [(d, 1)] with
  | .stop s => s
  | .go s => logged s (.imgld (s.w.sreg si.toNat) lvl.toNat (s.w.opndV .b32 lit x) (s.w.opndV .b32 lit y)) d true tr

def execImgst (lit : Option W64) (si : BitVec 6) (lvl : BitVec 4) (x y src : Src) (_tr : Bool) (s : State) : Out := .next <|
  match prep s [(x, 1), (y, 1), (src, 1)] [] with
  | .stop s => s
  | .go s =>
    logged s (.imgst (s.w.sreg si.toNat) lvl.toNat (s.w.opndV .b32 lit x) (s.w.opndV .b32 lit y) (s.w.opndV .b32 lit src)) .discard false false

/-- TRACE (11 R282). -/
def execTrace (_lit : Option W64) (sr : BitVec 6) (emit any : Bool) (vr vp : BitVec 9) (vd : Option (BitVec 9)) (tr : Bool) (s : State) : Out :=
  .next <|
  let d : Dst := match vd with
    | some n => .vec n
    | none => .discard
  match prep s ((.vec vr, 8) :: if emit then [(.vec vp, 4)] else []) [(d, 5)] with
  | .stop s => s
  | .go s =>
    let regs (n : BitVec 9) (k : Nat) : List (List W32) := (List.range k).map fun i => (s.w.srcV (n.toNat + i)).l
    logged s (.trace (s.w.sreg sr.toNat) emit any (regs vr 8) (if emit then regs vp 4 else [])) d (d != .discard) tr

/-- HITRD (11 R284). -/
def execHitrd (lit : Option W64) (x : Src) (d : Dst) (tr : Bool) (s : State) : Out := .next <|
  match prep s [(x, 1)] [(d, 1)] with
  | .stop s => s
  | .go s =>
    let i := s.w.opndV .b32 lit x
    advance (putResult s d tr [Vec.ofFn fun l =>
      if hasLane s.lanes l then (s.w.hits.getD l []).getD ((i.getD l 0).toNat % 16) 0 else 0])

end Sys2Proof.Machine
end

