-- ==== Sys2Proof/Machine/Sys.lean ====
section
/-! DEFINITION. Major SYS but for RTT and WAITMEM: 02 R40, 13 R339, R340, 15 R372, R373, 14 R349, R356, 06 R132, 07 R164 to R168. -/
namespace Sys2Proof.Machine

/-- NOP (02 R40). -/
def execNop (s : State) : Out := .next <| advance s

/-- EXIT (13 R339): in a sequencer it ends the run (09 R205). -/
def execExit (s : State) : Out := .next <|
  if s.w.isSeq then (advance s).modW fun w => { w with exited := ~~~ 0 }
  else if s.allLanes = 0 then advance s
  else exitLanes s s.allLanes

/-- BRK (15 R372). -/
def execBrk (code : BitVec 16) (s : State) : Out := .next <|
  if s.allLanes = 0 then advance s else takeTrap s (mkTrap s BREAKPOINT 2 s.allLanes [[code.setWidth 32]])

/-- TRAP (15 R373). -/
def execTrap (code : BitVec 16) (s : State) : Out := .next <|
  takeTrap s (mkTrap s TRAP_INSTRUCTION 2 s.allLanes [[code.setWidth 32]])

/-- YIELD (14 R349): CYC core cycles of the lane group, counted in fifths; one more while it lasts. -/
def execYield (cyc : BitVec 10) (s : State) : Out := .next <|
  advance ((stampW s).modW fun w => { w with readyFor := 0, yieldLeft := if cyc = 0 then 0 else 5 * cyc.toNat + 1 })

/-- YIELD_EXPIRY (14 R349): the cycles have passed. -/
def execYieldExpiry (warp : Nat) (s : State) : Out := .next <|
  modWarp s warp fun w => if w.yieldLeft = 1 then { w with yieldLeft := 0 } else w

/-- A line of code held by a cluster's instruction cache (14 R350): 256 KiB are 2,048 lines (01 Table 01-3), and which one a fill
replaces is the device's choice (log 81). -/
def fillIcache (s : State) (cl ctx line : Nat) : State :=
  let k := getCluster s cl
  if k.icache.contains (ctx, line) then s
  else
    let (pick, s) := if k.icache.length < 2048 then (0, s) else freeChoice s 2048
    setCluster s cl { k with icache := fillTo k.icache 2048 pick (ctx, line) }

/-- The lines of a prefetch whose translation would not fault. -/
def fillCode (s : State) (va : Nat) : Nat → State
  | 0 => s
  | n + 1 =>
    let s := fillCode s va n
    let a := (va / 128 + n) * 128
    match translatePrefetch s s.walker s.ctx .fetch a with
    | (s, .ok _) => fillIcache s s.w.cluster s.ctx (a / 128)
    | (s, .error _) => s

/-- ICPF (13 R340). -/
def execIcpf (lines : BitVec 4) (d : BitVec 15) (s : State) : Out := .next <|
  advance (fillCode s (s.w.iss.pc + 4 * d.signExtend 64).toNat (lines.toNat + 1))

/-! Special registers (07 Table 07-1, R164, R165). -/

/-- The mask that the lane-dependent special registers read: the interrupted one in a handler (07 R164). -/
def Warp.readMask (w : Warp) : Mask := if w.handler then w.trapExec &&& ~~~ w.exited else w.exec

/-- %plane: the plane that executes, or in a handler that of the lowest lane of the mask, or of the lowest lane left. -/
def readPlane (w : Warp) : Nat :=
  if w.handler then w.planeOf (if w.readMask = 0 then lowLane w.alive else lowLane w.readMask) else w.iss.plane

/-- %lease (14 Table 14-3). -/
def leaseWord (l : Lease) : Nat := joinBits [(11, l.left), (2, if l.left = 0 then 0 else l.level), (1, if l.left = 0 then 0 else l.paused.toNat)]

/-- A counter of the cluster's matrix set as the warp's context sees it (09 R202). -/
def setCounter (s : State) (f : Cluster → W32) : Nat :=
  let k := getCluster s s.w.cluster
  if k.owner == some s.ctx then (f k).toNat else 0

/-- The value of a special register (07 Table 07-1). In a sequencer %exec, %lane, %plane and %trapmask read zero, and %core, for which
it has no core of its own, reads the cluster's core of local index 0 (log 8). -/
def readSpecial (s : State) (n : Nat) : Nat :=
  let w := s.w
  let sq := w.isSeq
  match n with
  | 0 => if sq then 0 else w.readMask.toNat
  | 1 => w.wid.toNat + (if sq || w.readMask = 0 then 0 else lowLane w.readMask)
  | 2 => w.role.toNat
  | 3 => if sq then 0 else lowLane w.readMask
  | 4 => if sq then 0 else readPlane w
  | 5 => joinBits [(4, w.home.index), (6, w.home.slot)]
  | 6 => w.coreNo
  | 7 => w.cluster
  | 8 => towerOfCluster w.cluster
  | 9 => w.fp.flags.toNat
  | 10 => joinBits [(3, w.fp.rm.toNat), (1, w.fp.ftz.toNat)]
  | 11 => w.slen
  | 12 => joinBits [(16, w.seed.a.toNat), (16, w.seed.b.toNat), (16, w.seed.ibase.toNat), (16, w.seed.draw.toNat)]
  | 13 => w.trapcause.toNat
  | 14 => w.trapaddr.toNat
  | 15 => if sq then 0 else w.trapmask.toNat
  | 16 => w.link.toNat
  | 17 => w.frameVA.toNat
  | 18 => setCounter s (·.batch)
  | 19 => setCounter s (·.feed)
  | 20 => (getCore s w.coreNo).gen.toNat
  | 21 => s.clock % 2 ^ 64
  | 22 => w.slip.toNat
  | 23 => leaseWord w.lease
  | _ => 0

/-- A special register of 128 bits. -/
def specialWide (n : Nat) : Bool := n == 0 || n == 15

/-- SRD (07 R164). -/
def execSrd (half : BitVec 2) (spr : BitVec 5) (sd : BitVec 6) (s : State) : Out := .next <|
  let x := readSpecial s spr.toNat
  let lo := BitVec.ofNat 64 x
  let hi := BitVec.ofNat 64 (x / 2 ^ 64)
  advance (
    if half = 2 then setS s sd.toNat hi
    else if half = 0 && specialWide spr.toNat then setS (setS s sd.toNat lo) (sd.toNat + 1) hi
    else setS s sd.toNat lo)

/-- The halves of a mask that a write names replaced. -/
def putHalves (old : Mask) (half : BitVec 2) (x : Nat) : Mask :=
  match half.toNat with
  | 1 => BitVec.ofNat 128 (old.toNat / 2 ^ 64 * 2 ^ 64 + x % 2 ^ 64)
  | 2 => BitVec.ofNat 128 (old.toNat % 2 ^ 64 + x % 2 ^ 64 * 2 ^ 64)
  | _ => BitVec.ofNat 128 x

/-- A write of %exec: in a handler it writes the MASK of the TRAP entry (07 R165). -/
def writeExec (w : Warp) (half : BitVec 2) (x : Nat) : Warp :=
  if w.isSeq then w
  else if w.handler then
    let m := w.gate (putHalves w.trapExec half x)
    let set1 (st : List SEntry) : List SEntry := match indexOf? (fun (e : SEntry) => e.kind == .trap) st with
      | some i => listSet st i { st.getD i ⟨0, 0, 0, .trap, false, 0, 0, 0, 0, 0, 0⟩ with mask := m }
      | none => st
    { w with trapExec := m, stack := set1 w.stack }
  else { w with exec := w.gate (putHalves w.exec half x) }

/-- A write of a special register; a register that is RO ignores it (07 R163, R165, 04 R101, R102). -/
def writeSpecial (s : State) (n : Nat) (half : BitVec 2) (x : Nat) : State :=
  s.modW fun w =>
    match n with
    | 0 => writeExec w half x
    | 9 => { w with fp := { w.fp with flags := BitVec.ofNat 5 x } }
    | 10 => { w with fp := { w.fp with rm := if x % 8 < 5 then BitVec.ofNat 3 x else w.fp.rm, ftz := bitsAt x 3 1 == 1 } }
    | 16 => { w with link := BitVec.ofNat 64 x }
    | 22 => { w with slip := BitVec.ofNat 32 x }
    | _ => w

/-- SWR from a scalar, or from a pair for a whole 128-bit write (07 R165). -/
def execSwr (half : BitVec 2) (spr : BitVec 5) (ss : BitVec 6) (s : State) : Out := .next <|
  let x := (s.w.sreg ss.toNat).toNat + if half = 0 && specialWide spr.toNat then 2 ^ 64 * (s.w.sreg (ss.toNat + 1)).toNat else 0
  advance (writeSpecial s spr.toNat half x)

/-- SWR of a literal (07 R165). -/
def execSwrLit (half : BitVec 2) (spr : BitVec 5) (lit : W64) (s : State) : Out := .next <|
  advance (writeSpecial s spr.toNat half lit.toNat)

/-- NTDRAIN (06 R132): every pending non-temporal byte is performed at its home. -/
def execNtdrain (s : State) : Out := .next <| advance (performNt s fun _ => true)

/-! LEASE (14 R355, R356). -/

/-- An island of a core that may run above nominal: no hot stack, and the previous window below SOFT. -/
def boostable (s : State) (cl : Nat) : Bool :=
  (getTower s (towerOfCluster cl)).thermal == 0 && decide ((getCluster s cl).lastSum < 256 * (getCluster s cl).power.soft)

/-- A cluster's island of a number. -/
def island (k : Cluster) (g : Nat) : Island := tgetD k.islands g ⟨false, 0, false⟩

/-- A warp's lease runs: it is resident, and its island runs at the lease's level or above (14 R355). -/
def leaseRuns (s : State) (w : Warp) : Bool :=
  w.live && w.home.resident && w.lease.left != 0 && boostable s w.cluster && !(island (getCluster s w.cluster) w.home.group).near

/-- The clock of the lease of the warp in focus runs or is paused (14 R355, Table 14-3). -/
def repauseW (s : State) : State := s.modW fun w => { w with lease := { w.lease with paused := w.lease.left != 0 && !leaseRuns s w } }

/-- LEASE (14 R356). -/
def execLease (units : BitVec 11) (level : BitVec 2) (sd : BitVec 6) (s : State) : Out := .next <|
  let cl := s.w.cluster
  let k := getCluster s cl
  let rem := s.w.lease.left
  let status (s : State) (n : Nat) : State := advance (setS s sd.toNat (BitVec.ofNat 64 n))
  if level = 0 then
    let s := setCluster s cl { k with pool := min 2047 (k.pool + rem) }
    status (s.modW fun w => { w with lease := ⟨0, 0, false, 0⟩ }) 3
  else if !boostable s cl || k.power.leasemax < level.toNat then status s 1
  else if k.pool + rem < units.toNat then status s 2
  else
    let s := setCluster s cl { k with pool := k.pool + rem - units.toNat }
    status (repauseW (s.modW fun w => { w with lease := ⟨units.toNat, level.toNat, false, 0⟩ })) 0

/-! CLAIM and GIVEBACK (07 R166, R167). -/

/-- The waiting CLAIMs of a workgroup's lane group, in arrival order, by warp. -/
def claimsOf (s : State) (g : Group) (lg : Nat) : List Warp :=
  g.claims.filterMap fun idx =>
    (g.warps.filterMap (getWarp s)).find? fun w => w.live && w.home.index == idx && w.home.group == lg

/-- A CLAIM granted: units move from the pool, and the new registers read zero (07 R157, R166). -/
def grantClaim (s : State) (g : Nat) (n : Nat) (sd : Nat) : State :=
  let lg := s.w.home.group
  let s := modGroup s g fun x => { x with pool := tput x.pool lg (tgetD x.pool lg 0 - 8 * n) }
  s.modW fun w => { w with v := w.v ++ List.replicate (8 * n) Vec.zero }.setS sd 0

/-- A CLAIM's place in the arrival order given up. -/
def leaveClaims (s : State) (g : Nat) (idx : Nat) : State :=
  modGroup s g fun x => { x with claims := x.claims.filter (· != idx) }

/-- CLAIM with an optional limit (07 R166). -/
def claimFor (sd : Nat) (n : Nat) (limit : Option Nat) (s : State) : State :=
  match s.w.groupId, s.group with
  | some gid, some g =>
    let lg := s.w.home.group
    let first := (claimsOf s g lg).isEmpty
    if 512 < s.w.v.length + 8 * n || tgetD g.reserve lg 0 < 8 * n then advance (setS s sd 2)
    else if first && 8 * n ≤ tgetD g.pool lg 0 then advance (grantClaim s gid n sd)
    else if s.w.handler || limit == some 0 then advance (setS s sd 1)
    else
      let s := modGroup s gid fun x => { x with claims := x.claims ++ [s.w.home.index] }
      advance (s.modW fun w => { w with wake := .claim n (BitVec.ofNat 6 sd) (limit.map (s.clock + ·)) })
  | _, _ => advance (setS s sd 2)

def execClaim (sd : BitVec 6) (n : BitVec 7) (s : State) : Out := .next <| claimFor sd.toNat n.toNat none s
def execClaimLit (sd : BitVec 6) (n : BitVec 7) (lit : W64) (s : State) : Out := .next <|
  claimFor sd.toNat n.toNat (some (lit.toNat % 2 ^ 32)) s

/-- What a warp that waits in CLAIM gets now, if anything: a grant, or 1 when nothing else could free units (07 R166). -/
def claimDue (s : State) (w : Warp) (n : Nat) : Option Nat :=
  match w.groupId.bind (getGroup s) with
  | none => none
  | some g =>
    let cs := claimsOf s g w.home.group
    if (cs.head?.map (·.id)) == some w.id && 8 * n ≤ tgetD g.pool w.home.group 0 then some 0
    else
      let others := (g.warps.filterMap (getWarp s)).filter fun x => x.live && x.id != w.id && x.home.group == w.home.group
      if others.all fun x => g.claims.contains x.home.index then some 1 else none

/-- A CLAIM that waits is served: the warp is in focus. -/
def serveClaim (s : State) (n : Nat) (sd : BitVec 6) (status : Nat) : State :=
  match s.w.groupId with
  | some g =>
    let s := leaveClaims s g s.w.home.index
    let s := if status = 0 then grantClaim s g n sd.toNat else setS s sd.toNat (BitVec.ofNat 64 status)
    s.modW fun w => { w with wake := .ready }
  | none => s

/-- CLAIM_WAIT_LIMIT (07 R166): the limit of a waiting CLAIM has passed. -/
def execClaimWaitLimit (warp : Nat) (s : State) : Out := .next <|
  match getWarp s warp with
  | some w =>
    match w.wake with
    | .claim n sd (some limit) => if limit ≤ s.clock then serveClaim (focus s warp) n sd 1 else s
    | _ => s
  | none => s

/-- The lowest register from `lo` on that lies in a channel range this warp has mapped. -/
def mappedFrom (s : State) (lo : Nat) : Option Nat :=
  match s.group with
  | some g =>
    let own := g.chans.filter fun c => c.2.consumer == some s.w.home.index && lo < c.2.port + c.2.depth
    (own.map fun c => max lo c.2.port).foldl (fun (m : Option Nat) x => some (match m with
      | some y => min x y
      | none => x)) none
  | none => none

/-- GIVEBACK (07 R167). -/
def execGiveback (n : BitVec 7) (s : State) : Out := .next <|
  let a := s.w.v.length
  let k := 8 * n.toNat
  if a < k then raise0 s REG_RANGE [a, k, 0xFFFFFFFF]
  else
    match mappedFrom s (a - k) with
    | some r => raise0 s REG_RANGE [a, k, r]
    | none =>
      let lg := s.w.home.group
      let s := match s.w.groupId with
        | some g => modGroup s g fun x => { x with pool := tput x.pool lg (tgetD x.pool lg 0 + k) }
        | none => s
      advance (s.modW fun w => { w with v := w.v.take (a - k) })

/-! CHMAP (07 R168). -/

/-- CHMAP.c: of a range that meets another one, or a channel that another warp holds, q1 names vn (log 27). -/
def execChmapC (role : BitVec 2) (dm1 : BitVec 4) (ch : BitVec 3) (n : BitVec 9) (s : State) : Out := .next <|
  let d := dm1.toNat + 1
  let lo := n.toNat
  let me := s.w.home.index
  match s.w.groupId, s.group with
  | some gid, some g =>
    let other := g.chans.any fun c => c.1 != ch.toNat && c.2.consumer == some me && rangesMeet lo d c.2.port c.2.depth
    let held := match tget g.chans ch.toNat with
      | some c => !c.gone && c.consumer.isSome && c.consumer != some me
      | none => false
    let tag := ((tget g.chans ch.toNat).map (·.tag)).getD 1
    if s.w.v.length < lo + d then raise0 s REG_RANGE [max lo s.w.v.length]
    else if other || held then raise0 s REG_RANGE [lo]
    else advance (setGroup s gid { g with chans := tput g.chans ch.toNat ⟨some me, lo, d, role.toNat, 0, [], tag, false⟩ })
  | _, _ => advance s

/-- CHMAP.p. -/
def execChmapP (ch : BitVec 3) (n : BitVec 9) (s : State) : Out := .next <|
  if s.w.v.length ≤ n.toNat then raise0 s REG_RANGE [n.toNat]
  else advance (s.modW fun w => { w with ports := tput w.ports ch.toNat n.toNat })

end Sys2Proof.Machine
end

