-- ==== Sys2Proof/Machine/Engine.lean ====
section
/-! DEFINITION. Engine queues, completion records, and major ENGINE (06 R146 to R152). -/
namespace Sys2Proof.Machine

/-- The commands of an engine replaced; a sampler takes none. -/
def setEngineQueue (s : State) (e : Engine) (q : List Cmd) : State :=
  let cl (c n : Nat) := modCluster s c fun k => { k with queues := if q.isEmpty then tdel k.queues n else tput k.queues n q }
  match e with
  | .copy c k => cl c k.toNat
  | .dma t => setTower s t { getTower s t with dma := q }
  | .raster t k => setTower s t { getTower s t with rasterCmd := tput (getTower s t).rasterCmd k.toNat q }
  | .classify c => cl c 4
  | .attr c => cl c 5
  | .traverse c => cl c 6
  | .blend t => setTower s t { getTower s t with blendCmd := q }
  | .matrix c => cl c 8
  | .sampler _ => s
  | .host => { s with portCmds := tput s.portCmds 9 q }
  | .peer => { s with portCmds := tput s.portCmds 10 q }

/-- The engine that an identifier names to a warp of a cluster (06 Table 06-6). -/
def engineOf (cl : Nat) (eng : Nat) : Option Engine :=
  match eng with
  | 0 => some (.copy cl 0)
  | 1 => some (.copy cl 1)
  | 2 => some (.dma (towerOfCluster cl))
  | 3 => some (.raster (towerOfCluster cl) 0)
  | 4 => some (.classify cl)
  | 5 => some (.attr cl)
  | 6 => some (.traverse cl)
  | 7 => some (.blend (towerOfCluster cl))
  | 8 => some (.matrix cl)
  | 9 => some .host
  | 10 => some .peer
  | _ => none

/-- How many commands a queue holds, where the manual gives it (06 R146, 09 R205). -/
def queueDepth (eng : Nat) : Option Nat :=
  match eng with
  | 0 => some 64
  | 1 => some 64
  | 2 => some 256
  | 8 => some 16
  | _ => none

def cmdWord (c : Cmd) (i : Nat) : Nat := (c.words.getD i 0).toNat
def cmdOp (c : Cmd) : Nat := cmdWord c 0 % 256
def cmdRec (c : Cmd) : Bool := bitsAt (cmdWord c 0) 8 1 == 1
def cmdTag (c : Cmd) : Nat := bitsAt (cmdWord c 0) 16 16

/-- A command whose Q0 and Q7 hold no reserved value (06 Table 06-7). -/
def cmdPlain (c : Cmd) : Bool :=
  bitsAt (cmdWord c 0) 9 7 == 0 && bitsAt (cmdWord c 0) 35 29 == 0 && (if cmdRec c then cmdWord c 7 % 32 == 0 else cmdWord c 7 == 0)

/-- What a command reports (06 Table 06-9). -/
structure Report where
  status   : Nat
  flags    : Nat
  progress : Nat
  fva      : Nat
  fword    : Nat
  deriving DecidableEq, Repr

def Report.plain (status : Nat) : Report := ⟨status, 0, 0, 0, 0⟩

/-- A completion record (06 Table 06-9). -/
def reportBytes (r : Report) (tag : Nat) : List Byte :=
  leBytes 32 (joinBits [(8, r.status), (5, r.flags), (18, 0), (1, 1), (16, tag), (16, 0), (64, r.progress), (64, r.fva), (32, r.fword), (32, 0)])

/-- The status of a COPY packet from that of its command (16 R391, Table 16-3): 2 to 5 are faults. -/
def packetStatus (n : Nat) : Nat := min n 2

/-- A command completes (06 R149, R150): its record, its issuer's count and error bit, and the packet that carried it. -/
def finishCmd (s : State) (u : Walker) (who : Nat) (c : Cmd) (r : Report) : State :=
  let s := pulse s c.ctx
  let (s, lost) :=
    if cmdRec c && cmdWord c 7 % 32 == 0 then
      match unitWrite s u who c.ctx (cmdWord c 7) (reportBytes r (cmdTag c)) with
      | (s, .fault _) => (s, true)
      | (s, .poison pa) => (poisonStop s c.ctx pa 0, true)
      | (s, _) => (s, false)
    else (s, false)
  let s := match c.issuer with
    | some k => resaveCounts (modWarp s k fun w =>
        { w with counts := tput w.counts c.eng (tgetD w.counts c.eng 0 - 1)
                 errors := if r.status ≠ 0 || lost then tput w.errors c.eng true else w.errors }) k
    | none => s
  match c.packet with
  | some (qi, seq) =>
    let f := r.status = 2
    completePacket s c.ctx qi (BitVec.ofNat 32 seq) (packetStatus r.status) 0 (if f then r.fva else 0) (if f then r.fword else 0)
  | none => s

/-- The head command of an engine leaves its queue and completes. -/
def finishHead (s : State) (e : Engine) (c : Cmd) (r : Report) : State :=
  finishCmd (dropRemotes (setEngineQueue s e (engineQueue s e).tail) (engineKey e)) (.engine e) (engineKey e) c r

/-- An engine may work for a context: it exists and is neither stopped nor killed. -/
def engineRuns (s : State) (ctx : Nat) : Bool :=
  match getCtx s ctx with
  | some c => c.running == .running || c.running == .stopping
  | none => false

/-- A count of the warp in focus. -/
def outstanding (w : Warp) (eng : Nat) : Nat := tgetD w.counts eng 0

/-- ENG 11 to 15 (06 R146, R151, R152). -/
def engineId (s : State) (eng : Nat) (k : State → State) : State := if 11 ≤ eng then raise0 s ENGINE_ID [] else k s

/-- PUSH (06 R146, R150). -/
def execPush (sd : BitVec 6) (cb : BitVec 3) (eng : BitVec 4) (s : State) : Out := .next <|
  engineId s eng.toNat fun s =>
    match engineOf s.w.cluster eng.toNat with
    | none => s
    | some e =>
      let full := match queueDepth eng.toNat with
        | some n => n ≤ (engineQueue s e).length
        | none => false
      if full || 65535 ≤ outstanding s.w eng.toNat then advance (setS s sd.toNat 1)
      else
        let words := (List.range 8).map fun i => s.w.sreg (8 * cb.toNat + i)
        let s := writeBackCtx s s.core s.ctx
        let s := setEngineQueue s e (engineQueue s e ++ [⟨words, s.ctx, some s.w.id, none, eng.toNat, false, s.w.home.qi, s.w.home.prio, s.w.home.cls, s.w.groupId, s.uses⟩])
        let s := s.modW fun w => { w with counts := tput w.counts eng.toNat (outstanding w eng.toNat + 1) }
        advance (setS s sd.toNat 0)

/-- YLDC (06 R152). -/
def execYldc (eng : BitVec 4) (k : Src) (off : W32) (s : State) : Out := .next <|
  engineId s eng.toNat fun s =>
    let k := (s.w.opndS none k).toNat
    let cont := s.w.o + off
    if outstanding s.w eng.toNat ≤ k then jump (genBump s s.core) cont else block s (.yldc eng.toNat k cont)

/-- CWAIT (06 R151): it is no blocking point, but the warp is memory-blocked (14 R353). -/
def execCwait (k : BitVec 5) (eng : BitVec 4) (s : State) : Out := .next <|
  engineId s eng.toNat fun s =>
    if outstanding s.w eng.toNat ≤ k.toNat then advance (genBump s s.core) else (stall s).modW fun w => { w with parked := true }

/-- CTEST (06 R151). -/
def execCtest (sd : BitVec 6) (eng : BitVec 4) (s : State) : Out := .next <|
  engineId s eng.toNat fun s =>
    let x := outstanding s.w eng.toNat + 65536 * (tgetD s.w.errors eng.toNat false).toNat
    let s := setS (genBump s s.core) sd.toNat (BitVec.ofNat 64 x)
    advance (s.modW fun w => { w with errors := tdel w.errors eng.toNat })

end Sys2Proof.Machine
end

