-- ==== Sys2Proof/Machine/Copy.lean ====
section
/-! DEFINITION. Copy and DMA engines, and what HOST and PEER take of them (06 R147 to R150, 16 R393). A command is performed in
one step, sector by sector. -/
namespace Sys2Proof.Machine

/-- Why a command stops short. -/
inductive Stop where
  | status (r : Nat) (fva fword : Nat)
  | poison (pa : Nat)
  | wait (pa n : Nat)
  deriving DecidableEq, Repr

/-- A command in progress: the state, what it has done, and the flags it has raised; or how it stopped. -/
abbrev Run := State × Nat × Flags × Option Stop

/-- The engine and context of a command. -/
structure Eng where
  e   : Engine
  ctx : Nat
  deriving DecidableEq, Repr

/-- A failed translation: status 2, or a poisoned entry (03 R72, 05 R105). -/
def faultStop (f : PFault) : Stop :=
  match f.poison with
  | some pa => .poison pa
  | none => .status 2 (f.va % 2 ^ 64) f.word

/-- A piece within a sector translated for an engine. -/
def engXlat (s : State) (g : Eng) (k : Access) (va n : Nat) : State × Except Stop Xlat :=
  match translate s (.engine g.e) g.ctx k (va % 2 ^ 64) n with
  | (s, .ok x) => (s, .ok x)
  | (s, .error f) => (s, .error (faultStop f))

/-- The bytes at a physical address, as an engine reads them at the home, in the command's cache class (05 R106). -/
def engBytes (s : State) (g : Eng) (pa n : Nat) : State × Except Stop (List Byte) :=
  if 3 ≤ region pa then
    match s.remotes.find? fun r => r.who == engineKey g.e && r.pa == pa && r.size == n && r.write.isNone with
    | some ⟨_, _, _, _, _, some bs⟩ => (s, .ok bs)
    | _ => (s, .error (.wait pa n))
  else if poisoned s g.ctx pa n then (s, .error (.poison pa))
  else (touch s (accessCls s (.engine g.e)) pa n false, .ok (physRead s g.ctx pa n))

/-- Bytes written by an engine at the home. -/
def engPut (s : State) (g : Eng) (pa : Nat) (bs : List Byte) : State :=
  if 3 ≤ region pa then remoteWrite s (engineKey g.e) pa bs else physWrite s g.ctx (accessCls s (.engine g.e)) pa bs

/-- Bytes read over sectors. -/
def engReadAll (s : State) (g : Eng) (k : Access) : List (Nat × Nat) → List Byte → State × Except Stop (List Byte)
  | [], acc => (s, .ok acc)
  | (va, n) :: rest, acc =>
    match engXlat s g k va n with
    | (s, .error e) => (s, .error e)
    | (s, .ok x) =>
      match engBytes s g x.pa n with
      | (s, .ok bs) => engReadAll s g k rest (acc ++ bs)
      | (s, .error e) => (s, .error e)

/-- Bytes written over sectors, upwards. -/
def engWriteAll (s : State) (g : Eng) : List (Nat × Nat) → List Byte → State × Option Stop
  | [], _ => (s, none)
  | (va, n) :: rest, bs =>
    match engXlat s g .write va n with
    | (s, .error e) => (s, some e)
    | (s, .ok x) => engWriteAll (engPut s g x.pa (bs.take n)) g rest (bs.drop n)

/-- Of two readings of the same bytes, before the command and now, the device's choice where they differ (06 R148). -/
def mixBytes (free : Nat) (old new : List Byte) : List Byte :=
  (old.zip new).zipIdx.map fun p => if p.1.1 == p.1.2 then p.1.2 else if Config.choice (free + p.2) % 2 = 0 then p.1.1 else p.1.2

/-- A state with the storage as another holds it: memory, and the units of the on-chip map. -/
def withStorage (s0 s : State) : State := { s with mem := s0.mem, w := s0.w, warps := s0.warps, groups := s0.groups, clusters := s0.clusters }

/-- A run of destination pieces filled from a source, piece by piece (06 R148): `s0` is the state before the command. -/
def copyPieces (s0 : State) (g : Eng) (src dst : Nat) : List (Nat × Nat) → State → Nat → Run
  | [], s, done => (s, done, 0, none)
  | (va, n) :: rest, s, done =>
    match engReadAll s g .read (piecesOf (src + (va - dst)) n) [] with
    | (s, .error e) => (s, done, 0, some e)
    | (s, .ok new) =>
      let old := match (engReadAll (withStorage s0 s) g .read (piecesOf (src + (va - dst)) n) []).2 with
        | .ok bs => bs
        | .error _ => new
      let bs := if old == new then new else mixBytes s.free old new
      let s := if old == new then s else { s with free := s.free + n }
      match engWriteAll s g [(va, n)] bs with
      | (s, some e) => (s, done, 0, some e)
      | (s, none) => copyPieces s0 g src dst rest s (done + n)

/-- Rows copied in order: source, destination, bytes. -/
def copyRows (s0 : State) (g : Eng) : List (Nat × Nat × Nat) → State → Nat → Run
  | [], s, done => (s, done, 0, none)
  | (a, b, n) :: rest, s, done =>
    match copyPieces s0 g a b (piecesOf b n) s done with
    | (s, done, _, none) => copyRows s0 g rest s done
    | r => r

/-- The rows of a COPY or COPY2D. -/
def copyRowsOf (c : Cmd) : List (Nat × Nat × Nat) :=
  if cmdOp c = 0 then [(cmdWord c 1, cmdWord c 2, cmdWord c 3)]
  else
    (List.range (cmdWord c 3 / 2 ^ 32)).map fun r => (cmdWord c 1 + r * cmdWord c 4, cmdWord c 2 + r * cmdWord c 5, cmdWord c 3 % 2 ^ 32)

/-- Two ranges meet, addresses being modulo 2^64. -/
def vaMeet (a n b m : Nat) : Bool :=
  n != 0 && m != 0 && (decide ((b + 2 ^ 64 - a % 2 ^ 64) % 2 ^ 64 < n) || decide ((a + 2 ^ 64 - b % 2 ^ 64) % 2 ^ 64 < m))

/-- COPY and COPY2D (06 R148). -/
def runCopy (s : State) (g : Eng) (c : Cmd) : Run :=
  let rows := copyRowsOf c
  if rows.any fun x => rows.any fun y => vaMeet x.1 x.2.2 y.2.1 y.2.2 then (s, 0, 0, some (.status 5 0 0))
  else copyRows s g rows s 0

/-- FILL (06 R148). -/
def fillPieces (g : Eng) (pat : List Byte) : List (Nat × Nat) → State → Nat → Run
  | [], s, done => (s, done, 0, none)
  | (va, n) :: rest, s, done =>
    match engWriteAll s g [(va, n)] (List.replicate (n / 4) pat).flatten with
    | (s, some e) => (s, done, 0, some e)
    | (s, none) => fillPieces g pat rest s (done + n)

/-- The format and geometry of the page of a B0, which must suit its alignment (06 R148). -/
def pageOf (s : State) (g : Eng) (k : Access) (b0 : Nat) : State × Except Stop (Nat × Nat) :=
  match engXlat s g k b0 1 with
  | (s, .error e) => (s, .error e)
  | (s, .ok x) =>
    if b0 % (32 * blockSectors x.geom) ≠ 0 then (s, .error (.status 1 0 0))
    else if !fmtOk x.fmt then (s, .error (.status 3 b0 0))
    else (s, .ok (x.fmt, x.geom))

/-- A sector of an element array translated, on a page of the base page's format (04 R91). -/
def sameFmt (s : State) (g : Eng) (k : Access) (va : Nat) (f : Nat × Nat) : State × Except Stop Nat :=
  match engXlat s g k va 1 with
  | (s, .error e) => (s, .error e)
  | (s, .ok x) => if x.fmt = f.1 ∧ x.geom = f.2 then (s, .ok (x.pa / 32 * 32)) else (s, .error (.status 3 (va % 2 ^ 64) 0))

/-- The sector of an element and the scale byte of its block, if the geometry has one: of one snapshot where they share a sector
(04 R94). `sec` and `scl` are where they stand from B0 on; a sector of which nothing is needed is not read. -/
def elemSector (s : State) (g : Eng) (k : Access) (need : Bool) (b0 sec scl : Nat) (f : Nat × Nat) :
    State × Except Stop (Nat × List Byte × Option Nat) :=
  match sameFmt s g k (b0 + sec) f with
  | (s, .error e) => (s, .error e)
  | (s, .ok pa) =>
    let own := f.2 != 0 && scl / 32 == sec / 32
    match if need || own then engBytes s g pa 32 else (s, .ok []) with
    | (s, .error e) => (s, .error e)
    | (s, .ok bs) =>
      if f.2 = 0 then (s, .ok (pa, bs, none))
      else if own then (s, .ok (pa, bs, some (bitsAt (leNat bs) (8 * (scl % 32)) 8)))
      else
        match sameFmt s g .read (b0 + scl) f with
        | (s, .error e) => (s, .error e)
        | (s, .ok sp) =>
          match engBytes s g (sp + scl % 32) 1 with
          | (s, .ok x) => (s, .ok (pa, bs, some (leNat x)))
          | (s, .error e) => (s, .error e)

/-- One element of a CONVERT (06 R148): the source's kind of value decides how the store takes it. -/
def convertOne (s : State) (g : Eng) (md : RMode) (sb db : Nat) (sf df : Nat × Nat) (i j : Nat) : State × Except Stop Flags :=
  let (sec, lo, scl) := locate sf.1 sf.2 i
  let (dsec, dlo, dscl) := locate df.1 df.2 j
  match elemSector s g .read true sb sec scl sf with
  | (s, .error e) => (s, .error e)
  | (s, .ok (_, bs, sc)) =>
    let x := decodeElem sf.1 sc (bitsAt (leNat bs) lo (elemWidth sf.1))
    -- a t6 or i4 element is put into the sector's bytes; another is stored as whole bytes (R96)
    let w := elemWidth df.1
    let b := dlo / 8
    let n := (dlo + w - 1) / 8 - b + 1
    let put (s : State) (pa : Nat) (old : Nat) (dsc : Option Nat) : State × Except Stop Flags :=
      match storeBits md sf df sc dsc x with
      | none => (s, .ok flIV)
      | some (code, f) => (engPut s g (pa + b) (leBytes n (putElem old dlo w code / 2 ^ (8 * b))), .ok f)
    match elemSector s g .write (df.1 == 2 || df.1 == 6) db dsec dscl df with
    | (s, .error e) => (s, .error e)
    | (s, .ok (pa, old, dsc)) => put s pa (leNat old) dsc
where
  /-- The code of a decoded value in the destination: an FP32 or an i32 source converts as the destination's store takes it (04 R95). -/
  storeBits (md : RMode) (sf df : Nat × Nat) (sc dsc : Option Nat) (x : W32) : Option (Nat × Flags) :=
    let srcInt := sc.isNone && (sf.1 == 5 || sf.1 == 6)
    let dstInt := df.2 == 0 && (df.1 == 5 || df.1 == 6)
    let y : Nat × Flags := if srcInt && !dstInt then f32.round md false (intVal (signed 32 x.toNat)) else (x.toNat, 0)
    (encodeElem md df.1 dsc (srcInt && dstInt) (BitVec.ofNat 32 y.1)).map fun r => (r.1, r.2 ||| y.2)

/-- CONVERT's elements in order. -/
def convertAll (g : Eng) (md : RMode) (sb db : Nat) (sf df : Nat × Nat) (e0 f0 : Nat) : Nat → State → Nat → Flags → Run
  | 0, s, done, fl => (s, done, fl, none)
  | n + 1, s, done, fl =>
    match convertOne s g md sb db sf df ((e0 + done) % 2 ^ 64) ((f0 + done) % 2 ^ 64) with
    | (s, .error e) => (s, done, fl, some e)
    | (s, .ok f) => convertAll g md sb db sf df e0 f0 n s (done + 1) (fl ||| f)

/-- CONVERT (06 R148). -/
def runConvert (s : State) (g : Eng) (c : Cmd) : Run :=
  let sb := cmdWord c 1
  let db := cmdWord c 2
  if sb % 32 ≠ 0 || db % 32 ≠ 0 then (s, 0, 0, some (.status 1 0 0))
  else
    match pageOf s g .read sb with
    | (s, .error e) => (s, 0, 0, some e)
    | (s, .ok sf) =>
      match pageOf s g .write db with
      | (s, .error e) => (s, 0, 0, some e)
      | (s, .ok df) =>
        convertAll g (rmodeOf (BitVec.ofNat 3 (cmdWord c 6))) sb db sf df (cmdWord c 4) (cmdWord c 5) (cmdWord c 3) s 0 0

/-- DECOMP's tiles in order (06 R148): the tile raw, then its mode byte 0. -/
def decompAll (g : Eng) (clear : Nat) : Nat → Nat → Nat → State → Nat → Run
  | 0, _, _, s, done => (s, done, 0, none)
  | n + 1, tile, mode, s, done =>
    let step : State × Except Stop State :=
      match engReadAll s g .read [(mode, 1)] [] with
      | (s, .error e) => (s, .error e)
      | (s, .ok mb) =>
        let m := leNat mb
        if modeReserved m then (s, .error (.status 4 0 0))
        else
          match engReadAll s g .read (piecesOf tile 256) [] with
          | (s, .error e) => (s, .error e)
          | (s, .ok bs) =>
            let raw := leBytes 256 (joinBits ((decodeTile m clear (leNat bs)).map fun p => (32, p)))
            match engWriteAll s g (piecesOf tile 256) raw with
            | (s, some e) => (s, .error e)
            | (s, none) =>
              match engWriteAll s g [(mode, 1)] [0] with
              | (s, some e) => (s, .error e)
              | (s, none) => (s, .ok s)
    match step with
    | (s, .error e) => (s, done, 0, some e)
    | (_, .ok s) => decompAll g clear n ((tile + 256) % 2 ^ 64) ((mode + 1) % 2 ^ 64) s (done + 1)

/-- A copy command whose fields hold no reserved value (06 Table 06-8, R147). -/
def copyFieldsOk (c : Cmd) : Bool :=
  let q (i : Nat) := cmdWord c i
  let zero (is : List Nat) := is.all fun i => q i == 0
  cmdPlain c &&
    match cmdOp c with
    | 0 => zero [4, 5, 6] && 1 ≤ q 3 && q 3 ≤ 2 ^ 32
    | 1 => zero [6]
    | 2 => zero [1, 4, 5] && q 2 % 4 == 0 && q 3 % 4 == 0 && bitsAt (q 6) 32 32 == 0
    | 3 => q 6 < 5
    | 4 => zero [4, 5] && q 1 % 256 == 0 && bitsAt (q 6) 32 32 == 0
    | _ => false

/-- Operations that an engine takes (06 R147, 16 R393, 11 R256). -/
def opTaken (e : Engine) (op : Nat) : Bool :=
  match e with
  | .copy .. => op < 5
  | .dma _ => op < 5
  | .host => op < 3
  | .peer => op < 3
  | _ => false

/-- What a command does. -/
def runCmd (s : State) (g : Eng) (c : Cmd) : Run :=
  if !(opTaken g.e (cmdOp c) && copyFieldsOk c) then (s, 0, 0, some (.status 1 0 0))
  else
    match cmdOp c with
    | 2 => fillPieces g (leBytes 4 (cmdWord c 6)) (piecesOf (cmdWord c 2) (cmdWord c 3)) s 0
    | 3 => runConvert s g c
    | 4 => decompAll g (cmdWord c 6) (cmdWord c 3) (cmdWord c 1) (cmdWord c 2) s 0
    | _ => runCopy s g c

/-- The head command of an engine, when its operation is one that an event performs, run to its completion (06 R149, R150);
one whose operation the engine does not take completes with status 1. -/
def copyEvent (e : Engine) (mine : Nat → Bool) (s : State) : State :=
  match engineQueue s e with
  | [] => s
  | c :: _ =>
    if !(mine (cmdOp c) && engineRuns s c.ctx) then s
    else
      match runCmd s ⟨e, c.ctx⟩ c with
      | (s', n, f, none) => finishHead s' e c ⟨0, f.toNat, n, 0, 0⟩
      | (s', n, f, some (.status r fva fw)) => finishHead s' e c ⟨r, f.toNat, if r = 1 || r = 5 then 0 else n, fva, fw⟩
      | (s', _, _, some (.poison pa)) => poisonStop s' c.ctx pa 0
      | (_, _, _, some (.wait pa n)) => (fetchRemote s (engineKey e) pa n).1

/-- Operations that COPY_CMD completes besides its own: those without a step of their own. -/
def otherOp (e : Engine) (op : Nat) : Bool :=
  match e with
  | .copy .. => op == 0 || 5 ≤ op
  | .dma _ => op == 0 || 5 ≤ op
  | .host => op == 0 || (3 ≤ op && op != 16)
  | .peer => op == 0 || 3 ≤ op
  | .attr _ => true
  | .traverse _ => true
  | _ => false

/-- COPY_CMD (06 R148). -/
def execCopyCmd (e : Engine) (s : State) : Out := .next <| copyEvent e (otherOp e) s
/-- COPY2D (06 R148). -/
def execCopy2d (e : Engine) (s : State) : Out := .next <| copyEvent e (fun op => op == 1 && opTaken e 1) s
/-- FILL (06 R148). -/
def execFill (e : Engine) (s : State) : Out := .next <| copyEvent e (fun op => op == 2 && opTaken e 2) s
/-- CONVERT (06 R148). -/
def execConvert (e : Engine) (s : State) : Out := .next <| copyEvent e (fun op => op == 3 && opTaken e 3) s
/-- DECOMP (06 R148). -/
def execDecomp (e : Engine) (s : State) : Out := .next <| copyEvent e (fun op => op == 4 && opTaken e 4) s

/-- NOTIFY (16 R393): event 6, and nothing written. -/
def execNotify (s : State) : Out := .next <|
  match engineQueue s .host with
  | [] => s
  | c :: _ =>
    if cmdOp c = 16 && engineRuns s c.ctx then
      if cmdPlain c then finishHead (sendEvent s c.ctx 6 [cmdTag c, cmdWord c 1]) .host c (Report.plain 0)
      else finishHead s .host c (Report.plain 1)
    else s

end Sys2Proof.Machine
end

