-- ==== Sys2Proof/Machine/Pkd.lean ====
section
/-! DEFINITION. Packed 16-bit operations and dot products: major PKD (08 R188, R189). -/
namespace Sys2Proof.Machine

/-- The two 16-bit elements of a lane, and their joining. -/
def elem16 (x i : Nat) : Nat := bitsAt x (16 * i) 16
def pair16 (x y : Nat) : Nat := x % 65536 + 65536 * (y % 65536)

/-- NEG and ABS on both elements of a source of a float format. -/
def signMods2 (f : Fmt) (o : Op) (i x : Nat) : Nat := pair16 (signMods f o i (elem16 x 0)) (signMods f o i (elem16 x 1))

/-- A float operation on each of two 16-bit elements; the flags are ORed. -/
def pairFlt (f : Fmt) (o : Op) (g : RMode → Nat → Nat → Nat → Nat × Flags) : AluOp :=
  ⟨o.ty, o.ty, o.ty, false, false, false, false, fun md a b c =>
    let a := signMods2 f o 0 a
    let b := signMods2 f o 1 b
    let c := signMods2 f o 2 c
    let x := g md (elem16 a 0) (elem16 b 0) (elem16 c 0)
    let y := g md (elem16 a 1) (elem16 b 1) (elem16 c 1)
    (pair16 x.1 y.1, x.2 ||| y.2)⟩

def execHadd2 (o : Op) (s : State) : Out := .next <| alu (pairFlt f16 o fun md a b _ => fmtAdd f16 s.w.fp.ftz md a b) o s
def execHmul2 (o : Op) (s : State) : Out := .next <| alu (pairFlt f16 o fun md a b _ => fmtMul f16 s.w.fp.ftz md a b) o s
def execHfma2 (o : Op) (s : State) : Out := .next <| alu (pairFlt f16 o fun md a b c => fmtFma f16 s.w.fp.ftz md a b c) o s
def execBadd2 (o : Op) (s : State) : Out := .next <| alu (pairFlt bf16 o fun md a b _ => fmtAdd bf16 s.w.fp.ftz md a b) o s
def execBmul2 (o : Op) (s : State) : Out := .next <| alu (pairFlt bf16 o fun md a b _ => fmtMul bf16 s.w.fp.ftz md a b) o s
def execBfma2 (o : Op) (s : State) : Out := .next <| alu (pairFlt bf16 o fun md a b c => fmtFma bf16 s.w.fp.ftz md a b c) o s

/-- An integer operation on each of two 16-bit elements, read in the type, wrapped or clamped. -/
def pairInt (o : Op) (sat : Bool) (g : Int → Int → Int) : AluOp :=
  let sg := tySigned o.ty
  let one (a b i : Nat) := fitInt sat sg 16 (g (readInt sg 16 (elem16 a i)) (readInt sg 16 (elem16 b i)))
  ⟨o.ty, o.ty, o.ty, false, false, false, false, fun _ a b _ => (pair16 (one a b 0) (one a b 1), 0)⟩

def execPadd16 (o : Op) (s : State) : Out := .next <| alu (pairInt o false fun a b => a + b) o s
def execPsub16 (o : Op) (s : State) : Out := .next <| alu (pairInt o false fun a b => a - b) o s
def execPmin16 (o : Op) (s : State) : Out := .next <| alu (pairInt o false fun a b => if a ≤ b then a else b) o s
def execPmax16 (o : Op) (s : State) : Out := .next <| alu (pairInt o false fun a b => if a ≤ b then b else a) o s
def execPadds16 (o : Op) (s : State) : Out := .next <| alu (pairInt o true fun a b => a + b) o s

/-- The value of a t8 code in units of 2^-12. -/
def t8Units (c : Nat) : Int := if 128 < c then -(taperedMag 8 (256 - c) : Int) else taperedMag 8 c

/-- PDOT4T8 (08 R189): the exact sum of four t8 products and c, rounded once; an exact zero is +0. -/
def dotT8 (ftz : Bool) (md : RMode) (a b c : Nat) : Nat × Flags :=
  let byte (x i : Nat) := bitsAt x (8 * i) 8
  let v := f32.readIn ftz c
  let bad := (List.range 4).any fun i => byte a i == 128 || byte b i == 128
  if bad || v.isNan then (f32.nanBits, flag v.isSig flIV)
  else
    match v with
    | .num n m e _ =>
      let p := (List.range 4).foldl (fun t i => t + t8Units (byte a i) * t8Units (byte b i)) 0
      match addNum .rne (p < 0) p.natAbs (-24) n m e with
      | .num n m e st => f32.round md ftz (.num (m != 0 && n) m e st)
      | r => f32.round md ftz r
    | r => f32.round md ftz r

/-- PDOT4T8: c is f32. -/
def execPdot4t8 (o : Op) (s : State) : Out := .next <|
  alu ⟨.t8, .t8, .f32, false, false, false, false, fun md a b c => dotT8 s.w.fp.ftz md a b c⟩ o s

/-- PDOT8I4 (08 R189): c is i32. -/
def execPdot8i4 (o : Op) (s : State) : Out := .next <|
  let nib (x i : Nat) := signed 4 (bitsAt x (4 * i) 4)
  alu ⟨.i4, .i4, .i32, false, false, false, false, fun _ a b c =>
    (fitInt o.sat true 32 ((List.range 8).foldl (fun t i => t + nib a i * nib b i) (signed 32 c)), 0)⟩ o s

/-- PSHF (08 R189): each selector byte picks a byte of a, or zero. -/
def execPshf (o : Op) (s : State) : Out := .next <|
  let pick (a b i : Nat) := if bitsAt b (8 * i + 7) 1 = 1 then 0 else bitsAt a (8 * bitsAt b (8 * i) 2) 8
  alu ⟨.b32, .b32, .b32, false, false, false, false, fun _ a b _ =>
    (joinBits ((List.range 4).map fun i => (8, pick a b i)), 0)⟩ o s

end Sys2Proof.Machine
end

