-- ==== Sys2Proof/Machine/Cvt.lean ====
section
/-! DEFINITION. Conversions: major CVT (08 R190 to R194). -/
namespace Sys2Proof.Machine

/-- The width of an element of a type (08 R190). -/
def tyWidth : Ty → Nat
  | .f16 => 16 | .bf16 => 16 | .i16 => 16 | .n16 => 16
  | .t8 => 8 | .i8 => 8 | .n8 => 8
  | .t6 => 6
  | .i4 => 4
  | .i64 => 64 | .n64 => 64
  | _ => 32

/-- The IEEE format of a type. -/
def tyFmt : Ty → Option Fmt
  | .f32 => some f32
  | .f16 => some f16
  | .bf16 => some bf16
  | _ => none

/-- The value of an element of a type; a subnormal of an IEEE type reads as zero under FTZ. -/
def readTy (ftz : Bool) (t : Ty) (x : Nat) : Fv :=
  match t with
  | .f32 => f32.readIn ftz x
  | .f16 => f16.readIn ftz x
  | .bf16 => bf16.readIn ftz x
  | .t8 => readTapered 8 x
  | .t6 => readTapered 6 x
  | t => intVal (readInt (tySigned t) (tyWidth t) x)

/-- An integer type's least and greatest values. -/
def tyLo (t : Ty) : Int := intLo (tySigned t) (tyWidth t)
def tyHi (t : Ty) : Int := intHi (tySigned t) (tyWidth t)

/-- The conversion of R191 of one element, in bits from 0 up, with its flags. -/
def convert (ftz : Bool) (md : RMode) (src dst : Ty) (x : Nat) : Nat × Flags :=
  let v := readTy ftz src x
  let sig := flag v.isSig flIV
  match dst with
  | .f32 => roundOut f32 md ftz (v, sig)
  | .f16 => roundOut f16 md ftz (v, sig)
  | .bf16 => roundOut bf16 md ftz (v, sig)
  | .t8 => let r := roundTapered 8 md v; (r.1, r.2 ||| sig)
  | .t6 => let r := roundTapered 6 md v; (r.1, r.2 ||| sig)
  | t =>
    if tyFloat src || src == .t8 || src == .t6 then
      let r := roundToInt md (tyLo t) (tyHi t) v
      (wrapInt (tyWidth t) r.1, r.2)
    else (wrapInt (tyWidth t) (clampInt (tyLo t) (tyHi t) (readInt (tySigned src) (tyWidth src) x)), 0)

/-- Element SEL of a lane in a type, after NEG and ABS (08 R190, R191). -/
def element (o : Op) (t : Ty) (sel x : Nat) : Nat :=
  let e := bitsAt x (tyWidth t * sel) (tyWidth t)
  match tyFmt t with
  | some f => signMods f o 0 e
  | none => e

/-- CVT (08 R191). -/
def execCvt (o : Op) (sty : Ty) (sel : BitVec 3) (s : State) : Out := .next <|
  alu ⟨sty, sty, sty, tyWide sty, false, false, tyWide o.ty, fun md a _ _ =>
    convert s.w.fp.ftz md sty o.ty (element o sty sel.toNat a)⟩ o s

/-- CVTSR (08 R192): stochastic rounding with a supplied draw. -/
def execCvtsr (o : Op) (sty : Ty) (sel : BitVec 3) (s : State) : Out := .next <|
  alu ⟨sty, .n32, sty, false, false, false, false, fun _ a b _ =>
    convert s.w.fp.ftz (.sr (b % 65536)) sty o.ty (element o sty sel.toNat a)⟩ o s

/-- PACK (08 R193): element 0 converted, placed at SEL of OPB. -/
def execPack (o : Op) (sty : Ty) (sel : BitVec 3) (s : State) : Out := .next <|
  let w := tyWidth o.ty
  alu ⟨sty, .n32, sty, false, false, false, false, fun md a b _ =>
    let r := convert s.w.fp.ftz md sty o.ty (element o sty 0 a)
    (b - bitsAt b (w * sel.toNat) w * 2 ^ (w * sel.toNat) + r.1 * 2 ^ (w * sel.toNat), r.2)⟩ o s

/-- UNPACK (08 R194): an element decoded as a load decodes it. -/
def execUnpack (o : Op) (sel : BitVec 3) (s : State) : Out := .next <|
  alu ⟨o.ty, o.ty, o.ty, false, false, false, false, fun _ a _ _ =>
    let x := bitsAt a (tyWidth o.ty * sel.toNat) (tyWidth o.ty)
    if tyFloat o.ty || o.ty == .t8 || o.ty == .t6 then ((f32.round .rne false (readTy false o.ty x)).1, 0)
    else (wrapInt 32 (readInt (tySigned o.ty) (tyWidth o.ty) x), 0)⟩ o s

end Sys2Proof.Machine
end

