-- ==== Sys2Proof/Machine/Flow.lean ====
section
/-! DEFINITION. Control flow: major FLOW (13 R329 to R338). Each acts once per offset, on the lanes of every occupied plane. -/
namespace Sys2Proof.Machine

/-- The target of an OFF19 field (13 R329). -/
def State.target (s : State) (off : BitVec 19) : W32 := s.w.o + 4 * off.signExtend 32

/-- The lanes of %exec that have not exited. -/
def State.active (s : State) : Mask := s.allLanes

/-- A reconvergence entry that is no loop. -/
def plainEntry (kind : SKind) (mask : Mask) (rpc resume : W32) : SEntry :=
  ⟨mask, rpc, resume, kind, false, 0, 0, 0, 0, 0, 0⟩

/-- The lanes of a vector of handler-queue values. -/
def laneVals (m : Mask) (f : Nat → Nat) : List W32 :=
  (List.range 128).map fun l => if hasLane m l then BitVec.ofNat 32 (f l) else 0

/-- BRA (13 R331). -/
def execBra (off : BitVec 19) (s : State) : Out := .next <| jump s (s.target off)

/-- BRS (13 R331). -/
def execBrs (z : Bool) (a : BitVec 6) (off : BitVec 19) (s : State) : Out := .next <|
  if (s.w.sreg a.toNat == 0) == z then jump s (s.target off) else advance s

/-- BRM (13 R333). -/
def execBrm (m : BitVec 5) (off : BitVec 19) (join : W32) (s : State) : Out := .next <|
  let a := s.active
  let t := a &&& s.w.mreg m.toNat
  let n := a &&& ~~~ s.w.mreg m.toNat
  let j := s.w.o + join
  if a = 0 then jump s j
  else if n = 0 then jump s (s.target off)
  else if t = 0 then advance s
  else
    let target := s.target off
    pushOr s [plainEntry .reconv a j 0, plainEntry .path t j target] fun s => advance (s.modW fun w => { w with exec := w.gate n })

/-- BRANY (13 R332). -/
def execBrany (m : BitVec 5) (off : BitVec 19) (s : State) : Out := .next <|
  if s.active &&& s.w.mreg m.toNat = 0 then advance s else jump s (s.target off)

/-- BRALL (13 R332). -/
def execBrall (m : BitVec 5) (off : BitVec 19) (s : State) : Out := .next <|
  if s.active &&& ~~~ s.w.mreg m.toNat = 0 then jump s (s.target off) else advance s

/-- CALL (13 R334). -/
def execCall (off : BitVec 19) (s : State) : Out := .next <|
  jump (s.modW fun w => { w with link := (w.o + 4).zeroExtend 64 }) (s.target off)

/-- CALLM (13 R335). -/
def execCallm (m : BitVec 5) (off : BitVec 19) (s : State) : Out := .next <|
  let t := s.active &&& s.w.mreg m.toNat
  let n := s.active &&& ~~~ s.w.mreg m.toNat
  let target := s.target off
  let ret := s.w.o + 12
  let go (s : State) := jump (s.modW fun w => { w with link := ret.zeroExtend 64, exec := w.gate t }) target
  if t = 0 then advance s
  else if n = 0 then go s
  else pushOr s [plainEntry .call n ret 0] go

/-- RET (13 R334). -/
def execRet (s : State) : Out := .next <| jump s (BitVec.ofNat 32 (bitsAt s.w.link.toNat 2 30 * 4))

/-- Planes given to lanes, or PLANE_MISALIGNED when a lane names a plane that the kernel has not (13 R338). -/
def setPlanes (s : State) (m : Mask) (f : Nat → Nat) : State :=
  let bad := maskOf fun l => hasLane m l && s.w.code.planes < f l
  if bad ≠ 0 then raise s PLANE_MISALIGNED bad [laneVals bad f]
  else
    advance (s.modW fun w =>
      { w with planes := (List.range 128).map fun l => if hasLane m l then BitVec.ofNat 2 (f l) else w.planes.getD l 0 })

/-- PLSET (13 R338). -/
def execPlset (m : BitVec 5) (p : BitVec 2) (s : State) : Out := .next <| setPlanes s (s.active &&& s.w.mreg m.toNat) fun _ => p.toNat

/-- PLSW (13 R338). -/
def execPlsw (lit : Option W64) (a : Src) (s : State) : Out := .next <|
  if s.allLanes = 0 then advance s
  else match prep s [(a, 1)] [] with
  | .stop s => s
  | .go s => setPlanes s s.active fun l => s.w.opnd .n32 false lit l a

/-- LOOP (13 R336). -/
def execLoop (lit : Option W64) (n : Src) (off : BitVec 19) (step : Option (BitVec 6 × BitVec 6)) (s : State) : Out := .next <|
  let count : W32 := BitVec.ofNat 32 (s.w.opnd .n32 false lit 0 n)
  let stop := s.target off
  if count = 0 then jump s stop
  else
    let e : SEntry := { plainEntry .loop s.active stop s.w.iss.next with
      inc := step.isSome, sb := (step.map (·.1)).getD 0, sc := (step.map (·.2)).getD 0, count := count }
    pushOr s [e] advance

/-- LOOPX (13 R337). -/
def execLoopx (z : Bool) (a : BitVec 6) (s : State) : Out := .next <|
  if (s.w.sreg a.toNat == 0) != z then advance s
  else
    match s.w.stack with
    | e :: _ =>
      if e.kind == .loop then (dropTop s).modW fun w => { w with exec := w.gate e.mask, o := e.rpc }
      else raise s ILLEGAL_INSTRUCTION s.active []
    | [] => raise s ILLEGAL_INSTRUCTION s.active []

end Sys2Proof.Machine
end

