-- ==== Sys2Proof/Machine/Sync.lean ====
section
/-! DEFINITION. Major SYNC (12 R302 to R311) but for SPAWN and SPAWNU themselves, the completion of threads (R299), stolen continuations (R317) and the wake of a
channel's consumer (07 R169). -/
namespace Sys2Proof.Machine

/-! SPAWN and SPAWNU (12 R303 to R306). -/

/-- The node that a handle names to a spawn: a unit, or an entry; or what stops the instruction. -/
inductive SpawnTo where
  | unit (words : Nat)
  | entry (e : BitVec 512)
  | stop (s : State)

/-- Words of a record (12 R304). -/
def SpawnTo.words : SpawnTo → Nat
  | .unit n => n
  | .entry e => nodeWords e
  | .stop _ => 0

/-- The node of a handle, checked as R306 orders it. -/
def spawnNode (s : State) (h : W64) : State × SpawnTo :=
  let bad (s : State) := (s, SpawnTo.stop (raise0 s ENGINE_ID [h.toNat % 2 ^ 32]))
  if 2 ^ 16 ≤ h.toNat then bad s
  else if h.toNat = 0xFF00 then (s, .unit 4)
  else if h.toNat = 0xFF01 then (s, .unit 8)
  else
    match warpNode s h.toNat with
    | (s, .ok e) => if nodeInvalid e then bad s else (s, .entry e)
    | (s, .nothing) => bad s
    | (s, .fault f) => (s, .stop (raiseP s f))
    | (s, .poison pa) => (s, .stop (stallPoison s pa s.w.iss.pc))
    | (s, .wait) => (s, .stop (stall s))

/-- Room for the records of an issue, and counters below 4,095 in the slots that they count in (12 R297, R304). -/
def spawnRoom (s : State) (h : Nat) (dest : SpawnTo) (slots : List Nat) : Bool :=
  (match getFrame s s.w.frame with
    | some f => slots.all fun l => (if l < 128 then laneCount f l else f.warp) < 4095
    | none => false) &&
  match dest with
  | .entry e => binRoom s s.w.cluster s.ctx h (nodeWords e) slots.length
  | _ => true

/-- A raster record sent to every raster unit; each draws the tiles that it serves (11 R261; log 12). -/
def sendRaster (s : State) (r : Rec) : List Nat → State
  | [] => s
  | i :: is =>
    let x := getTower s (i / 4)
    sendRaster (setTower s (i / 4) { x with raster := tput x.raster (i % 4) (tgetD x.raster (i % 4) [] ++ [r]) }) r is

/-- One record sent: to the issuing cluster's bin, or to the units (12 R304, 11 R261, R285; log 12). -/
def emitRecord (s : State) (h : Nat) (dest : SpawnTo) (slot : Nat) (words : List W32) : State :=
  let w := s.w
  let s := countUp s w.frame slot
  match dest with
  | .entry e => addRecord s w.cluster s.ctx h (nodeTimer e) ⟨words, w.frame, slot, 0, 0, 0, w.home.qi, w.home.prio, w.home.cls, []⟩
  | _ =>
    let s := { s with uses := s.uses + 1 }
    let r : Rec := ⟨words, s.ctx, w.home.cls, w.frame, slot, s.uses⟩
    let t := towerOfCluster w.cluster
    if h = 0xFF00 then sendRaster s r (List.range 32) else setTower s t { getTower s t with frags := (getTower s t).frags ++ [r] }

/-- Records sent in order. -/
def emitRecords (h : Nat) (dest : SpawnTo) : List (Nat × List W32) → State → State
  | [], s => s
  | (slot, ws) :: rest, s => emitRecords h dest rest (emitRecord s h dest slot ws)

/-- The lanes that spawn: those of the issue but for helper lanes (11 R268). -/
def spawnLanes (s : State) : List Nat := maskLanes (s.lanes &&& ~~~ s.w.helpers)

/-! AWAIT (12 R307). -/

/-- The warp counter and the counters of some lanes of the warp's frame are zero. -/
def awaitDone (s : State) (w : Warp) (m : Mask) : Bool :=
  match getFrame s w.frame with
  | some f => f.warp == 0 && (maskLanes m).all fun l => laneCount f l == 0
  | none => true

/-- AWAIT: with nothing to wait for, the await edge at once (12 Table 12-7). -/
def execAwait (s : State) : Out := .next <|
  if awaitDone s s.w s.allLanes then advance (genBump s s.core)
  else advance (s.modW fun w => { w with wake := .await w.iss.all })

/-! Barriers (12 R308, R309). -/

/-- The arrived bit of a warp of a workgroup at a slot. -/
def barArrived (s : State) (w : Warp) (slot : Nat) : Bool :=
  match (w.groupId.bind (getGroup s)).bind fun g => tget g.bars slot with
  | some b => b.arrived.contains w.home.index
  | none => false

/-- The warp in focus arrives at a slot: the first arrival of a phase sets its expected count, and the phase is checked. -/
def barArrive (s : State) (slot count : Nat) : State :=
  match s.w.groupId with
  | none => s
  | some g =>
    let me := s.w.home.index
    let s := modGroup s g fun x =>
      let b : Barrier := match tget x.bars slot with
        | some b => b
        | none => ⟨0, count, []⟩
      { x with bars := tput x.bars slot { b with arrivals := b.arrivals + 1, arrived := me :: b.arrived } }
    barCheck s g slot

/-- What remains of a barrier instruction: 0 wait, 1 arrive, 2 arrive and wait. A satisfied wait is a barrier edge. -/
def barGo (s : State) (slot stage count : Nat) : State :=
  if barArrived s s.w slot then s.modW fun w => { w with wake := .barrier slot stage count }
  else
    match stage with
    | 0 => (genBump s s.core).modW fun w => { w with wake := .ready }
    | 1 => (barArrive s slot count).modW fun w => { w with wake := .ready }
    | _ =>
      let s := barArrive s slot count
      if barArrived s s.w slot then s.modW fun w => { w with wake := .barrier slot 0 count }
      else (genBump s s.core).modW fun w => { w with wake := .ready }

/-- BAR (12 R308). -/
def execBar (n : BitVec 5) (k : BitVec 3) (s : State) : Out := .next <| advance (barGo s k.toNat 2 n.toNat)
/-- BARA (12 R308). -/
def execBara (n : BitVec 5) (k : BitVec 3) (s : State) : Out := .next <| advance (barGo s k.toNat 1 n.toNat)
/-- BARW (12 R308). -/
def execBarw (k : BitVec 3) (s : State) : Out := .next <| advance (barGo s k.toNat 0 0)

/-! NODEQ and FRAMEQ (12 R310, R311). -/

/-- NODEQ. -/
def execNodeq (sh sd : BitVec 6) (s : State) : Out := .next <|
  let h := s.w.sreg sh.toNat
  match spawnNode s h with
  | (_, .stop s) => s
  | (s, dest) =>
    let held := match findBin (getCluster s s.w.cluster) s.ctx h.toNat with
      | some (_, b) => b.recs.length
      | none => 0
    let x := match dest with
      | .entry e => joinBits [(32, min held (2 ^ 32 - 1)), (7, nodeCount e - 1), (6, nodeWords e - 1)]
      | _ => joinBits [(32, 0), (7, 0), (6, dest.words - 1)]
    advance (setS s sd.toNat (BitVec.ofNat 64 x))

/-- FRAMEQ. -/
def execFrameq (lane : BitVec 8) (sd : BitVec 6) (s : State) : Out := .next <|
  let n := match getFrame s s.w.frame with
    | some f => if lane.toNat < 128 then laneCount f lane.toNat else f.warp
    | none => 0
  advance (setS s sd.toNat (BitVec.ofNat 64 n))

/-! Completion (12 R299, R300). -/

/-- Whether a thread may complete: it has exited, its counter is zero, and for the last lane of its warp so is the warp's. -/
def threadReady (f : Frame) (l : Nat) : Bool :=
  hasLane f.mask l && hasLane f.exited l && !hasLane f.done l && laneCount f l == 0 &&
    (f.warp == 0 || f.mask &&& ~~~ f.done &&& ~~~ BitVec.ofNat 128 (2 ^ l) != 0)

/-- A launch whose workgroups have all been placed and whose threads have all completed: its packet completes (12 R318). -/
def launchDone (s : State) (k : Nat) : State :=
  match tget s.launches k with
  | none => s
  | some x =>
    if x.next == x.total && x.left == 0 then
      completePacket { s with launches := tdel s.launches k } x.ctx x.qi x.seq 0 0 0 0
    else s

/-- A thread of a launch has completed. -/
def launchThread (s : State) (k : Nat) : State :=
  match tget s.launches k with
  | none => s
  | some x => launchDone { s with launches := tput s.launches k { x with left := x.left - 1 } } k

/-- A material warp of the tiles of some passes is done with them (11 R266). -/
def tilesLeft (s : State) : List (Nat × Nat) → State
  | [] => s
  | (p, t) :: rest =>
    let s := match tget s.passes p with
      | none => s
      | some x =>
        match tget x.tiles t with
        | none => s
        | some v => { s with passes := tput s.passes p { x with tiles := tput x.tiles t { v with warps := v.warps - 1 } } }
    tilesLeft s rest

/-- THREAD_COMPLETE (12 R299): the counter of the parent falls, or the launch has one thread less; the frame is gone with the
last thread of its warp. -/
def execThreadComplete (frame lane : Nat) (s : State) : Out := .next <|
  match getFrame s frame with
  | none => s
  | some f =>
    if !threadReady f lane then s
    else
      let f := { f with done := f.done ||| BitVec.ofNat 128 (2 ^ lane) }
      let s := setFrame s frame f
      let s := match tget f.parent lane with
        | some p => countDown s p.1 p.2
        | none => s
      let last := f.mask &&& ~~~ f.done == 0
      let s := if last then tilesLeft (dropFrame s frame f) f.tileOf else s
      match f.packet with
      | some (k, _) => launchThread s k
      | none => s

/-! Stolen continuations (12 R317). -/

/-- A core of the same cluster where a warp blocked in AWAIT, alone in its workgroup, fits with its allotment. -/
def stealFits (s : State) (w : Warp) (g : Group) (core lg : Nat) : Bool :=
  core < 640 && lg < 4 && clusterOfCore core == clusterOfCore w.home.core && core != w.home.core && liveWarps s g == 1 &&
  !(freeSlots s core).isEmpty && (warpsIn s core lg).length < 16 &&
  unitsUsed s core lg + tgetD g.reserve w.home.group 0 + 8 ≤ 1024 && scratchFits s core g.scratch

/-- A lease after a move (14 R357): on another island it is revalidated, and there or here its clock runs or is paused. -/
def moveLease (old : Home) (s : State) : State :=
  let cl := s.w.cluster
  let same := clusterOfCore old.core == cl && old.group == s.w.home.group
  if s.w.lease.left = 0 then s
  else if same || (boostable s cl && s.w.lease.level ≤ (getCluster s cl).power.leasemax) then repauseW s
  else
    modCtx (s.modW fun w => { w with lease := ⟨0, 0, false, 0⟩ }) s.ctx fun c => { c with leaseLost := c.leaseLost + 1 }

/-- CONTINUATION_STEAL: the old core writes back, the warp moves with its workgroup's reservation, and the new core's
generation advances. -/
def execContinuationSteal (warp core group : Nat) (s : State) : Out := .next <|
  match getWarp s warp with
  | none => s
  | some w =>
    match w.wake, w.groupId.bind (getGroup s), w.groupId with
    | .await _, some g, some gid =>
      if !(w.live && w.home.resident && stealFits s w g core group) then s
      else
        let slot := (freeSlots s core).headD 0
        let s := writeBackCtx (focus s warp) w.home.core w.home.ctx
        let lg := w.home.group
        let g := { g with reserve := [(group, tgetD g.reserve lg 0)], pool := [(group, tgetD g.pool lg 0)] }
        let s := joinCore s gid core g
        let s := s.modW fun w => { w with home := { w.home with core := core, group := group, slot := slot } }
        moveLease w.home (genBump s core)
    | _, _, _ => s

/-- CHANNEL_DEQUEUE_WAKE (07 R169, R170): a consumer that waits on a channel whose head slot is now full, or whose producers have
all exited, issues its read again. -/
def execChannelDequeueWake (warp : Nat) (s : State) : Out := .next <|
  match getWarp s warp with
  | none => s
  | some w =>
    match w.wake with
    | .channel c =>
      let s' := focus s warp
      match chanOf s' c with
      | some ch => if ch.slots.head? == some .full || (ch.slots.isEmpty && orphaned s' ch) then s'.modW fun w => { w with wake := .ready } else s
      | none => s'.modW fun w => { w with wake := .ready }
    | _ => s

end Sys2Proof.Machine
end

