-- ==== Sys2Proof/Machine/Raster.lean ====
section
/-! DEFINITION. Passes, raster records, CLOSE and CLASSIFY (11 R256 to R266, 05 R115 to R117). -/
namespace Sys2Proof.Machine

/-! Passes. -/

/-- A pass descriptor (11 Table 11-2). -/
structure PassDesc where
  vtbase  : Nat
  cltab   : Nat
  insttab : Nat
  w       : Nat
  h       : Nat
  clearz  : Nat
  mnode   : Nat
  cull    : Nat
  deriving DecidableEq, Repr

/-- The descriptor of 512 bits; none for a reserved value (11 R258). -/
def passDesc (x : Nat) : Option PassDesc :=
  let d : PassDesc := ⟨bitsAt x 0 64, bitsAt x 64 64, bitsAt x 128 64, bitsAt x 192 16, bitsAt x 208 16, bitsAt x 224 32, bitsAt x 256 16, bitsAt x 272 2⟩
  if d.vtbase % 256 = 0 && d.cltab % 16 = 0 && d.insttab % 64 = 0 && 1 ≤ d.w && d.w ≤ 16384 && 1 ≤ d.h && d.h ≤ 16384 &&
    d.cull ≠ 3 && bitsAt x 274 238 = 0 then some d else none

/-- A pass descriptor read by an engine. -/
def getPassDesc (s : State) (e : Engine) (ctx va : Nat) : State × Got (Option PassDesc) :=
  if va % 64 ≠ 0 then (s, .ok none)
  else
    match unitRead s (.engine e) (engineKey e) ctx va 64 with
    | (s, .ok bs) => (s, .ok (passDesc (leNat bs)))
    | (s, .fault f) => (s, .fault f)
    | (s, .poison pa) => (s, .poison pa)
    | (s, .wait) => (s, .wait)

/-- The pass of a descriptor VA in a context, with its key. -/
def findPass (s : State) (ctx : Nat) (va : Nat) : Option (Nat × Pass) := s.passes.find? fun p => p.2.ctx == ctx && p.2.va.toNat == va

/-- The key of a pass, which comes to be with the first record or command that names it. -/
def passKey (s : State) (ctx va : Nat) : State × Nat :=
  match findPass s ctx va with
  | some (k, _) => (s, k)
  | none =>
    ({ s with nextKey := s.nextKey + 2, passes := tput s.passes s.nextKey ⟨ctx, BitVec.ofNat 64 va, [], false, 0, false, 0, 0, 0⟩ }, s.nextKey)

def modPass (s : State) (p : Nat) (f : Pass → Pass) : State :=
  match tget s.passes p with
  | some x => { s with passes := tput s.passes p (f x) }
  | none => s

/-- A tile of a pass changed. -/
def modTile (s : State) (p t : Nat) (f : VTile → VTile) : State :=
  modPass s p fun x => match tget x.tiles t with
    | some v => { x with tiles := tput x.tiles t (f v) }
    | none => x

/-- What a pass's next CLOSE reports: the first event only (11 R257). -/
def notePass (s : State) (p status fva fword : Nat) : State :=
  modPass s p fun x => if x.status = 0 then { x with status := status, fva := BitVec.ofNat 64 fva, fword := BitVec.ofNat 32 fword } else x

/-- A pass about which nothing is left to know is forgotten. -/
def tidyPass (s : State) (p : Nat) : State :=
  match tget s.passes p with
  | some x => if x.tiles.isEmpty && !x.closed && x.status = 0 then { s with passes := tdel s.passes p } else s
  | none => s

/-! Tiles in their slots (05 R115 to R117). -/

/-- The tower whose L2 holds a tile. -/
def VTile.tower (t : VTile) : Nat := homeTower (t.sectors.headD 0)

/-- Tiles that occupy slots of a tower: pass, index, tile. -/
def tilesOf (s : State) (tower : Nat) : List (Nat × Nat × VTile) :=
  s.passes.flatMap fun p => p.2.tiles.filterMap fun t => if t.2.resident && t.2.tower == tower then some (p.1, t.1, t.2) else none

/-- Slots of a tower (05 R115, Table 05-1). -/
def slotsOf (s : State) (tower : Nat) : Nat := (getTower s tower).vtways * 16384

/-- The bytes of a resident tile. -/
def tileBytes (s : State) (t : VTile) : List Byte := t.sectors.flatMap fun pa => mreadN s.mem pa 32

/-- The address of a byte of a resident tile. -/
def VTile.at_ (t : VTile) (o : Nat) : Nat := t.sectors.getD (o / 32) 0 + o % 32

/-- A poisoned sector among bytes of a resident tile (05 R105). -/
def tilePoison (s : State) (ctx : Nat) (t : VTile) (o n : Nat) : Option Nat :=
  if poisoned s ctx (t.at_ o) n then some (t.at_ o) else none

/-- The write home of a tile: its home's own bytes come back, and its 24 sectors are written where its VAs now map. -/
def writeHome (s : State) (e : Engine) (ctx : Nat) (t : VTile) : State × Got Unit :=
  match (List.range 24).findSome? fun i => tilePoison s ctx t (32 * i) 32 with
  | some pa => (s, .poison pa)
  | none => unitWrite (restoreTile s t) (.engine e) (engineKey e) ctx t.va (tileBytes s t)

/-- One eviction (05 R116, 11 R265): a fault leaves the tile where it is, for good, and the pass's next CLOSE reports it; poison stops
the context (R105). -/
def evictTile (s : State) (e : Engine) (p i : Nat) (t : VTile) : State :=
  match tget s.passes p with
  | none => s
  | some x =>
    match writeHome s e x.ctx t with
    | (_, .fault f) => notePass (modTile s p i fun v => { v with stuck := true }) p 2 f.va f.word
    | (_, .poison pa) => poisonStop (modTile s p i fun v => { v with stuck := true }) x.ctx pa 0
    | (s, _) => modTile s p i fun v => { v with resident := false, old := [], bad := [] }

/-- The least recently used tile that may be evicted. -/
def victim (xs : List (Nat × Nat × VTile)) : Option (Nat × Nat × VTile) :=
  (xs.filter fun x => (x.2.2.state == .closed || x.2.2.state == .classified) && !x.2.2.stuck).foldl
    (fun (m : Option (Nat × Nat × VTile)) x => match m with
      | some y => some (if x.2.2.stamp < y.2.2.stamp then x else y)
      | none => some x) none

/-- A slot of a tower made free, if it can be: with as many victims tried as `n`. -/
def makeRoom (e : Engine) (tower : Nat) : Nat → State → State × Bool
  | 0, s => (s, false)
  | n + 1, s =>
    let xs := tilesOf s tower
    if xs.length < slotsOf s tower then (s, true)
    else
      match victim xs with
      | none => (s, false)
      | some (p, i, t) => makeRoom e tower n (evictTile s e p i t)

/-- What opening a tile comes to. -/
inductive Opened where
  | ok (s : State)
  | skip (s : State)
  | stall (s : State)
  | poison (s : State) (pa : Nat)

/-- The addresses of a tile's sectors, and whether every page of it is a vault page. -/
def tileSectors (e : Engine) (ctx va : Nat) : List Nat → State → List Nat → Bool → State × Except PFault (List Nat × Bool)
  | [], s, acc, vault => (s, .ok (acc.reverse, vault))
  | i :: is, s, acc, vault =>
    match translate s (.engine e) ctx .read ((va + 32 * i) % 2 ^ 64) 32 with
    | (s, .error f) => (s, .error f)
    | (s, .ok x) => tileSectors e ctx va is s (x.pa :: acc) (vault && x.place == 1)

/-- A tile was used now (05 R116). -/
def useTile (s : State) (p i : Nat) : State := modTile { s with uses := s.uses + 1 } p i fun v => { v with stamp := s.uses + 1 }

/-- A tile of a pass open for drawing by the unit of a tower, if it serves it (11 R258, R261, R264, 05 R116): one that is CLOSED takes
no more, and in a closed pass a tile opens CLOSING. -/
def openTile (s : State) (e : Engine) (tower p i : Nat) (d : PassDesc) : Opened :=
  match tget s.passes p with
  | none => .skip s
  | some x =>
    match tget x.tiles i with
    | some v => if v.tower == tower && (v.state == .open || v.state == .closing) then .ok (useTile s p i) else .skip s
    | none =>
      let va := (d.vtbase + 768 * i) % 2 ^ 64
      match tileSectors e x.ctx va (List.range 24) s [] true with
      | (s, .error f) =>
        match f.poison with
        | some pa => .poison s pa
        | none => .skip (notePass s p 2 f.va f.word)
      | (s, .ok (pas, vault)) =>
        if homeTower (pas.headD 0) ≠ tower then .skip s
        else if !vault then .skip (notePass s p 7 0 0)
        else
          match makeRoom e tower ((tilesOf s tower).length + 1) s with
          | (s, false) => .stall s
          | (s, true) =>
            let old := pas.flatMap fun pa => mreadN s.mem pa 32
            let fresh := leBytes 512 (2 ^ 4096 - 1) ++ (List.range 64).flatMap fun _ => leBytes 4 d.clearz
            let mine (q : Nat) : Bool := pas.any fun pa => pa / 32 == q
            let bad := s.poison.filter mine
            let s := { s with poison := s.poison.filter fun q => !mine q
                              mem := (List.range 24).foldl (fun m j => mwriteN m (pas.getD j 0) ((fresh.drop (32 * j)).take 32)) s.mem }
            let state : TileState := if x.closed then .closing else .open
            .ok (useTile (modPass s p fun x => { x with tiles := tput x.tiles i ⟨state, va, pas, old, bad, true, false, 0, 0⟩ }) p i)

/-! Triangles (11 R260 to R263). -/

/-- The FP32 sum of the products of a matrix row and a vertex: exact, and rounded once (11 R260). -/
def rowDot (row p : List Fv) : Nat :=
  (f32.round .rne false ((row.zip p).foldl (fun a q => (fvAdd .rne a (fvMul q.1 q.2).1).1) (.num false 0 0 false))).1

/-- A quotient rounded once. -/
def quo (a b : Nat) : Nat := (f32.round .rne false (fvDiv (f32.read a) (f32.read b)).1).1

/-- 256 times a finite FP32, rounded to an integer. -/
def fixed8 (x : Nat) : Int :=
  match f32.read x with
  | .num neg m e _ => if (roundAt .rne neg m (e + 8) false 0).1 = 0 then 0 else (if neg then -1 else 1) * ((roundAt .rne neg m (e + 8) false 0).1 : Int)
  | _ => 0

def isFinite (x : Nat) : Bool :=
  match f32.read x with
  | .num .. => true
  | _ => false

/-- A finite FP32 as an exact count of 2^-149. -/
def exactOf (x : Nat) : Int :=
  match coordOf x with
  | .fin i => i
  | _ => 0

/-- A transformed vertex: X, Y, and sz and 1/w as counts of 2^-149 (11 R260). -/
structure Vert where
  x  : Int
  y  : Int
  z  : Int
  iw : Int
  deriving DecidableEq, Repr

/-- A vertex transformed by a matrix of 16 words; none where R262 culls for it. -/
def transform (m : List Nat) (p : List Nat) : Option Vert :=
  let pv := p.map f32.read ++ [.num false 1 0 false]
  let c (r : Nat) : Nat := rowDot ((m.drop (4 * r)).take 4 |>.map f32.read) pv
  let c3 := c 3
  let sx := quo (c 0) c3
  let sy := quo (c 1) c3
  let sz := quo (c 2) c3
  let iw := quo 0x3F800000 c3
  let positive := match f32.read c3 with
    | .num false m _ _ => m != 0
    | .inf neg => !neg
    | _ => false
  if positive && isFinite sx && isFinite sy && isFinite sz && isFinite iw then some ⟨fixed8 sx, fixed8 sy, exactOf sz, exactOf iw⟩ else none

/-- A triangle set up: its vertices and A, which is not zero. -/
structure Tri where
  v : List Vert
  a : Int
  deriving DecidableEq, Repr

def Tri.vert (t : Tri) (i : Nat) : Vert := t.v.getD (i % 3) ⟨0, 0, 0, 0⟩

/-- A triangle of the bytes that follow a cluster's head (11 Table 11-3). -/
def triIndex (h : ClusterHead) (body : List Byte) (t k : Nat) : Nat := (body.getD (16 * h.nvert + 4 * t + k) 0).toNat

/-- A triangle set up under R260 and R262, but for CULL and the bound on X and Y. -/
def setupTri (m : List Nat) (h : ClusterHead) (body : List Byte) (t : Nat) : Option Tri :=
  let vs := (List.range 3).filterMap fun k =>
    let i := triIndex h body t k
    if i < h.nvert then transform m ((List.range 3).map fun c => wordAt body (16 * i + 4 * c)) else none
  match vs with
  | [p, q, r] =>
    let a := (q.x - p.x) * (r.y - p.y) - (q.y - p.y) * (r.x - p.x)
    if a = 0 then none else some ⟨vs, a⟩
  | _ => none

/-- Not culled by CULL or by the size of its coordinates. -/
def Tri.drawn (t : Tri) (cull : Nat) : Bool :=
  t.v.all (fun p => p.x.natAbs < 2 ^ 23 && p.y.natAbs < 2 ^ 23) && !(cull = 1 && t.a < 0) && !(cull = 2 && 0 < t.a)

def Tri.sign (t : Tri) : Int := if t.a < 0 then -1 else 1

/-- E[i] at a sample point (11 R263). -/
def Tri.edge (t : Tri) (i : Nat) (x y : Int) : Int :=
  let a := t.vert (i + 1)
  let b := t.vert (i + 2)
  t.sign * ((b.x - a.x) * (y - a.y) - (b.y - a.y) * (x - a.x))

def Tri.inclusive (t : Tri) (i : Nat) : Bool :=
  let a := t.vert (i + 1)
  let b := t.vert (i + 2)
  let dx := t.sign * (b.x - a.x)
  let dy := t.sign * (b.y - a.y)
  0 < dy || (dy == 0 && dx < 0)

/-- The sample point of a pixel. -/
def sampleAt (p : Nat) : Int := 256 * (p : Int) + 128

def Tri.covers (t : Tri) (px py : Nat) : Bool :=
  (List.range 3).all fun i =>
    let e := t.edge i (sampleAt px) (sampleAt py)
    0 < e || (e == 0 && t.inclusive i)

/-- The depth of a covered pixel. -/
def Tri.depth (t : Tri) (px py : Nat) : Nat :=
  let num := (List.range 3).foldl (fun n i => n + t.edge i (sampleAt px) (sampleAt py) * (t.vert i).z) 0
  Frac.f32 ⟨num, t.a.natAbs * 2 ^ 149⟩

/-- The tiles that a triangle's box touches inside the target. -/
def Tri.tiles (t : Tri) (d : PassDesc) : List Nat :=
  let lo (f : Vert → Int) : Nat := ((t.v.map f).foldl min ((t.v.map f).headD 0) / 2048).toNat
  let hi (f : Vert → Int) (n : Nat) : Nat := min (((t.v.map f).foldl max ((t.v.map f).headD 0) / 2048 + 1).toNat) n
  let tw := ceilDiv d.w 8
  let th := ceilDiv d.h 8
  let xs := (List.range (hi (·.x) tw)).drop (lo (·.x))
  ((List.range (hi (·.y) th)).drop (lo (·.y))).flatMap fun ty => xs.map fun tx => ty * tw + tx

/-- A fragment of a tile: pixel, depth, ID. -/
abbrev Frag := Nat × Nat × Nat

/-- The covered pixels of a tile. -/
def tileFrags (d : PassDesc) (inst cluster : Nat) (ts : List (Nat × Tri)) (i : Nat) : List Frag :=
  let tw := ceilDiv d.w 8
  ts.flatMap fun t => (List.range 64).filterMap fun p =>
    let px := i % tw * 8 + p % 8
    let py := i / tw * 8 + p / 8
    if px < d.w && py < d.h && t.2.covers px py then some (p, t.2.depth px py, visId inst cluster t.1) else none

/-- One pixel's test and replacement (11 R264). -/
def putFrag (t : VTile) (m : Mem) (f : Frag) : Mem :=
  let d := mreadLE m (t.at_ (512 + 4 * f.1)) 4
  let o := fvCmp (f32.read f.2.1) (f32.read d)
  if o.1 || (o.2 && f.2.2 < mreadLE m (t.at_ (8 * f.1)) 8) then
    mwriteLE (mwriteLE m (t.at_ (8 * f.1)) 8 f.2.2) (t.at_ (512 + 4 * f.1)) 4 f.2.1
  else m

/-- What a raster record comes to: done, or waiting for a slot, or for a remote byte, or stopped by poison. -/
inductive Drawn where
  | ok (s : State)
  | stall (s : State)
  | wait (s : State)
  | poison (s : State) (pa : Nat)

/-- A raster unit of a number serves a tile of a target (11 R261). -/
def servesTile (d : PassDesc) (k i : Nat) : Bool := (i % ceilDiv d.w 8 + i / ceilDiv d.w 8) % 4 == k

/-- The tiles of a record that a unit serves drawn, one by one. -/
def drawTiles (tower : Nat) (k : BitVec 2) (ctx p : Nat) (d : PassDesc) (inst cluster : Nat) (ts : List (Nat × Tri)) : List Nat → State → Drawn
  | [], s => .ok s
  | i :: is, s =>
    match if servesTile d k.toNat i then tileFrags d inst cluster ts i else [] with
    | [] => drawTiles tower k ctx p d inst cluster ts is s
    | fs =>
      match openTile s (.raster tower k) tower p i d with
      | .stall s => .stall s
      | .poison s pa => .poison s pa
      | .skip s => drawTiles tower k ctx p d inst cluster ts is s
      | .ok s =>
        match (tget s.passes p).bind fun x => tget x.tiles i with
        | none => drawTiles tower k ctx p d inst cluster ts is s
        | some t =>
          match fs.findSome? fun f => (tilePoison s ctx t (512 + 4 * f.1) 4).orElse fun _ => tilePoison s ctx t (8 * f.1) 8 with
          | some pa => .poison s pa
          | none => drawTiles tower k ctx p d inst cluster ts is { s with mem := fs.foldl (putFrag t) s.mem }

/-- A cluster of a pass: its head and the bytes after it. -/
inductive ClusterGot where
  | ok (h : ClusterHead) (body : List Byte) (mat : Nat)
  | bad
  | fault (f : PFault)
  | poison (pa : Nat)
  | wait

/-- A cluster's entry and data read by an engine (11 R259). -/
def getClusterData (s : State) (e : Engine) (ctx cltab c : Nat) : State × ClusterGot :=
  let u := Walker.engine e
  let stop {α : Type} (r : State × Got α) : State × ClusterGot := match r with
    | (s, .fault f) => (s, .fault f)
    | (s, .poison pa) => (s, .poison pa)
    | (s, _) => (s, .wait)
  match unitRead s u (engineKey e) ctx ((cltab + 16 * c) % 2 ^ 64) 16 with
  | (s, .ok bs) =>
    let x := leNat bs
    let data := bitsAt x 0 64
    if bitsAt x 80 48 ≠ 0 || data % 32 ≠ 0 then (s, .bad)
    else
      match unitRead s u (engineKey e) ctx data 32 with
      | (s, .ok hd) =>
        match clusterHead (leNat hd) with
        | none => (s, .bad)
        | some h =>
          match unitRead s u (engineKey e) ctx (data + 32) (16 * h.nvert + 4 * h.ntri) with
          | (s, .ok body) =>
            if (List.range h.ntri).any fun t => triIndex h body t 3 != 0 then (s, .bad) else (s, .ok h body (bitsAt x 64 16))
          | r => stop r
      | r => stop r
  | r => stop r

/-- The clip matrix of an instance. -/
def getMatrix (s : State) (e : Engine) (ctx insttab inst : Nat) : State × Got (List Nat) :=
  match unitRead s (.engine e) (engineKey e) ctx ((insttab + 64 * inst) % 2 ^ 64) 64 with
  | (s, .ok bs) => (s, .ok ((List.range 16).map fun i => wordAt bs (4 * i)))
  | (s, .fault f) => (s, .fault f)
  | (s, .poison pa) => (s, .poison pa)
  | (s, .wait) => (s, .wait)

/-- What a raster record comes to before it is drawn: its triangles; nothing to draw, with what is reported; or what a read met. -/
inductive SetUp where
  | ok (d : PassDesc) (inst cluster : Nat) (ts : List (Nat × Tri))
  | nothing (status fva fword : Nat)
  | poison (pa : Nat)
  | wait

/-- A raster record's triangles set up by a unit (11 R261, R262). -/
def setUpRecord (s : State) (e : Engine) (ctx : Nat) (ws : List W32) : State × SetUp :=
  let w (i : Nat) : Nat := (ws.getD i 0).toNat
  match getPassDesc s e ctx (w 0 + 2 ^ 32 * w 1) with
  | (s, .fault f) => (s, .nothing 2 f.va f.word)
  | (s, .poison pa) => (s, .poison pa)
  | (s, .wait) => (s, .wait)
  | (s, .ok none) => (s, .nothing 1 0 0)
  | (s, .ok (some d)) =>
    let inst := w 2 % 2 ^ 24
    if w 2 / 2 ^ 24 ≠ 0 then (s, .nothing 1 0 0)
    else if inst = 2 ^ 24 - 1 then (s, .nothing 0 0 0)
    else
      match getClusterData s e ctx d.cltab (w 3) with
      | (s, .bad) => (s, .nothing 1 0 0)
      | (s, .fault f) => (s, .nothing 2 f.va f.word)
      | (s, .poison pa) => (s, .poison pa)
      | (s, .wait) => (s, .wait)
      | (s, .ok h body _) =>
        match getMatrix s e ctx d.insttab inst with
        | (s, .fault f) => (s, .nothing 2 f.va f.word)
        | (s, .poison pa) => (s, .poison pa)
        | (s, .wait) => (s, .wait)
        | (s, .ok m) =>
          (s, .ok d inst (w 3) ((List.range h.ntri).filterMap fun t =>
            (setupTri m h body t).bind fun x => if x.drawn d.cull then some (t, x) else none))

/-- The pass descriptor's VA in a raster record. -/
def Rec.passVA (r : Rec) : Nat := (r.words.getD 0 0).toNat + 2 ^ 32 * (r.words.getD 1 0).toNat

/-- A raster record drawn by a unit (11 R261 to R265): a record that a CLOSE did not find sent is late. -/
def drawRecord (s : State) (tower : Nat) (k : BitVec 2) (r : Rec) : Drawn :=
  let (s, p) := passKey s r.ctx r.passVA
  if ((tget s.passes p).map fun x => x.closed && decide (x.closedAt < r.id)).getD false then .ok (notePass s p 6 0 0)
  else
    match setUpRecord s (.raster tower k) r.ctx r.words with
    | (s, .nothing st fva fword) => .ok (if st = 0 then s else notePass s p st fva fword)
    | (s, .poison pa) => .poison s pa
    | (s, .wait) => .wait s
    | (s, .ok d inst c ts) => drawTiles tower k r.ctx p d inst c ts ((ts.flatMap fun t => t.2.tiles d).eraseDups) s

/-- The records that raster units hold, with their units. -/
def rasterRecs (s : State) : List (Nat × BitVec 2 × Rec) :=
  s.towers.flatMap fun t => t.2.raster.flatMap fun q => q.2.map fun r => (t.1, BitVec.ofNat 2 q.1, r)

/-- RASTER_RECORD: the oldest record of a raster unit drawn there; with the last unit's part its thread's count falls (11 R261). -/
def execRasterRecord (tower : Nat) (k : BitVec 2) (s : State) : Out := .next <|
  let e := Engine.raster tower k
  match tgetD (getTower s tower).raster k.toNat [] with
  | [] => s
  | r :: rest =>
    if !engineRuns s r.ctx then s
    else
      match drawRecord s tower k r with
      | .stall s => s
      | .wait s => s
      | .poison s pa => poisonStop s r.ctx pa 0
      | .ok s =>
        let s := setTower s tower { getTower s tower with raster := tput (getTower s tower).raster k.toNat rest }
        let s := s.passes.foldl (fun s p => tidyPass s p.1) (dropRemotes s (engineKey e))
        let s := pulse s r.ctx
        if (rasterRecs s).any fun x => x.2.2.id == r.id then s else countDown s r.frame r.lane

/-! CLOSE (11 R265). -/

/-- A raster record that names a pass, of number at most `n`, is on its way at some unit. -/
def rasterPending (s : State) (ctx va n : Nat) : Bool :=
  (rasterRecs s).any fun x => x.2.2.ctx == ctx && x.2.2.passVA == va && x.2.2.id ≤ n

/-- A record that is not late may still draw into a tile (05 Table 05-6). -/
def tileDraining (s : State) (x : Pass) (i : Nat) : Bool :=
  (rasterRecs s).any fun q =>
    q.2.2.ctx == x.ctx && q.2.2.passVA == x.va.toNat && q.2.2.id ≤ x.closedAt &&
      match (setUpRecord s (.raster q.1 q.2.1) q.2.2.ctx q.2.2.words).2 with
      | .ok d inst c ts => servesTile d q.2.1.toNat i && !(tileFrags d inst c ts i).isEmpty
      | .wait => true
      | _ => false

/-- The fields of a graphics command hold no reserved value: OP 0, Q0 and Q7 plain, and zeros where R265, R266 and R286 ask. -/
def gfxFieldsOk (c : Cmd) (q2 : Nat) (zeros : List Nat) : Bool :=
  cmdOp c = 0 && cmdPlain c && cmdWord c 2 < q2 && zeros.all fun i => cmdWord c i == 0

/-- CLOSE: on its arrival the open tiles are closing and records sent later are late; it completes when every record sent before it has
completed and every tile is closed (11 R265; log 57). -/
def execClose (tower : Nat) (k : BitVec 2) (s : State) : Out := .next <|
  let e := Engine.raster tower k
  match engineQueue s e with
  | [] => s
  | c :: _ =>
    let va := cmdWord c 1
    if !engineRuns s c.ctx then s
    else if !gfxFieldsOk c 2 [3, 4, 5, 6] then finishHead s e c (Report.plain 1)
    else
      match getPassDesc s e c.ctx va with
      | (s, .fault f) => finishHead s e c ⟨2, 0, 0, f.va, f.word⟩
      | (s, .poison pa) => poisonStop s c.ctx pa 0
      | (s, .wait) => s
      | (s, .ok none) => finishHead s e c (Report.plain 1)
      | (s, .ok (some _)) =>
        let (s, p) := passKey s c.ctx va
        let s := if c.started then s else
          setEngineQueue (modPass s p fun x => { x with
            closed := true, keep := cmdWord c 2 = 1, closedAt := if x.closed then x.closedAt else s.uses
            tiles := x.tiles.map fun t => (t.1, if t.2.state == .open then { t.2 with state := .closing } else t.2) })
            e ({ c with started := true } :: (engineQueue s e).tail)
        match tget s.passes p with
        | none => s
        | some x =>
          if rasterPending s c.ctx va (max c.order x.closedAt) || x.tiles.any fun t => t.2.state == .open || t.2.state == .closing then s
          else
            finishHead (modPass s p fun x => { x with status := 0, fva := 0, fword := 0 }) e c
              ⟨x.status, 0, 0, x.fva.toNat, x.fword.toNat⟩

/-- TILE_CLOSED: a CLOSING tile whose writes are all performed (05 Table 05-6). -/
def execTileClosed (pass tile : Nat) (s : State) : Out := .next <|
  match tget s.passes pass with
  | none => s
  | some x => if tileDraining s x tile then s else modTile s pass tile fun v => if v.state == .closing then { v with state := .closed } else v

/-! CLASSIFY (11 R266). -/

/-- What a classify engine reports: the first event only. -/
def noteClassify (s : State) (cl status fva fword : Nat) : State :=
  modCluster s cl fun k => { k with classify := k.classify.map fun x =>
    if x.status = 0 then { x with status := status, fva := BitVec.ofNat 64 fva, fword := BitVec.ofNat 32 fword } else x }

/-- The material of an ID of a pass, none when the pixel is made empty. -/
def materialOf (cl : Nat) (ctx : Nat) (d : PassDesc) (s : State) (id : Nat) : State × Got (Option Nat) :=
  let e := Engine.classify cl
  if id = 2 ^ 64 - 1 then (s, .ok none)
  else
    match unitRead s (.engine e) (engineKey e) ctx ((d.cltab + 16 * bitsAt id 8 32) % 2 ^ 64) 16 with
    | (s, .ok bs) =>
      let x := leNat bs
      if bitsAt x 80 48 ≠ 0 || bitsAt x 0 5 ≠ 0 then (noteClassify s cl 1 0 0, .ok none) else (s, .ok (some (bitsAt x 64 16)))
    | (s, .fault f) => (noteClassify s cl 2 f.va f.word, .ok none)
    | (s, .poison pa) => (s, .poison pa)
    | (s, .wait) => (s, .wait)

/-- An ID of a tile, from its slot or from its home once it is evicted (05 R116). -/
def tileId (cl ctx : Nat) (t : VTile) (s : State) (p : Nat) : State × Got Nat :=
  if t.resident then
    match tilePoison s ctx t (8 * p) 8 with
    | some pa => (s, .poison pa)
    | none => (s, .ok (mreadLE s.mem (t.at_ (8 * p)) 8))
  else
    let e := Engine.classify cl
    match unitRead s (.engine e) (engineKey e) ctx (t.va + 8 * p) 8 with
    | (s, .ok bs) => (s, .ok (leNat bs))
    | (s, .fault f) => (noteClassify s cl 2 f.va f.word, .ok (2 ^ 64 - 1))
    | (s, .poison pa) => (s, .poison pa)
    | (s, .wait) => (s, .wait)

/-- The pixels of quad q of a tile. -/
def quadPixels (q : Nat) : List Nat := (List.range 4).map fun i => 8 * (2 * (q / 4) + i / 2) + 2 * (q % 4) + i % 2

/-- Materials in ascending order, each once. -/
def ascending (xs : List Nat) : List Nat := (xs.foldr (fun x acc => acc.takeWhile (· < x) ++ x :: acc.dropWhile (· < x)) []).eraseDups

/-- Quad records of one quad emitted, material by material; none when a bin has no room, or what a read met. -/
def emitQuads (cl : Nat) (c : Cmd) (d : PassDesc) (p i x0 y0 : Nat) (mats : List (Option Nat)) : List Nat → State → State × Got Bool
  | [], s => (s, .ok true)
  | m :: ms, s =>
    let e := Engine.classify cl
    let node := (d.mnode + m) % 2 ^ 16
    let live := (List.range 4).foldl (fun n j => n + if mats.getD j none == some m then 2 ^ j else 0) 0
    match readNode s (.engine e) (engineKey e) cl c.ctx node with
    | (s, .nothing) => emitQuads cl c d p i x0 y0 mats ms (noteClassify s cl 1 0 0)
    | (s, .fault f) => emitQuads cl c d p i x0 y0 mats ms (noteClassify s cl 2 f.va f.word)
    | (s, .poison pa) => (s, .poison pa)
    | (s, .wait) => (s, .wait)
    | (s, .ok ent) =>
      if nodeInvalid ent then emitQuads cl c d p i x0 y0 mats ms (noteClassify s cl 1 0 0)
      else if !binRoom s cl c.ctx node 4 1 then (s, .ok false)
      else
        let words := [x0 + 2 ^ 16 * y0, live, cmdWord c 1, cmdWord c 1 / 2 ^ 32].map (BitVec.ofNat 32)
        emitQuads cl c d p i x0 y0 mats ms (addRecord s cl c.ctx node (nodeTimer ent) ⟨words, 0, 0, 1, p, i, c.qi, c.prio, c.cls, []⟩)

/-- One quad of a tile classified; the tile is CLASSIFIED after its last. -/
def classifyQuad (s0 : State) (cl : Nat) (c : Cmd) (d : PassDesc) (p i q : Nat) (t : VTile) : State :=
  let tw := ceilDiv d.w 8
  let s := useTile s0 p i
  match gotAll (tileId cl c.ctx t) (quadPixels q) s [] false with
  | (s, .poison pa) => poisonStop s c.ctx pa 0
  | (s, .ok ids) =>
    match gotAll (materialOf cl c.ctx d) ids s [] false with
    | (s, .poison pa) => poisonStop s c.ctx pa 0
    | (s, .ok mats) =>
      match emitQuads cl c d p i (i % tw * 8 + 2 * (q % 4)) (i / tw * 8 + 2 * (q / 4)) mats (ascending (mats.filterMap id)) s with
      | (s, .poison pa) => poisonStop s c.ctx pa 0
      | (s, .ok true) =>
        let s := if q = 15 then modTile s p i fun v => { v with state := .classified } else s
        modCluster (dropRemotes s (engineKey (.classify cl))) cl fun k => { k with classify := k.classify.map fun x => { x with next := 16 * i + q + 1 } }
      | (_, .ok false) => s0
      | (s, _) => { s0 with remotes := s.remotes, link := s.link }
    | (s, _) => { s0 with remotes := s.remotes, link := s.link }
  | (s, _) => { s0 with remotes := s.remotes, link := s.link }

/-- A CLASSIFY command completes: its pass is closed no more. -/
def finishClassify (s : State) (cl : Nat) (c : Cmd) (x : Classify) : State :=
  let s := modCluster s cl fun k => { k with classify := none }
  let s := tidyPass (modPass s x.pass fun p => { p with closed := false }) x.pass
  finishHead s (.classify cl) c ⟨x.status, 0, 0, x.fva.toNat, x.fword.toNat⟩

/-- The same of a command whose descriptor cannot be used, started or not. -/
def failClassify (s : State) (cl : Nat) (c : Cmd) (status fva fword : Nat) : State :=
  match (getCluster s cl).classify with
  | some x => finishClassify s cl c (if x.status = 0 then ⟨x.pass, 0, status, BitVec.ofNat 64 fva, BitVec.ofNat 32 fword⟩ else x)
  | none => finishHead s (.classify cl) c ⟨status, 0, 0, fva, fword⟩

/-- CLASSIFY: the command starts once the pass is closed, takes one quad at a time, and completes when every tile it classified
is released. -/
def execClassify (cluster : Nat) (s : State) : Out := .next <|
  let e := Engine.classify cluster
  match engineQueue s e with
  | [] => s
  | c :: _ =>
    if !engineRuns s c.ctx then s
    else if !gfxFieldsOk c 1 [3, 4, 5, 6] then finishHead s e c (Report.plain 1)
    else
      match getPassDesc s e c.ctx (cmdWord c 1) with
      | (s, .fault f) => failClassify s cluster c 2 f.va f.word
      | (s, .poison pa) => poisonStop s c.ctx pa 0
      | (s, .wait) => s
      | (s, .ok none) => failClassify s cluster c 1 0 0
      | (s, .ok (some d)) =>
        match (getCluster s cluster).classify with
        | none =>
          match findPass s c.ctx (cmdWord c 1) with
          | some (p, x) => if x.closed then modCluster s cluster fun k => { k with classify := some ⟨p, 0, 0, 0, 0⟩ } else s
          | none => s
        | some x =>
          match tget s.passes x.pass with
          | none => finishClassify s cluster c x
          | some p =>
            if rasterPending s c.ctx (cmdWord c 1) p.closedAt then s
            else match p.tiles.find? fun t => x.next / 16 ≤ t.1 && t.2.state != .classified with
            | some (i, t) =>
              if t.state == .closed then classifyQuad s cluster c d x.pass i (if x.next / 16 = i then x.next % 16 else 0) t else s
            | none => if p.tiles.isEmpty then finishClassify s cluster c x else s

/-- A bin holds a record of a tile. -/
def tileInBins (s : State) (p t : Nat) : Bool :=
  s.clusters.any fun k => k.2.bins.any fun b => b.2.recs.any fun r => r.kind == 1 && r.pass == p && r.tile == t

/-- The cluster that classifies a pass. -/
def classifierOf (s : State) (p : Nat) : Option Nat :=
  (s.clusters.find? fun k => (k.2.classify.map (·.pass)) == some p).map (·.1)

/-- TILE_RELEASE (05 Table 05-6, 11 R265): a classified tile whose material warps have all completed is written home or
discarded, and its slot is free. -/
def execTileRelease (pass tile : Nat) (s : State) : Out := .next <|
  match tget s.passes pass with
  | none => s
  | some x =>
    match tget x.tiles tile with
    | none => s
    | some t =>
      if t.state != .classified || t.warps != 0 || tileInBins s pass tile then s
      else
        let cl := (classifierOf s pass).getD 0
        let s := if t.resident && x.keep then
            match writeHome s (.classify cl) x.ctx t with
            | (s, .fault f) => noteClassify s cl 2 f.va f.word
            | (_, .poison pa) => poisonStop (restoreTile s t) x.ctx pa 0
            | (s, _) => s
          else restoreTile s t
        modPass s pass fun x => { x with tiles := tdel x.tiles tile }

end Sys2Proof.Machine
end

