-- ==== Sys2Proof/Machine/Blend.lean ====
section
/-! DEFINITION. The blenders: fragment records and ADVANCE (11 R285 to R287). -/
namespace Sys2Proof.Machine

/-- The image descriptor of a target read by an engine; none for a reserved value or an address off its alignment. -/
def getTarget (s : State) (e : Engine) (ctx va : Nat) : State × Got (Option ImgDesc) :=
  if va % 64 ≠ 0 then (s, .ok none)
  else
    match unitRead s (.engine e) (engineKey e) ctx va 64 with
    | (s, .ok bs) => (s, .ok (readDesc (leNat bs)))
    | (s, .fault f) => (s, .fault f)
    | (s, .poison pa) => (s, .poison pa)
    | (s, .wait) => (s, .wait)

/-- A blender's entry for a target, or a fresh one. -/
def targetOf (s : State) (tower ctx va : Nat) : Target :=
  ((getTower s tower).targets.find? fun t => t.ctx == ctx && t.va == va).getD ⟨ctx, va, 0, [], 0, 0, 0⟩

def putTarget (s : State) (tower : Nat) (t : Target) : State :=
  let x := getTower s tower
  setTower s tower { x with targets := t :: x.targets.filter fun y => !(y.ctx == t.ctx && y.va == t.va) }

/-- The watermark of a target, which its context's ADVANCEs have raised (11 R286). -/
def watermark (s : State) (ctx va : Nat) : Nat :=
  s.towers.foldl (fun n p => p.2.targets.foldl (fun n t => if t.ctx == ctx && t.va == va then max n t.mark else n) n) 0

/-- What the next ADVANCE of a target reports: the first event only (11 R257). -/
def noteTarget (s : State) (tower ctx va status fva fword : Nat) : State :=
  let t := targetOf s tower ctx va
  putTarget s tower (if t.status = 0 then { t with status := status, fva := BitVec.ofNat 64 fva, fword := BitVec.ofNat 32 fword } else t)

/-- One channel of a blend (11 R285): source, source alpha, target. -/
def blendChannel (op s sa d : Nat) : Nat :=
  let n := d * (255 - sa)
  match op with
  | 0 => min 255 (s + (n / 255 + if 255 < 2 * (n % 255) then 1 else 0))
  | 1 => min 255 (s + d)
  | _ => s

/-- A pixel blended with a colour. -/
def blendPixel (op s d : Nat) : Nat :=
  joinBits ((List.range 4).map fun c => (8, blendChannel op (bitsAt s (8 * c) 8) (bitsAt s 24 8) (bitsAt d (8 * c) 8)))

/-- What a fragment's blending comes to. -/
inductive Blended where
  | ok (s : State)
  | dropped (s : State) (status fva fword : Nat)
  | poison (s : State) (pa : Nat)
  | wait (s : State)

/-- One fragment blended into a pixel of a tile, of a compressed target as R278 and R279 say. -/
def blendOne (s : State) (e : Engine) (ctx : Nat) (d : ImgDesc) (tile pixel op colour : Nat) : Blended :=
  let u := Walker.engine e
  let who := engineKey e
  let read (s : State) (va n : Nat) (k : State → Nat → Blended) : Blended :=
    match unitRead s u who ctx (va % 2 ^ 64) n with
    | (s, .ok bs) => k s (leNat bs)
    | (s, .fault f) => .dropped s 2 f.va f.word
    | (s, .poison pa) => .poison s pa
    | (s, .wait) => .wait s
  let write (s : State) (va : Nat) (bs : List Byte) (k : State → Blended) : Blended :=
    match unitWrite s u who ctx (va % 2 ^ 64) bs with
    | (s, .fault f) => .dropped s 2 f.va f.word
    | (s, .poison pa) => .poison s pa
    | (s, _) => k s
  let at_ := d.base + 256 * tile
  if d.meta_ = 0 then
    read s (at_ + 4 * pixel) 4 fun s x => write s (at_ + 4 * pixel) (leBytes 4 (blendPixel op colour x)) .ok
  else
    read s (d.meta_ + tile) 1 fun s m =>
      if modeReserved m then .dropped s 1 0 0
      else
        read s at_ 256 fun s x =>
          let px := decodeTile m d.clear x
          let (m', bytes) := encodeTile d.clear (listSet px pixel (blendPixel op colour (px.getD pixel 0)))
          -- both writes take place or neither (R279)
          let both (k : State → (State → Blended) → Blended) : Blended :=
            match k s fun t => write t (d.meta_ + tile) [BitVec.ofNat 8 m'] .ok with
            | .dropped _ st a f => .dropped s st a f
            | r => r
          both fun s mode => match bytes with
            | some b => write s at_ (leBytes 256 b) mode
            | none => mode s

/-- A fragment that may be held: its pixel holds fewer than 8, its tile has a store or one is free (11 R287). -/
def canHold (s : State) (tower ctx va tile pixel : Nat) : Bool :=
  let t := targetOf s tower ctx va
  let stores := ((getTower s tower).targets.flatMap fun x => x.held.map fun h => (x.ctx, x.va, h.1)).eraseDups
  (t.held.filter fun h => h.1 == tile && h.2.1 == pixel).length < 8 && (stores.contains (ctx, va, tile) || stores.length < 256)

/-- A target that a blender tracks or can begin to track (11 R287). -/
def canTrack (s : State) (tower ctx va : Nat) : Bool :=
  (getTower s tower).targets.any (fun t => t.ctx == ctx && t.va == va) || (getTower s tower).targets.length < 64

/-- What a fragment record comes to: taken, or waiting for room (`none`), for a remote byte, or stopped by poison. -/
inductive Taken where
  | ok (s : State)
  | stall
  | wait (s : State)
  | poison (s : State) (pa : Nat)

/-- A fragment record at the blender of a tower (11 R285, R286). -/
def takeFragment (s : State) (tower ctx : Nat) (ws : List W32) : Taken :=
  let e := Engine.blend tower
  let w (i : Nat) : Nat := (ws.getD i 0).toNat
  let va := w 0 + 2 ^ 32 * w 1
  let drop (s : State) (t status fva fword : Nat) : Taken :=
    if canTrack s t ctx va then .ok (noteTarget s t ctx va status fva fword) else .stall
  match getTarget s e ctx va with
  | (s, .fault f) => drop s tower 2 f.va f.word
  | (s, .poison pa) => .poison s pa
  | (s, .wait) => .wait s
  | (s, .ok none) => drop s tower 1 0 0
  | (s, .ok (some d)) =>
    let x := w 2 % 65536
    let y := w 2 / 65536
    if d.fmt ≠ 0 || 3 ≤ w 5 || w 6 ≠ 0 || w 7 ≠ 0 || !inLevel d 0 x y then drop s tower 1 0 0
    else
      let (tile, off) := tileOf d 0 x y
      match translate s (.engine e) ctx .write ((d.base + 256 * tile + off) % 2 ^ 64) 4 with
      | (s, .error f) => match f.poison with
        | some pa => .poison s pa
        | none => drop s tower 2 f.va f.word
      | (s, .ok at_) =>
        let home := homeTower at_.pa
        if !canTrack s home ctx va then .stall
        else if w 3 < watermark s ctx va then
          match blendOne s e ctx d tile (off / 4) (w 5) (w 4) with
          | .ok s => .ok (noteTarget s home ctx va 6 0 0)
          | .dropped s st a f => .ok (noteTarget s home ctx va st a f)
          | .poison s pa => .poison s pa
          | .wait s => .wait s
        else if !canHold s home ctx va tile (off / 4) then .stall
        else
          let t := targetOf s home ctx va
          .ok (putTarget s home { t with held := t.held ++ [(tile, off / 4, w 3, w 5, w 4)] })

/-- FRAGMENT_RECORD: the oldest fragment of a tower taken by the blender of its tile's home, and its thread's count lowered
(12 R301). -/
def execFragmentRecord (tower : Nat) (s : State) : Out := .next <|
  match (getTower s tower).frags with
  | [] => s
  | r :: rest =>
    if !engineRuns s r.ctx then s
    else
      match takeFragment s tower r.ctx r.words with
      | .stall => s
      | .wait s' => { s with remotes := s'.remotes, link := s'.link }
      | .poison s pa => poisonStop s r.ctx pa 0
      | .ok s =>
        let s := dropRemotes (setTower s tower { getTower s tower with frags := rest }) (engineKey (.blend tower))
        countDown (pulse s r.ctx) r.frame r.lane

/-- Held fragments in ascending key order. -/
def byKey (xs : List (Nat × Nat × Nat × Nat × Nat)) : List (Nat × Nat × Nat × Nat × Nat) :=
  xs.foldr (fun x acc => acc.takeWhile (fun y => y.2.2.1 < x.2.2.1) ++ x :: acc.dropWhile (fun y => y.2.2.1 < x.2.2.1)) []

/-- Fragments blended in order; the first event is noted in the tower's entry. -/
def blendAll (e : Engine) (tower ctx va : Nat) (d : ImgDesc) : List (Nat × Nat × Nat × Nat × Nat) → State → Blended
  | [], s => .ok s
  | (tile, px, _, op, colour) :: rest, s =>
    match blendOne s e ctx d tile px op colour with
    | .ok s => blendAll e tower ctx va d rest s
    | .dropped s st a f => blendAll e tower ctx va d rest (noteTarget s tower ctx va st a f)
    | r => r

/-- Every held fragment of a target below a watermark blended, in every tower. -/
def advanceAll (e : Engine) (ctx va k : Nat) (d : Option ImgDesc) : List Nat → State → Blended
  | [], s => .ok s
  | t :: ts, s =>
    let x := targetOf s t ctx va
    let due := byKey (x.held.filter fun h => h.2.2.1 < k)
    match due, d with
    | [], _ => advanceAll e ctx va k d ts s
    | _, none => advanceAll e ctx va k d ts (noteTarget (putTarget s t { x with held := x.held.filter fun h => k ≤ h.2.2.1 }) t ctx va 1 0 0)
    | _, some d' =>
      match blendAll e t ctx va d' due (putTarget s t { x with held := x.held.filter fun h => k ≤ h.2.2.1 }) with
      | .ok s => advanceAll e ctx va k d ts s
      | r => r

/-- A fragment of a target waits in some queue. -/
def fragmentPending (s : State) (ctx va : Nat) : Bool :=
  s.towers.any fun t => t.2.frags.any fun r =>
    r.ctx == ctx && (r.words.getD 0 0).toNat + 2 ^ 32 * (r.words.getD 1 0).toNat == va

/-- The first event noted of a target, in ascending towers. -/
def targetReport (s : State) (ctx va : Nat) : Report :=
  match (s.towers.flatMap fun p => p.2.targets).find? fun t => t.ctx == ctx && t.va == va && t.status != 0 with
  | some t => ⟨t.status, 0, 0, t.fva.toNat, t.fword.toNat⟩
  | none => Report.plain 0

/-- The entries of a target once it has been advanced: statuses cleared, and none left when K = 2^32 (11 R286). -/
def settleTarget (s : State) (tower ctx va k : Nat) : State :=
  let mine (t : Target) : Bool := t.ctx == ctx && t.va == va
  let s := if k = 2 ^ 32 then s else putTarget s tower { targetOf s tower ctx va with mark := k }
  { s with towers := s.towers.map fun p => (p.1, { p.2 with
      targets := if k = 2 ^ 32 then p.2.targets.filter fun t => !mine t
        else p.2.targets.map fun t => if mine t then { t with status := 0, fva := 0, fword := 0, mark := k } else t }) }

/-- ADVANCE (11 R286). -/
def execAdvance (tower : Nat) (s : State) : Out := .next <|
  let e := Engine.blend tower
  match engineQueue s e with
  | [] => s
  | c :: _ =>
    let va := cmdWord c 1
    if !engineRuns s c.ctx then s
    else if !gfxFieldsOk c (2 ^ 32 + 1) [3, 4, 5, 6] then finishHead s e c (Report.plain 1)
    else if fragmentPending s c.ctx va then s
    else
      let k := max (cmdWord c 2) (watermark s c.ctx va)
      let go (s' : State) (d : Option ImgDesc) : State :=
        match advanceAll e c.ctx va k d (s'.towers.map (·.1)) s' with
        | .ok s' => finishHead (settleTarget s' tower c.ctx va k) e c (targetReport s' c.ctx va)
        | .poison s' pa => poisonStop s' c.ctx pa 0
        | .dropped s' .. => s'
        | .wait s' => { s with remotes := s'.remotes, link := s'.link }
      match getTarget s e c.ctx va with
      | (s, .ok (some d)) => if d.fmt = 0 then go s (some d) else finishHead s e c (Report.plain 1)
      | (s, .ok none) => finishHead s e c (Report.plain 1)
      | (s, .fault f) => finishHead s e c ⟨2, 0, 0, f.va, f.word⟩
      | (s, .poison pa) => poisonStop s c.ctx pa 0
      | (s, .wait) => s

end Sys2Proof.Machine
end

