-- ==== Sys2Proof/Machine/Launch.lean ====
section
/-! DEFINITION. Placing workgroups: bins and the delivery of attributes (12 R296, 11 R267 to R270), and the workgroups of a
launch (12 R292, R293, 14 R345). -/
namespace Sys2Proof.Machine

/-! Attributes (11 R269, R270). -/

/-- The canonical NaN of FP32. -/
def qnan : Nat := f32.nanBits

/-- What the registers from v3 on hold in a lane: every value of a good triangle, or canonical NaN in all of them. -/
def nansTo (regs : Nat) (vals : List Nat) : List Nat := vals ++ List.replicate (regs - vals.length) qnan

/-- The attributes of three vertices, vertex by vertex: exact counts of 2^-149, none for a NaN or an infinity. -/
def readAttrs (u : Walker) (who ctx : Nat) (h : ClusterHead) : List Nat → State → List (List (Option Int)) → State × Got (List (List (Option Int)))
  | [], s, acc => (s, .ok acc.reverse)
  | v :: vs, s, acc =>
    match unitRead s u who ctx ((h.attr + 4 * (v * h.nattr)) % 2 ^ 64) (4 * h.nattr) with
    | (s, .ok bs) =>
      readAttrs u who ctx h vs s (((List.range h.nattr).map fun j => match coordOf (wordAt bs (4 * j)) with
        | .fin i => some i
        | _ => none) :: acc)
    | (s, .fault f) => (s, .fault f)
    | (s, .poison pa) => (s, .poison pa)
    | (s, .wait) => (s, .wait)

/-- A fraction of integers as FP32, canonical NaN when its denominator is zero. -/
def ratio (n d : Int) : Nat := if d = 0 then qnan else (fracOf n d).f32

/-- The three values of one attribute at the vertices, when none is a NaN. -/
def attrOf (as_ : List (List (Option Int))) (j : Nat) : Option (List Int) :=
  let xs := as_.filterMap fun v => (v.getD j none)
  if xs.length = 3 then some xs else none

def sum3 (f : Nat → Int) : Int := f 0 + f 1 + f 2

/-- v3 on for a quad lane (11 Table 11-4, R270): the triangle, the attributes of its vertices, the lane's pixel. -/
def quadValues (t : Tri) (n : Nat) (as_ : List (List (Option Int))) (px py : Nat) : List Nat :=
  let x := sampleAt px
  let y := sampleAt py
  -- E[i] iw[i] and its derivatives per pixel
  let w (i : Nat) : Int := t.edge i x y * (t.vert i).iw
  let wx (i : Nat) : Int := -256 * t.sign * ((t.vert (i + 2)).y - (t.vert (i + 1)).y) * (t.vert i).iw
  let wy (i : Nat) : Int := 256 * t.sign * ((t.vert (i + 2)).x - (t.vert (i + 1)).x) * (t.vert i).iw
  let d := sum3 w
  let slope (g : Nat → Int) (a : Nat → Int) : Int := sum3 (fun i => a i * g i) * d - sum3 (fun i => a i * w i) * sum3 g
  let only (k i : Nat) : Int := if i = k then 1 else 0
  let attrs (f : List Int → Nat) : List Nat := (List.range n).map fun j => match attrOf as_ j with
    | some a => f a
    | none => qnan
  [ratio (w 1) d, ratio (w 2) d, ratio (slope wx (only 1)) (d * d), ratio (slope wy (only 1)) (d * d),
    ratio (slope wx (only 2)) (d * d), ratio (slope wy (only 2)) (d * d)] ++
    attrs (fun a => ratio (sum3 fun i => a.getD i 0 * w i) (d * 2 ^ 149)) ++
    attrs (fun a => ratio (slope wx fun i => a.getD i 0) (d * d * 2 ^ 149)) ++
    attrs (fun a => ratio (slope wy fun i => a.getD i 0) (d * d * 2 ^ 149))

/-- What the attribute engine of a cluster reports of a pass, in its CLASSIFY (11 R257). -/
def noteAttr (s : State) (p status fva fword : Nat) : State :=
  match classifierOf s p with
  | some cl => noteClassify s cl status fva fword
  | none => s

/-- The registers of one lane of a quad: v0 to v2, then the values or NaNs (11 R269, R270). -/
def quadLane (cl ctx regs : Nat) (r : BinRec) (i : Nat) (s : State) : State × Got (List Nat) :=
  let e := Engine.attr cl
  let word (j : Nat) : Nat := (r.words.getD j 0).toNat
  let live := (List.range 4).filter fun j => word 1 / 2 ^ j % 2 == 1
  let own := if live.contains i then i else live.headD 0
  let at_ (j : Nat) : Nat × Nat := (word 0 % 65536 + j % 2, word 0 / 65536 + j / 2)
  let (px, py) := at_ i
  let stop {α : Type} (head : List Nat) (r' : State × Got α) : State × Got (List Nat) := match r' with
    | (s, .fault f) => (noteAttr s r.pass 2 f.va f.word, .ok (nansTo regs head))
    | (s, .poison pa) => (s, .poison pa)
    | (s, _) => (s, .wait)
  match (tget s.passes r.pass).bind fun x => tget x.tiles r.tile with
  | none => (s, .ok (nansTo regs [px + 65536 * py, 0, 0]))
  | some t =>
    match tileId cl ctx t s (8 * ((at_ own).2 % 8) + (at_ own).1 % 8) with
    | (s, .ok vid) =>
      let head := [px + 65536 * py, vid % 2 ^ 32, vid / 2 ^ 32]
      match getPassDesc s e ctx (word 2 + 2 ^ 32 * word 3) with
      | (s, .ok (some d)) =>
        match getClusterData s e ctx d.cltab (bitsAt vid 8 32) with
        | (s, .bad) => (noteAttr s r.pass 1 0 0, .ok (nansTo regs head))
        | (s, .fault f) => (noteAttr s r.pass 2 f.va f.word, .ok (nansTo regs head))
        | (s, .poison pa) => (s, .poison pa)
        | (s, .wait) => (s, .wait)
        | (s, .ok h body _) =>
          match getMatrix s e ctx d.insttab (bitsAt vid 40 24) with
          | (s, .ok m) =>
            match if vid % 256 < h.ntri then setupTri m h body (vid % 256) else none with
            | none => (noteAttr s r.pass 1 0 0, .ok (nansTo regs head))
            | some t =>
              match readAttrs (.engine e) (engineKey e) ctx h ((List.range 3).map (triIndex h body (vid % 256))) s [] with
              | (s, .ok as_) => (s, .ok (head ++ quadValues t h.nattr as_ px py))
              | r' => stop head r'
          | r' => stop head r'
      | (s, .ok none) => (noteAttr s r.pass 1 0 0, .ok (nansTo regs head))
      | r' => stop head r'
    | r' => stop [px + 65536 * py, 0, 0] r'

/-- b0, b1 and b2 of a hit over one denominator: the exact u and v that TRACE found (11 R270). -/
def hitWeights (r : BinRec) : (Nat → Int) × Int :=
  let (un, ud) := r.bary.getD 0 (0, 1)
  let (vn, vd) := r.bary.getD 1 (0, 1)
  (fun i => if i = 1 then un * vd else if i = 2 then vn * ud else ud * vd - un * vd - vn * ud, ud * vd)

/-- The attributes of a hit from v9 on and their derivatives, which are zero but for an attribute with a NaN or an infinity (11 R270). -/
def hitAttrs (r : BinRec) (n : Nat) (as_ : List (List (Option Int))) : List Nat :=
  let (b, d) := hitWeights r
  let each (f : List Int → Nat) : List Nat := (List.range n).map fun j => match attrOf as_ j with
    | some a => f a
    | none => qnan
  each (fun a => ratio (sum3 fun i => a.getD i 0 * b i) (d * 2 ^ 149)) ++ each (fun _ => 0) ++ each fun _ => 0

/-- The registers of a hit lane (11 R269, R270; log 62). -/
def hitLane (cl ctx regs : Nat) (r : BinRec) (s : State) : State × Got (List Nat) :=
  let e := Engine.attr cl
  let word (j : Nat) : Nat := (r.words.getD j 0).toNat
  let vid := word 7 + 2 ^ 32 * word 8
  let head := [2 ^ 32 - 1, word 7, word 8]
  if word 9 % 2 = 1 then (s, .ok head)
  else
    let (b, d) := hitWeights r
    let nans (s : State) : State × Got (List Nat) := (s, .ok (nansTo regs head))
    match getClusterData s e ctx r.pass (bitsAt vid 8 32) with
    | (s, .ok h body _) =>
      let idx := (List.range 3).map (triIndex h body (vid % 256))
      if idx.all (· < h.nvert) then
        match readAttrs (.engine e) (engineKey e) ctx h idx s [] with
        | (s, .ok as_) => (s, .ok (head ++ [ratio (b 1) d, ratio (b 2) d, 0, 0, 0, 0] ++ hitAttrs r h.nattr as_))
        | (s, .fault _) => nans s
        | (s, .poison pa) => (s, .poison pa)
        | (s, .wait) => (s, .wait)
      else nans s
    | (s, .poison pa) => (s, .poison pa)
    | (s, .wait) => (s, .wait)
    | (s, _) => nans s

/-- The registers that a launch delivers, by lane: lane, values of v0 on (12 R296, 11 R269). -/
def delivered (cl ctx regs : Nat) (recs : List BinRec) (s : State) : State × Got (List (Nat × List Nat)) :=
  let one (s : State) (p : Nat × BinRec × Nat) : State × Got (Nat × List Nat) :=
    let (l, r, i) := p
    let tag (x : State × Got (List Nat)) : State × Got (Nat × List Nat) := match x with
      | (s, .ok v) => (s, .ok (l, v))
      | (s, .fault f) => (s, .fault f)
      | (s, .poison pa) => (s, .poison pa)
      | (s, .wait) => (s, .wait)
    match r.kind with
    | 0 => (s, .ok (l, r.words.map (·.toNat)))
    | 1 => tag (quadLane cl ctx regs r i s)
    | _ => tag (hitLane cl ctx regs r s)
  let lanes := (recs.zipIdx.flatMap fun p =>
    if p.1.kind = 1 then (List.range 4).map fun i => (4 * p.2 + i, p.1, i) else [(p.2, p.1, 0)])
  gotAll one lanes s [] false

/-! A workgroup placed (14 R345, 07 R158). -/

/-- One warp of a workgroup to be placed. -/
structure WarpSpec where
  code   : Code
  entry  : W32
  regs   : Nat
  mask   : Mask
  wid    : Nat
  role   : Nat
  deriving DecidableEq, Repr

/-- The warps of a placed workgroup launched, each in its lane group and the lowest free slot; none when an area has no room. -/
def launchWarps (g : Nat) (n : Needs) (home : Home) (stack : Nat) (frame : Nat → Frame) (fix : Nat → Warp → Warp) :
    List (WarpSpec × Nat × Nat) → Nat → State → Option State
  | [], _, s => some s
  | (x, lg, zb) :: rest, i, s =>
    let h := { home with group := lg, slot := (freeSlots s home.core).headD 0, index := i }
    match launchWarp s ⟨h, g, x.code, x.entry, x.regs, n.zregs, n.zmax, x.mask, BitVec.ofNat 64 x.wid, x.role, stack, zb⟩ (frame i) (fix i) with
    | none => none
    | some s => launchWarps g n home stack frame fix rest (i + 1) s

/-- A workgroup placed on a core, with its reservation; none where it does not fit or an area has no room. -/
def placeGroup (s : State) (g : Group) (n : Needs) (p : Place) (home : Home) (stack : Nat) (ws : List WarpSpec) (frame : Nat → Frame)
    (fix : Nat → Warp → Warp) : Option (State × Nat) :=
  if !placeFits s n p then none
  else
    match streamPlaces (streamBytes n.zregs n.zmax) n.regs.length (streamsUsed s (clusterOfCore p.core)) with
    | none => none
    | some zs =>
      let key := s.nextKey
      let s := gainSet { s with nextKey := key + 2 } (clusterOfCore p.core) n.ctx n.matrix
      let s := joinCore s key p.core { g with reserve := reservation p.groups n.regs n.budget, pool := headroom p.groups n.regs n.budget }
      (launchWarps key n { home with core := p.core, resident := true } stack frame fix (ws.zip (p.groups.zip zs)) 0 s).map fun s => (s, key)

/-- A fresh frame of lanes whose parents are given. -/
def freshFrame (ctx : Nat) (parent : Tab (Nat × Nat)) (packet : Option (Nat × Nat)) (tiles : List (Nat × Nat)) (mask : Mask) : Frame :=
  ⟨ctx, 0, [], 0, parent, packet, tiles, mask, 0, 0, false⟩

/-- A workgroup before it is placed. -/
def freshGroup (ctx qi launch : Nat) (matrix : Bool) (budget scratch gang : Nat) : Group :=
  { ctx, qi, launch, core := 0, warps := [], matrix, budget, scratch, skib := [], mem := [], reserve := [], pool := [], claims := [], bars := [],
    chans := [], gang, resident := true, image := 0, imageSize := 0, preempt := none, overdue := false, savedOn := none }

/-- Work of a queue may be placed: its context runs, and it is resident (14 R343). -/
def queuePlaces (s : State) (ctx qi : Nat) : Bool :=
  (match getCtx s ctx with
    | some c => c.running == .running
    | none => false) &&
  match getQueue s ctx qi with
  | some q => q.resident
  | none => true

/-! Bins (12 R296). -/

/-- The key under which a cluster's distributor waits for remote bytes of its bins. -/
def binKey (cl : Nat) : Nat := 2 ^ 40 + 10000 + cl

/-- Lanes that the records of a launch fill. -/
def filledLanes (recs : List BinRec) : Mask :=
  maskOf fun l => match recs.head? with
    | some r => if r.kind = 1 then l < 4 * recs.length else l < recs.length
    | none => false

/-- The live set of a warp of quad records (11 R267). -/
def liveOf (recs : List BinRec) : Mask :=
  maskOf fun l => match recs[l / 4]? with
    | some r => (r.words.getD 1 0).toNat / 2 ^ (l % 4) % 2 == 1
    | none => false

/-- A warp with what a launch delivers to it (12 R296, 11 R267, R269). -/
def deliverTo (vals : List (Nat × List Nat)) (recs : List BinRec) (param : Nat) (w : Warp) : Warp :=
  let kind := (recs.head?.map (·.kind)).getD 0
  let at_ (j l : Nat) : W32 := BitVec.ofNat 32 (((vals.find? fun p => p.1 == l).bind fun p => p.2[j]?).getD 0)
  let w := { w with v := w.v.zipIdx.map fun (p : Vec × Nat) => Vec.ofFn (at_ p.2) }
  let w := w.setS 0 (BitVec.ofNat 64 param)
  let w := if kind = 1 then { w.setM 1 (liveOf recs) with liveSet := liveOf recs, quads := true } else w
  if kind = 2 then { w with hits := recs.map (·.words) } else w

/-- A core of the bin's cluster that would take the warp. -/
def clusterTakes (s : State) (n : Needs) (cl : Nat) : Bool :=
  (List.range 4).any fun j => (List.range 4).any fun g => placeFits s n ⟨coreOfCluster cl j, [g]⟩

/-- The tiles of the quad records of a launch, each once. -/
def tilesIn (recs : List BinRec) : List (Nat × Nat) := ((recs.filter (·.kind == 1)).map fun r => (r.pass, r.tile)).eraseDups

/-- A tile has one material warp more. -/
def tilesTaken (s : State) (ts : List (Nat × Nat)) : State := ts.foldl (fun s p => modTile s p.1 p.2 fun v => { v with warps := v.warps + 1 }) s

/-- The records left when the oldest `n` of a kind are taken. -/
def dropKind (kind : Nat) : Nat → List BinRec → List BinRec
  | _, [] => []
  | 0, rs => rs
  | n + 1, r :: rs => if r.kind = kind then dropKind kind n rs else r :: dropKind kind (n + 1) rs

/-- The oldest records of a bin, up to the count of its node, launched as a warp where the event places it. -/
def launchBin (cluster bin : Nat) (p : Place) (due : Bin → BitVec 512 → Bool) (s : State) : State :=
  match tget (getCluster s cluster).bins bin with
  | none => s
  | some b =>
    let first := b.recs.head?.getD ⟨[], 0, 0, 0, 0, 0, 0, 0, 0, []⟩
    if !queuePlaces s b.ctx first.qi then s
    else
      match readNode s .firmware (binKey cluster) cluster b.ctx b.node with
      | (s, .poison pa) => poisonStop s b.ctx pa 0
      | (s, .ok e) =>
        let n : Needs := ⟨b.ctx, [nodeRegs e], nodeField e 192 7, 0, nodeField e 199 4, nodeField e 203 2, nodeField e 205 1 = 1⟩
        let recs := b.sameKind.take (b.quota e)
        if nodeInvalid e || !due b e || !placeFits s n p || !(clusterOfCore p.core == cluster || !clusterTakes s n cluster) then s
        else
          match delivered cluster b.ctx (nodeRegs e) recs s with
          | (s, .poison pa) => poisonStop s b.ctx pa 0
          | (s, .fault _) => s
          | (s', .wait) => { s with remotes := s'.remotes, link := s'.link }
          | (s', .ok vals) =>
            let launchNo := tgetD (((getCtx s b.ctx).map (·.nodeLaunches)).getD []) b.node 0
            let mask := filledLanes recs
            let code : Code := ⟨BitVec.ofNat 64 (nodeField e 0 64), nodeField e 96 2 + 1, nodeField e 98 14⟩
            let frame := freshFrame b.ctx (if first.kind = 1 then [] else recs.zipIdx.map fun r => (r.2, (r.1.frame, r.1.lane))) none (tilesIn recs) mask
            let home : Home := { (Warp.idle 0 .none).home with ctx := b.ctx, qi := first.qi, prio := first.prio, cls := first.cls }
            match placeGroup s' (freshGroup b.ctx first.qi 0 n.matrix n.budget 0 s'.nextKey) n p home (nodeField e 320 32)
                [⟨code, BitVec.ofNat 32 (nodeField e 64 32), nodeRegs e, mask, 128 * launchNo, 0⟩] (fun _ => frame)
                (fun _ => deliverTo vals recs (nodeField e 256 64)) with
            | none => s
            | some (s, _) =>
              let s := dropRemotes (dropRemotes (tilesTaken s (tilesIn recs)) (engineKey (.attr cluster))) (binKey cluster)
              let s := modCtx s b.ctx fun c => { c with nodeLaunches := tput c.nodeLaunches b.node (launchNo + 1) }
              let left := dropKind first.kind recs.length b.recs
              let b' : Bin := { b with recs := left, timer := some (s.clock + nodeTimer e), launches := b.launches + 1 }
              modCluster s cluster fun k => { k with bins := if left.isEmpty then tdel k.bins bin else tput k.bins bin b' }
      | (s, _) => s

/-- BIN_LAUNCH: a bin that holds C records (12 R296). -/
def execBinLaunch (cluster bin : Nat) (p : Place) (s : State) : Out := .next <|
  launchBin cluster bin p (fun b e => b.quota e ≤ b.sameKind.length) s

/-- BIN_TIMER_EXPIRY: a bin whose timer has run out (12 R296). -/
def execBinTimerExpiry (cluster bin : Nat) (p : Place) (s : State) : Out := .next <|
  launchBin cluster bin p (fun b _ => match b.timer with
    | some t => t ≤ s.clock
    | none => false) s

/-! Launches (12 R290 to R293). -/

def hdr (x : Launch) (lo n : Nat) : Nat := bitsAt x.header.toNat lo n
def hdrExt (x : Launch) (i : Nat) : Nat := hdr x (192 + 32 * i) 32
def hdrWidth (x : Launch) (i : Nat) : Nat := hdr x (128 + 5 * i) 5
def hdrRole (x : Launch) (r : Nat) : Nat := hdr x (384 + 64 * r) 64

/-- Workgroups of a gang (12 R293): those that agree in fields from the gang level on. -/
def gangSize (x : Launch) : Nat := (List.range (hdr x 158 3 - 2)).foldl (fun n i => n * hdrExt x (2 + i)) 1

/-- The fields F2 to F5 of the n-th workgroup, F2 counting fastest, put in their places above F0 and F1. -/
def groupWid (x : Launch) (n : Nat) : Nat :=
  let f (i n : Nat) : Nat × Nat := (n % max (hdrExt x i) 1, n / max (hdrExt x i) 1)
  let (f2, n) := f 2 n
  let (f3, n) := f 3 n
  let (f4, n) := f 4 n
  let (f5, _) := f 5 n
  joinBits [(hdrWidth x 0, 0), (hdrWidth x 1, 0), (hdrWidth x 2, f2), (hdrWidth x 3, f3), (hdrWidth x 4, f4), (hdrWidth x 5, f5)]

/-- The warps of every workgroup of a launch, role by role (12 R292): role number and its entry. -/
def roleWarps (x : Launch) : List (Nat × Nat) := (List.range 4).flatMap fun r => List.replicate (hdrRole x r % 32) (r, hdrRole x r)

/-- Registers of a warp of a role. -/
def roleRegs (role : Nat) : Nat := 8 * bitsAt role 5 7

/-- What a workgroup of a launch needs. -/
def launchNeeds (x : Launch) : Needs :=
  ⟨x.ctx, (roleWarps x).map fun r => roleRegs r.2, hdr x 640 16, hdr x 656 9, hdr x 665 4, hdr x 669 2, hdr x 671 1 = 1⟩

/-- The warps of the n-th workgroup of a launch (12 R292). -/
def launchSpecs (x : Launch) (n : Nat) : List WarpSpec :=
  let code : Code := ⟨BitVec.ofNat 64 (hdr x 0 64), hdr x 96 2 + 1, hdr x 98 14⟩
  (roleWarps x).zipIdx.map fun p =>
    ⟨code, BitVec.ofNat 32 (if bitsAt p.1.2 12 1 = 1 then bitsAt p.1.2 32 32 else hdr x 64 32), roleRegs p.1.2,
      BitVec.ofNat 128 (2 ^ hdrExt x 0 - 1), groupWid x n + 2 ^ hdrWidth x 0 * p.2, p.1.1⟩

/-- A launched warp's scalars: the parameters from s0 on (12 R292). -/
def setParams (ps : List W64) (w : Warp) : Warp := ps.zipIdx.foldl (fun w p => w.setS p.2 p.1) w

/-- The workgroups of a gang placed, one place each; none unless all fit. -/
def placeGang (k : Nat) (x : Launch) (gang : Nat) : List Place → Nat → State → Option State
  | [], _, s => some s
  | p :: ps, n, s =>
    let mask : Mask := BitVec.ofNat 128 (2 ^ hdrExt x 0 - 1)
    let home : Home := { (Warp.idle 0 .none).home with ctx := x.ctx, qi := x.qi, prio := x.prio, cls := x.cls }
    match placeGroup s (freshGroup x.ctx x.qi k (hdr x 671 1 = 1) (hdr x 640 16) (hdr x 656 9) gang) (launchNeeds x) p home (hdr x 768 32)
        (launchSpecs x n) (fun _ => freshFrame x.ctx [] (some (k, 0)) [] mask) (fun _ => setParams x.params) with
    | none => none
    | some (s, _) => placeGang k x gang ps (n + 1) s

/-- The cores of a cluster (01 R13). -/
def clusterCores (c : Nat) : List Nat := (List.range 4).map (coreOfCluster c)

/-- Places for `n` workgroups of `k` warps in a cluster: over its cores or in one of them, the warps over the lane groups or in
one of them. -/
def placesFor (c n k : Nat) : List (List Place) :=
  let cores := clusterCores c
  let spread := (List.range k).map (· % 4)
  let shapes := spread :: (List.range 4).map fun g => List.replicate k g
  shapes.flatMap fun gs =>
    (((List.range n).map fun i => (⟨cores.getD (i % 4) 0, gs⟩ : Place)) :: cores.map fun j => List.replicate n ⟨j, gs⟩).eraseDups

/-- The key by which the distributor orders launches (14 R345): descending priority, the queue served longest ago, launch order. -/
def placeOrder (s : State) (l : Nat × Launch) : List Nat :=
  [8 - l.2.prio, ((getQueue s l.2.ctx l.2.qi).map (·.turn)).getD 0, l.1]

/-- A launch has a gang to place and its queue may place it. -/
def unplaced (s : State) (l : Nat × Launch) : Bool := decide (l.2.next < l.2.total) && queuePlaces s l.2.ctx l.2.qi

/-- The next gang of a launch placed, every workgroup of it on a core of one cluster (12 R293). -/
def placeNext (k : Nat) (x : Launch) (ps : List Place) (s : State) : Option State :=
  let together := match ps with
    | [] => false
    | p :: rest => rest.all fun q => clusterOfCore q.core == clusterOfCore p.core
  if unplaced s (k, x) && together && ps.length == gangSize x && x.next + gangSize x ≤ x.total then placeGang k x s.nextKey ps x.next s
  else none

/-- A launch whose next gang fits somewhere in one of the forms of `placesFor` (log 51). -/
def fitsNow (s : State) (l : Nat × Launch) : Bool :=
  (List.range 160).any fun c => (placesFor c (gangSize l.2) (roleWarps l.2).length).any fun ps => (placeNext l.1 l.2 ps s).isSome

/-- A launch that the distributor takes before another one, and that fits (14 R345). -/
def goesFirst (s : State) (l : Nat × Launch) : Bool :=
  s.launches.any fun m => decide (placeOrder s m < placeOrder s l) && unplaced s m && fitsNow s m

/-- PLACE_WORKGROUP: the next gang of the launch whose turn it is (12 R293, 14 R345). With gang level 2 a gang is one workgroup. -/
def execPlaceWorkgroup (launch : Nat) (ps : List Place) (s : State) : Out := .next <|
  match tget s.launches launch with
  | none => s
  | some x =>
    if goesFirst s (launch, x) then s
    else
      match placeNext launch x ps s with
      | none => s
      | some s =>
        modQueue { s with launches := tput s.launches launch { x with next := x.next + gangSize x } } x.ctx x.qi fun q => { q with turn := s.nextKey }

end Sys2Proof.Machine
end

