-- ==== Sys2Proof/Machine/Save.lean ====
section
/-! DEFINITION. Saving and resuming workgroups, stopping and resuming contexts, and the release of a matrix set (15 R371, R376 to
R383, 09 R231, R409, 14 R357). -/
namespace Sys2Proof.Machine

/-! The save images (15 R380 to R383). -/

/-- Bytes padded with zeros to a length. -/
def padTo (n : Nat) (bs : List Byte) : List Byte := bs ++ List.replicate (n - bs.length) 0

/-- The words of a WAITMEM's wake condition: address, condition, value, ACQ. -/
def waitmemWords : List Req → Option (List Nat)
  | [⟨.waitmem va _ cond v acq, _, _, _, _, _, _, _, _⟩] => some [va.toNat, cond.toNat, v.toNat, acq.toNat]
  | _ => none

/-- WAKE and the wake condition as words (15 Table 15-4); the access of WAKE 8 stands in the operand log. -/
def wakeWords (w : Warp) (claims : List Nat) : Nat × List Nat :=
  match w.wake with
  | .ready => (0, [])
  | .await m => (1, [m.toNat % 2 ^ 64, m.toNat / 2 ^ 64])
  | .barrier slot .. => (2, [slot])
  | .channel c => (3, [c])
  | .claim n .. => (4, [n, ((indexOf? (· == w.home.index) claims).getD 0)])
  | .mwait b => (5, [b.toNat])
  | .yldc e k cont => (6, [e, k, cont.toNat])
  | .waitmem r _ => (7, (waitmemWords [r]).getD [])
  | .remote rs =>
    match waitmemWords rs with
    | some ws => (7, ws)
    | none => (8, (rs.head?.map fun r => [r.pc.toNat]).getD [])

/-- The address of a logged access in each lane: what its operands name, and of an access through an element array, an image, a scene or a
record the base, the descriptor, the root or zero (log 101). -/
def MemOp.vas (op : MemOp) : List W64 :=
  let all (va : W64) : List W64 := List.replicate 128 va
  match op with
  | .load va .. => va
  | .store va .. => va
  | .atomic _ va .. => va
  | .scratchLoad off _ => off
  | .scratchStore off .. => off
  | .uload va _ => all va
  | .ustore va .. => all va
  | .loadElem b0 .. => all b0
  | .storeElem b0 .. => all b0
  | .tile _ _ _ _ _ b0 .. => all b0
  | .waitmem va .. => all va
  | .lhbind _ src => all src
  | .sample _ desc .. => all desc
  | .imgld desc .. => all desc
  | .imgst desc .. => all desc
  | .trace root .. => all root
  | .ldt .. => []
  | .stt .. => []
  | .lhinv _ => []
  | .lhq .. => []

/-- A logged instruction as a record holds it (15 Table 15-6; log 101): the address and words of its lowest plane, that plane's lanes and
those of the other planes, and the lane addresses. -/
def logEntry (rs : List Req) : List Byte :=
  let va (l : Nat) : Nat := ((rs.find? fun r => hasLane r.lanes l).bind fun r => (r.op.vas)[l]?.map (·.toNat)).getD 0
  let lanes (rs : List Req) : Nat := (rs.foldl (fun (m : Mask) r => m ||| r.lanes) 0).toNat
  padTo 0x20 (leBytes 8 ((rs.head?.map (·.pc.toNat)).getD 0) ++ ((rs.head?.map (·.words)).getD []).flatMap fun x => leBytes 4 x.toNat) ++
    leBytes 16 (lanes (rs.take 1)) ++ leBytes 16 (lanes rs.tail) ++
    (List.range 128).flatMap (fun l => leBytes 8 (va l)) ++ leBytes 64 0

/-- The operand log of a warp as its record holds it: what faulted, and the accesses that wait for remote bytes. -/
def Warp.savedLog (w : Warp) : List (List Req) :=
  w.log ++ match w.wake with
    | .remote rs => [rs]
    | _ => []

/-- The bytes of a vector. -/
def vecBytes (v : Vec) : List Byte := v.l.flatMap fun x => leBytes 4 x.toNat

/-- A warp's stream reservation in the layout of 10 R251, then %slen and %sseed (15 R382). -/
def streamImage (w : Warp) : List Byte :=
  ((List.range w.zregs).flatMap fun z => (List.range 128).flatMap fun l => leBytes w.zbytes ((w.zlane z l).bits.toNat % 2 ^ w.slen)) ++
  ((List.range w.zregs).flatMap fun z => (List.range 128).flatMap fun l => leBytes 4 (w.zlane z l).maskWord) ++
  leBytes 4 w.slen ++ leBytes 8 (joinBits [(16, w.seed.a.toNat), (16, w.seed.b.toNat), (16, w.seed.ibase.toNat), (16, w.seed.draw.toNat)]) ++ leBytes 4 0

/-- A warp's record (15 R382, Table 15-6). -/
def warpRecord (s : State) (g : Group) (k : Nat) : List Byte :=
  match getWarp s k with
  | none => padTo (recordSize (Warp.idle k .none)) (leBytes 1 1)
  | some w =>
    let f := focus s k
    let (wake, cond) := wakeWords w g.claims
    let head := padTo 0x40 (leBytes 8 (joinBits [(1, (!w.live).toNat), (1, (wake == 0).toNat), (4, wake)]) ++ cond.flatMap (leBytes 8))
    let specials := (List.range 24).flatMap fun n => leBytes 8 (readSpecial f n)
    let wide := leBytes 8 (readSpecial f 0 / 2 ^ 64) ++ leBytes 8 (readSpecial f 15 / 2 ^ 64)
    let tbits := w.queue.zipIdx.foldl (fun n p => n + if p.1.tr then 2 ^ p.2 else 0) 0
    let sizes := leBytes 4 (joinBits [(8, w.v.length / 8), (16, tbits), (8, w.stack.length)])
    let ports := (List.range 8).flatMap fun c => leBytes 2 (match tget w.ports c with
      | some v => v + 2 ^ 15
      | none => 0)
    let fixed := padTo 0x200 (padTo 0x160 (padTo 0x148 (padTo 0x140 (head ++ specials ++ wide ++ leBytes 16 w.liveSet.toNat ++
      leBytes 32 (joinBits (w.planes.map fun p => (2, p.toNat)))) ++ sizes) ++ ports) ++ countBytes w)
    let body := padTo 0x4000 (padTo 0x800 (padTo 0x400 (fixed ++ w.s.flatMap fun x => leBytes 8 x.toNat) ++
      w.stack.reverse.flatMap fun e => leBytes 32 e.bits) ++ (w.savedLog.take 8).flatMap logEntry)
    padTo (recordSize w) (body ++ (w.queue.flatMap fun q => vecBytes q.v) ++ w.v.flatMap vecBytes ++ streamImage w)

/-- A workgroup's image (15 R381, Table 15-5). -/
def groupImage (s : State) (g : Group) : List Byte :=
  let claims := (List.range 16).flatMap fun i => leBytes 1 (g.claims.getD i 0xFF)
  let head := leBytes 8 (joinBits [(5, g.warps.length), (9, g.scratch), (16, g.budget)]) ++
    leBytes 8 (joinBits ((List.range 4).map fun l => (16, tgetD g.pool l 0))) ++ claims
  let bars := (List.range 8).flatMap fun k => leBytes 8 (match tget g.bars k with
    | some b => joinBits [(5, b.arrivals), (5, b.expected), (6, 0), (16, b.arrived.foldl (fun n i => n ||| 2 ^ i) 0)]
    | none => 0)
  let chans := (List.range 8).flatMap fun k => leBytes 16 (match tget g.chans k with
    | some c => joinBits [(1, (c.consumer.isSome && !c.gone).toNat), (4, c.consumer.getD 0), (9, c.port), (4, c.depth - 1), (2, c.role), (4, c.head),
        (5, (c.slots.filter (· == .full)).length)]
    | none => 0)
  padTo 0x1000 (padTo 0x80 (padTo 0x40 head ++ bars) ++ chans) ++ g.warps.flatMap (warpRecord s g) ++ mreadN g.mem 0 (1024 * g.scratch)

/-- Bytes of a workgroup's image. -/
def groupImageSize (s : State) (g : Group) : Nat :=
  0x1000 + (g.warps.map fun k => recordSize ((getWarp s k).getD (Warp.idle k .none))).foldl (· + ·) 0 + 1024 * g.scratch

/-- A block of a context's save pool taken, with its VA; nothing when the pool has no room. -/
def takeSave (s : State) (ctx size : Nat) : Option (State × W64) :=
  match ctxAreas s ctx with
  | none => none
  | some a => (a.2.2.2.take size).map fun r => (modSavePool s ctx fun _ => r.2, a.2.2.2.va + BitVec.ofNat 64 r.1)

/-- A block of the save pool given back. -/
def giveSave (s : State) (ctx : Nat) (va : W64) (size : Nat) : State :=
  modSavePool s ctx fun a => a.give (va.toNat - a.va.toNat) size

/-! Eviction (15 R377, R379). -/

/-- Every warp of a workgroup that has not exited, by key. -/
def liveKeys (s : State) (g : Group) : List Nat := g.warps.filter fun k => ((getWarp s k).map (·.live)).getD false

/-- A sector of the on-chip map meets a warp's stream reservation. -/
def streamSector (w : Warp) (q : Nat) : Bool :=
  let base := 2 * 2 ^ 48 + 5 * 2 ^ 44 + w.cluster * 2 ^ 32 + w.zbase
  w.zsize != 0 && rangesMeet (32 * q) 32 base w.zsize

/-- The poisoned sectors of a warp's stream reservation, as it takes them along (10 R252, R253). -/
def Warp.takeBad (w : Warp) (poison : List Nat) : List Nat :=
  (poison.filter (streamSector w)).map fun q => 32 * q + 32 - (2 * 2 ^ 48 + 5 * 2 ^ 44 + w.cluster * 2 ^ 32 + w.zbase)

/-- The sectors that they are at a warp's new reservation, of which everything else is restored. -/
def putBad (s : State) : State :=
  let w := s.w
  let base := 2 * 2 ^ 48 + 5 * 2 ^ 44 + w.cluster * 2 ^ 32 + w.zbase
  let new := (w.zbad.flatMap fun r => [(base + r - 32) / 32, (base + r - 1) / 32]).eraseDups
  { s with poison := new.filter (streamSector w) ++ s.poison.filter fun q => !streamSector w q, w := { w with zbad := [] } }

/-- A warp leaves its slot: its dirty and gathered bytes go home, its lease pauses, and a remote load's answer is discarded. -/
def saveWarp (s : State) (k : Nat) : State :=
  let s := performNt (focus s k) fun _ => true
  let s := writeBackCtx s s.core s.ctx
  let s := dropRemotes s k
  let s := match getFrame s s.w.frame with
    | some f => saveFrame (setFrame s s.w.frame { f with saved := true }) f
    | none => s
  let w := s.w
  { s with poison := s.poison.filter fun q => !streamSector w q
           w := { w with zbad := w.takeBad s.poison, home := { w.home with resident := false }
                         lease := { w.lease with paused := w.lease.left != 0 } } }

/-- A workgroup saved: its image written in the save pool, its slots released. Its contents stay in its record, from which it
resumes. None when the pool has no room for the image. -/
def saveGroup (s : State) (k : Nat) : Option State :=
  match getGroup s k with
  | none => none
  | some g =>
    match takeSave s g.ctx (groupImageSize s g) with
    | none => none
    | some (s, va) =>
      let size := groupImageSize s g
      let bytes := groupImage s g
      let s := (liveKeys s g).foldl saveWarp s
      let s := (unitWrite s .firmware 0 g.ctx va.toNat bytes).1
      some (modGroup s k fun g =>
        { g with resident := false, image := va, imageSize := size, preempt := none, overdue := false
                 savedOn := if g.matrix then some (clusterOfCore g.core) else none })

/-- A logged access that blocks: a load of region 3 or 4, or WAITMEM (15 Table 15-4). -/
def MemOp.blocking : MemOp → Bool
  | .load .. => true
  | .uload .. => true
  | .loadElem .. => true
  | .ldt .. => true
  | .waitmem .. => true
  | _ => false

/-- A warp that lets its workgroup be evicted (15 R376, R377): it has exited, or waits at a blocking point outside a handler with
nothing else in its log; a CLAIM with a limit is none (07 R166). -/
def atBlockingPoint (w : Warp) : Bool :=
  !w.live || (!w.handler && w.xfers.isEmpty && w.log.isEmpty && match w.wake with
    | .ready => false
    | .remote rs => rs.all fun r => r.op.blocking
    | .claim _ _ limit => limit.isNone
    | _ => true)

/-! Engine commands that name on-chip windows (05 R114, 06 R150, 10 R252). -/

/-- Where the elements of a CONVERT lie from a B0 on: from the sector of the first to that of the last. -/
def elemSpan (s : State) (ctx b0 e n : Nat) : List (Nat × Nat) :=
  match translatePrefetch s .firmware ctx .read b0 with
  | (_, .ok x) =>
    if n = 0 then []
    else
      let a := (locate x.fmt x.geom e).1
      [(b0 + a, (locate x.fmt x.geom (e + n - 1)).1 + 32 - a)]
  | _ => []

/-- The ranges of VAs that a command of an engine names; of a command that is no copy, what each word points at. -/
def cmdRanges (s : State) (e : Engine) (c : Cmd) : List (Nat × Nat) :=
  let q (i : Nat) : Nat := cmdWord c i
  (if cmdRec c then [(q 7, 32)] else []) ++
    if opTaken e (cmdOp c) then
      match cmdOp c with
      | 2 => [(q 2, q 3)]
      | 3 => elemSpan s c.ctx (q 1) (q 4) (q 3) ++ elemSpan s c.ctx (q 2) (q 5) (q 3)
      | 4 => [(q 1, 256 * q 3), (q 2, q 3)]
      | _ => (copyRowsOf c).flatMap fun r => [(r.1, r.2.2), (r.2.1, r.2.2)]
    else (List.range 6).map fun i => (q (i + 1), 64)

/-- A piece of the on-chip map is a window of a workgroup (05 R114). -/
def windowOf (s : State) (k : Nat) (g : Group) (pa n : Nat) : Bool :=
  let idx := bitsAt pa 32 12
  let off := pa % 2 ^ 32
  let mine (w : Warp) : Bool := w.groupId == some k && w.live && w.home.resident
  match bitsAt pa 44 4 with
  | 0 => match warpInSlot s idx (off / 0x40000) with
    | some w => mine w
    | none => false
  | 1 => idx == g.core && g.skib.any fun b => rangesMeet (1024 * b) 1024 off n
  | 5 => (allWarps s).any fun w => mine w && w.cluster == idx && rangesMeet w.zbase w.zsize off n
  | _ => g.matrix && clusterOfCore g.core == idx

/-- A range of VAs by the pages of 4 KiB that it meets. -/
def pagesOf (va n : Nat) : List (Nat × Nat) :=
  (List.range ((va % 4096 + n + 4095) / 4096)).map fun i =>
    let a := max va (va / 4096 * 4096 + 4096 * i)
    (a, min (va + n) (va / 4096 * 4096 + 4096 * (i + 1)) - a)

/-- A command names a window of a workgroup. -/
def namesMap (s : State) (k : Nat) (g : Group) (e : Engine) (c : Cmd) : Bool :=
  (cmdRanges s e c).any fun r => (pagesOf r.1 r.2).any fun p =>
    match translatePrefetch s .firmware c.ctx .read (p.1 % 2 ^ 64) with
    | (_, .ok x) => region x.pa == 2 && windowOf s k g x.pa p.2
    | _ => false

/-- The engines of a tower and of a cluster, and the ports. -/
def enginesOf (s : State) : List Engine :=
  s.clusters.flatMap (fun k => [.copy k.1 0, .copy k.1 1, .classify k.1, .attr k.1, .traverse k.1, .matrix k.1]) ++
    s.towers.flatMap (fun t => .dma t.1 :: .blend t.1 :: (List.range 4).map fun i => .raster t.1 (BitVec.ofNat 2 i)) ++ [.host, .peer]

/-- An incomplete engine command names a window of a workgroup. -/
def windowCommand (s : State) (k : Nat) (g : Group) : Bool :=
  (enginesOf s).any fun e => (engineQueue s e).any fun c => c.ctx == g.ctx && namesMap s k g e c

/-- The workgroups of a gang. -/
def gangOf (s : State) (g : Group) : List Nat := (s.groups.filter fun p => p.2.gang == g.gang && p.2.ctx == g.ctx).map (·.1)

/-- A workgroup may be evicted now. -/
def mayEvict (s : State) (k : Nat) : Bool :=
  match getGroup s k with
  | some g => g.resident && (g.warps.filterMap (getWarp s)).all atBlockingPoint && !windowCommand s k g
  | none => false

/-- Workgroups saved one after another; none unless all of them are. -/
def saveAll : List Nat → State → Option State
  | [], s => some s
  | k :: ks, s => (saveGroup s k).bind (saveAll ks)

/-- WORKGROUP_EVICT: a workgroup whose pre-emption is requested, with its whole gang. -/
def execWorkgroupEvict (group : Nat) (s : State) : Out := .next <|
  match getGroup s group with
  | none => s
  | some g =>
    if !(g.preempt.isSome && (gangOf s g).all (mayEvict s)) then s
    else (saveAll (gangOf s g) s).getD s

/-! Resumption (15 R379, R378, 09 R409, 14 R357). -/

/-- Where the new lane groups of a workgroup's warps take those that its warps shared: none where two would mix, or one would
split. -/
def groupMap : List (Nat × Nat) → Tab Nat → Option (Tab Nat)
  | [], m => some m
  | (old, new) :: rest, m =>
    match tget m old with
    | some n => if n = new then groupMap rest m else none
    | none => if m.any fun p => p.2 == new then none else groupMap rest (tput m old new)

/-- Places for reservations of given sizes. -/
def streamFits : List Nat → List (Nat × Nat) → Option (List Nat)
  | [], _ => some []
  | n :: ns, used =>
    if n = 0 then (streamFits ns used).map (0 :: ·)
    else
      match firstFit used n 0x40000 with
      | some a => (streamFits ns ((a, n) :: used)).map (a :: ·)
      | none => none

/-- The matrix set of a cluster admits a marked workgroup: that of its context where it was, or an empty one for its image. -/
def setAdmits (s : State) (k : Nat) (g : Group) (cl : Nat) : Bool :=
  !g.matrix ||
    match g.savedOn with
    | some c => c == cl && (getCluster s cl).owner == some g.ctx
    | none => if s.sets.any fun x => x.groups.contains k then (getCluster s cl).owner == none
      else (getCluster s cl).owner == none || (getCluster s cl).owner == some g.ctx

/-- Bytes of a matrix-set image (15 R383). -/
def setImageSize : Nat := 0x229000

/-- The poisoned sectors of a cluster's matrix set by kind and number (09 R230), and where they are in another cluster. -/
def setBad (s : State) (cl : Nat) : List (Nat × Nat) :=
  (s.poison.filter (setSector cl)).map fun q => (bitsAt (32 * q) 44 4, 32 * q % 2 ^ 32 / 32)
def setBadAt (cl : Nat) (p : Nat × Nat) : Nat := (2 * 2 ^ 48 + p.1 * 2 ^ 44 + cl * 2 ^ 32) / 32 + p.2

/-- The saved set of a workgroup restored in a cluster, with the other workgroups tied to it bound there (09 R231, R409). -/
def restoreSet (s : State) (k : Nat) (g : Group) (cl : Nat) : State :=
  if !g.matrix then s
  else
    match s.sets.find? fun x => x.groups.contains k with
    | none => gainSet s cl g.ctx true
    | some x =>
      let s := modCluster s cl fun c =>
        { c with owner := some x.ctx, tile := x.set.tile, acc := x.set.acc, cells := x.set.cells, segExp := x.set.segExp, badExp := x.set.badExp
                 abuf := x.set.abuf, lut := x.set.lut, accFlags := x.set.accFlags, batch := x.set.batch, done := x.set.done, feed := x.set.feed }
      let s := giveSave (setWarp s { x.seq with id := cl, kind := .seq cl }) x.ctx x.image setImageSize
      { s with
        poison := x.bad.map (setBadAt cl) ++ s.poison.filter fun q => !setSector cl q
        sets := s.sets.filter fun y => !y.groups.contains k
        groups := s.groups.map fun p => (p.1, if x.groups.contains p.1 then { p.2 with savedOn := some cl } else p.2) }

/-- A warp back in a slot: its lease goes on or is revalidated, its streams stand at their new place, and a trap without a handler is
returned from (15 R371). -/
def wakeWarp (p : Place) (s : State) (x : Nat × Nat × Nat) : State :=
  let (k, lg, zb) := x
  let s := focus s k
  let old := s.w.home
  let slot := (freeSlots s p.core).headD 0
  let s := s.modW fun w => { w with home := { w.home with core := p.core, group := lg, slot := slot, resident := true }, zbase := zb }
  let s := match getFrame s s.w.frame with
    | some f => setFrame s s.w.frame { f with saved := false }
    | none => s
  let s := moveLease old (putBad s)
  if s.w.handler && s.w.hbase = 0 then returnFromTrap reissue false s
  else
    match s.w.wake with
    | .remote rs => reissue (s.modW fun w => { w with wake := .ready, iss := { Issue.idle with next := w.o } }) rs
    | _ => s

/-- A workgroup resumed on a core; none where it does not fit there. -/
def resumeGroup (s : State) (k : Nat) (p : Place) : Option State :=
  match getGroup s k with
  | none => none
  | some g =>
    let keys := liveKeys s g
    let ws := keys.filterMap (getWarp s)
    let cl := clusterOfCore p.core
    match groupMap ((ws.map (·.home.group)).zip p.groups) [], streamFits (ws.map (·.zsize)) (streamsUsed s cl) with
    | some m, some zs =>
      let reserve := m.foldl (fun (t : Tab Nat) q => tput t q.2 (tgetD g.reserve q.1 0)) []
      let pool := m.foldl (fun (t : Tab Nat) q => tput t q.2 (tgetD g.pool q.1 0)) []
      let fits := !g.resident && p.core < 640 && p.groups.length == keys.length && p.groups.all (· < 4) &&
        keys.length ≤ (freeSlots s p.core).length && scratchFits s p.core g.scratch && setAdmits s k g cl &&
        (List.range 4).all fun lg =>
          (warpsIn s p.core lg).length + (p.groups.filter (· == lg)).length ≤ 16 &&
          unitsUsed s p.core lg + tgetD reserve lg 0 + 8 * (p.groups.filter (· == lg)).length ≤ 1024
      if !fits then none
      else
        let s := restoreSet s k g cl
        let s := if g.image = 0 then s else giveSave s g.ctx g.image g.imageSize
        let s := joinCore s k p.core { g with reserve := reserve, pool := pool, image := 0, imageSize := 0, savedOn := none }
        some ((keys.zip (p.groups.zip zs)).foldl (wakeWarp p) (genBump s p.core))
    | _, _ => none

/-- Workgroups of a gang resumed; none unless all of them are. -/
def resumeAll : List (Nat × Place) → State → Option State
  | [], s => some s
  | (k, p) :: rest, s => (resumeGroup s k p).bind (resumeAll rest)

/-- WORKGROUP_RESUME: an evicted workgroup with its gang, one place each, in one cluster when there are several. -/
def execWorkgroupResume (group : Nat) (ps : List Place) (s : State) : Out := .next <|
  match getGroup s group with
  | none => s
  | some g =>
    let gang := gangOf s g
    let together := match ps with
      | [] => false
      | p :: rest => rest.all fun q => clusterOfCore q.core == clusterOfCore p.core
    if !(queuePlaces s g.ctx g.qi && together && ps.length == gang.length) then s
    else (resumeAll (gang.zip ps) s).getD s

/-- PREEMPT_DEADLINE (15 R377): the overrun is reported once, and with DLKILL the context is killed. -/
def execPreemptDeadline (group : Nat) (s : State) : Out := .next <|
  match getGroup s group with
  | none => s
  | some g =>
    match g.preempt, getCtx s g.ctx with
    | some t, some c =>
      if g.overdue || !g.resident || s.clock < t + 10 * us10 * c.trap.deadline then s
      else
        let s := sendEvent (modGroup s group fun g => { g with overdue := true }) g.ctx 4 [group]
        if c.trap.dlkill then sendEvent (killCtx s g.ctx) g.ctx 10 [1] else s
    | _, _ => s

/-! Contexts stopped and resumed (15 R371). -/

/-- The words of event 1 (16 Table 16-4): each fault's cause, address and warp index, and the VA of its workgroup's image. -/
def stopWords (s : State) : List W64 → List Nat
  | a :: b :: c :: g :: rest => [a.toNat, b.toNat, c.toNat, ((getGroup s g.toNat).map (·.image.toNat)).getD 0] ++ stopWords s rest
  | _ => []

/-- The resident workgroups of a context by gangs. -/
def residentGangs (s : State) (ctx : Nat) : List (List Nat) :=
  ((s.groups.filter fun p => p.2.ctx == ctx && p.2.resident).map fun p => (gangOf s p.2).filter fun k =>
    ((getGroup s k).map (·.resident)).getD false).eraseDups

/-- What a stop waits for: logged accesses that have not been checked, matrix operations that have been issued, and engine commands
that name on-chip windows (15 R371, 09 R207, 05 R114); after a poisoned read, which may be the end of one of these, it waits for
none (log 51). -/
def stopWaits (s : State) (ctx : Nat) (c : Ctx) : Bool :=
  let poisonRead (r : List W64) : Bool := c.running == .stopping && r.length % 4 == 0 && (List.range (r.length / 4)).any fun i => r.getD (4 * i) 0 == 0
  !poisonRead c.report &&
    ((allWarps s).any (fun w => w.home.ctx == ctx && !w.xfers.isEmpty) ||
     s.clusters.any (fun k => k.2.owner == some ctx && !k.2.ops.isEmpty) ||
     s.groups.any fun p => p.2.ctx == ctx && p.2.resident && windowCommand s p.1 p.2)

/-- Gangs saved, each whole or not at all (12 R293). -/
def saveGangs (s : State) : List (List Nat) → State
  | [] => s
  | ks :: rest => saveGangs ((saveAll ks s).getD s) rest

/-- CONTEXT_STOP: when nothing is awaited, every workgroup of the context is saved, at a blocking point or not; a gang whose images
have no room keeps its slots. The report goes to the host. A host may also ask for it. -/
def execContextStop (ctx : Nat) (s : State) : Out := .next <|
  match getCtx s ctx with
  | none => s
  | some c =>
    if !(c.running == .running || c.running == .stopping) then s
    else if stopWaits s ctx c then modCtx s ctx fun c => { c with running := .stopping }
    else
      let s := saveGangs s (residentGangs s ctx)
      let report := if c.report.isEmpty then [0, 0, 0xFFFFFFFF, 0] else c.report
      sendEvent (modCtx s ctx fun c => { c with running := .stopped, report := [] }) ctx 1 (stopWords s report)

/-- A trapped warp of a resumed context that kept its slot continues as RTT would. -/
def resumeHeld (s : State) (w : Warp) : State :=
  if w.live && w.home.resident && w.handler && w.hbase = 0 then returnFromTrap reissue false (focus s w.id) else s

/-- CONTEXT_RESUME: the host lets a stopped context run again; its saved workgroups wait to be placed. -/
def execContextResume (ctx : Nat) (s : State) : Out := .next <|
  match getCtx s ctx with
  | none => s
  | some c =>
    if c.running != .stopped then s
    else
      let s := modCtx s ctx fun c => { c with running := .running, pulse := s.clock }
      let mine := (allWarps s).filter fun w => w.home.ctx == ctx
      let s := mine.foldl (fun s w => if w.isSeq then modWarp s w.id fun w => { w with halted := false } else s) s
      (mine.filter fun w => !w.isSeq).foldl resumeHeld s

/-! The release of a matrix set (09 R231, R409, 15 R383). -/

/-- Work of another context with the matrix mark waits for a cluster. -/
def markedWaiting (s : State) (ctx : Nat) : Bool :=
  s.launches.any (fun p => p.2.ctx != ctx && p.2.next < p.2.total && hdr p.2 671 1 == 1) ||
  s.groups.any (fun p => p.2.ctx != ctx && !p.2.resident && p.2.matrix) ||
  s.clusters.any fun k => k.2.bins.any fun b => b.2.ctx != ctx &&
    k.2.nodes.any fun n => n.1 == b.2.ctx && n.2.1 == b.2.node && nodeField n.2.2 205 1 == 1

/-- A signed 16-bit exponent, 0x8000 for NaN. -/
def expWord (e : Option Int) : Nat :=
  match e with
  | some i => wrapInt 16 i
  | none => 0x8000

/-- The image of a matrix set (15 Table 15-7); the state of its sequencer, the special registers of Table 07-1, the offset, the code's base and
the scalars, comes last (log 73). -/
def matrixImage (k : Cluster) (sq : State) : List Byte :=
  let row (r : Nat) : List Byte := match tget k.abuf r with
    | some a => padTo 1024 (a.q.flatMap (fun x => leBytes 2 (wrapInt 16 x)) ++ a.e.flatMap (fun x => leBytes 2 (expWord x)) ++ leBytes 2 a.p)
    | none => List.replicate 1024 0
  let slot (i : Nat) : List Byte := match tget k.lut i with
    | some x => padTo 0x2000 (padTo 0x1000 (x.sums.flatMap fun v => leBytes 4 (wrapInt 32 v)) ++ leBytes 2 x.row ++
        x.e.flatMap (fun v => leBytes 2 (expWord v)) ++ leBytes 2 x.p)
    | none => List.replicate 0x2000 0
  let exps := (List.range 0x4000).flatMap fun i => leBytes 2 (expWord (tgetD k.segExp i (some 0)))
  let counters := leBytes 4 k.batch.toNat ++ leBytes 4 k.done.toNat ++ leBytes 4 k.feed.toNat ++
    (List.range 32).flatMap (fun a => leBytes 1 (tgetD k.accFlags a 0).toNat) ++ leBytes 20 0 ++
    (List.range 24).flatMap (fun n => leBytes 8 (readSpecial sq n)) ++ leBytes 8 sq.w.o.toNat ++ leBytes 8 sq.w.code.base.toNat ++ leBytes 48 0 ++
    sq.w.s.flatMap fun x => leBytes 8 x.toNat
  mreadN k.tile 0 0x100000 ++ mreadN k.acc 0 0x80000 ++ mreadN k.cells 0 0x80000 ++ exps ++ (List.range 64).flatMap row ++
    (List.range 8).flatMap slot ++ padTo 0x1000 counters

/-- MATRIX_SET_RELEASE: a set that no resident marked workgroup and no MATRIX command keeps is released when another context
needs the cluster or its holder has no resident queue; it is saved when evicted workgroups that used it wait, else discarded. -/
def execMatrixSetRelease (cluster : Nat) (s : State) : Out := .next <|
  let k := getCluster s cluster
  match k.owner with
  | none => s
  | some ctx =>
    let kept := s.groups.any (fun p => p.2.ctx == ctx && p.2.resident && p.2.matrix && clusterOfCore p.2.core == cluster) ||
      !(tgetD k.queues 8 []).isEmpty || ((getWarp s cluster).map (·.live)).getD false || !k.ops.isEmpty || k.done != k.batch
    let idle := match getCtx s ctx with
      | some c => !(c.queues.any fun q => q.2.resident)
      | none => true
    if kept || !(idle || markedWaiting s ctx) then s
    else
      let waiting := (s.groups.filter fun p => p.2.ctx == ctx && !p.2.resident && p.2.savedOn == some cluster).map (·.1)
      let gone (s : State) : State := setWarp (clearSetOf s cluster none) (Warp.idle cluster (.seq cluster))
      if waiting.isEmpty then gone s
      else
        match takeSave s ctx setImageSize with
        | none => s
        | some (s, va) =>
          let breload := ((getCtx s ctx).map (·.trap.breload)).getD false
          let k' := if breload then { k with cells := [], segExp := [], badExp := [] } else k
          let bad := (setBad s cluster).filter fun p => !(breload && p.1 == 4)
          let sq := focus s cluster
          let s := gone (unitWrite s .firmware 0 ctx va.toNat (matrixImage k' sq)).1
          { s with
            sets := ⟨ctx, waiting, k', bad, sq.w, va⟩ :: s.sets
            groups := s.groups.map fun p => (p.1, if waiting.contains p.1 then { p.2 with savedOn := none } else p.2) }

end Sys2Proof.Machine
end

