-- ==== Sys2Proof/Machine/Strm.lean ====
section
/-! DEFINITION. Major STRM: stochastic streams (10 R232 to R250). -/
namespace Sys2Proof.Machine

/-- Where a lane of a stream register lies in the on-chip map (10 R251, 05 Table 05-4). -/
def streamPa (w : Warp) (z l : Nat) : Nat :=
  2 * 2 ^ 48 + 5 * 2 ^ 44 + w.cluster * 2 ^ 32 + w.zbase + (z * 128 + l) * w.zbytes

/-- The stream bits of a lane of a register lie in a poisoned sector (10 R253). -/
def streamPoison (s : State) (z l : Nat) : Option Nat :=
  if poisoned s s.ctx (streamPa s.w z l) (s.w.slen / 8) then some (streamPa s.w z l) else none

/-- The first ones of a stream (10 R244). -/
def onesOf (x : ZLane) : Nat := popBits 1024 x.bits.toNat

/-- A generated stream (10 R236). -/
def genStream (w : Warp) (k p16 l : Nat) : ZLane :=
  let bit (j : Nat) : Bool := decide (drizzleX w.seed k ((w.seed.ibase.toNat * w.slen + j) % 65536) l < p16)
  ⟨BitVec.ofNat 1024 (bitsBelow bit w.slen), BitVec.ofNat 16 (2 ^ k), false⟩
where
  /-- The number whose bits below n are those of a test. -/
  bitsBelow (bit : Nat → Bool) : Nat → Nat
    | 0 => 0
    | n + 1 => bitsBelow bit n + (if bit n then 2 ^ n else 0)

/-- p16 of an FP32 probability, and its flags (10 R244). -/
def probOf (x : Nat) : Nat × Flags :=
  let v := f32.read x
  if v.isNan then (0, flIV) else ((roundToInt .rne 0 65536 (v.scale 16)).1.toNat, 0)

/-- What a lane finds wrong with its sources (10 R247): the cause and its value for handler q1. -/
abbrev StreamFault := Option (Nat × Nat)

/-- Check 1: the first void source. -/
def voidFault (w : Warp) (l : Nat) (zs : List Nat) : StreamFault :=
  (zs.find? fun z => (w.zlane z l).void).map fun z => (STREAM_VOID, z)

/-- Check 2 of SAND and SOR (10 Table 10-8). -/
def meetFault (a b : BitVec 16) : StreamFault := if a &&& b = 0 then none else some (STREAM_CORRELATED, (a &&& b).toNat)
/-- Check 2 of SANDC and SORC. -/
def differFault (a b : BitVec 16) : StreamFault := if a = b then none else some (STREAM_CORRELATED, (a ^^^ b).toNat + 0x80000000)

/-- The first stream register at or beyond ZREGS, in the order in which they are named (10 R232, R249). -/
def zRange (w : Warp) (zs : List Nat) : Option Nat := zs.find? fun z => w.zregs ≤ z

/-- The stream registers that an instruction names, in the order ZA, ZB, ZC, ZD (10 R249). -/
def streamRegs (i : Instr) : List Nat :=
  let of (zs : List (BitVec 3)) : List Nat := zs.map (·.toNat)
  match i with
  | .sgen zd .. => of [zd]
  | .sand zd za zb => of [za, zb, zd]
  | .sor zd za zb => of [za, zb, zd]
  | .sandc zd za zb => of [za, zb, zd]
  | .sorc zd za zb => of [za, zb, zd]
  | .snot zd za => of [za, zd]
  | .smux zd zc za zb => of [za, zb, zc, zd]
  | .scnt za .. => of [za]
  | .scvtVal za .. => of [za]
  | .scvtWord za .. => of [za]
  | .sregen zd za _ => of [za, zd]
  | .scls za .. => of [za]
  | _ => []

/-- The checks of a vector minor: stream registers in the order ZA, ZB, ZC, ZD, then the other operands, then the streams of
every active lane, in ascending order. A stream that faults leaves the channel slots of the operands where they are (R248). -/
def streamCheck (s : State) (regs srcs : List Nat) (more : List (Src × Nat)) (dsts : List (Dst × Nat)) (test : Nat → StreamFault)
    (k : State → State) : State :=
  match if s.allLanes = 0 then none else zRange s.w regs with
  | some z => raise0 s REG_RANGE [0x100 + z]
  | none =>
    match prep s more dsts with
    | .stop s => s
    | .go s' =>
      let ls := maskLanes s.lanes
      let bad := ls.filterMap fun l => ((voidFault s.w l srcs).orElse fun _ => test l).map fun f => (l, f)
      match bad with
      | (_, f) :: _ =>
        let q1 : List W32 := (List.range 128).map fun l => BitVec.ofNat 32 (((bad.find? (·.1 == l)).map (·.2.2)).getD 0)
        raise s f.1 (maskOf fun l => bad.any (·.1 == l)) [q1]
      | [] =>
        match ls.findSome? fun l => srcs.findSome? fun z => streamPoison s z l with
        | some pa => stallPoison s pa s.w.iss.pc
        | none => k s'

/-- A stream register written in the issuing lanes; whole sectors written lose their poison (05 R105). -/
def writeZ (s : State) (z : Nat) (f : Nat → ZLane) : State :=
  let w := s.w
  let row := (List.range 128).map fun l => if hasLane s.lanes l then f l else w.zlane z l
  let clean (q : Nat) : Bool := (maskLanes s.lanes).any fun l => (wholeSectors (streamPa w z l) w.zbytes).contains q
  { s with w := { w with z := listPut [] w.z z row }, poison := s.poison.filter fun q => !clean q }

/-- A gate of one or two inputs: bits masked to L, the class mask, not void. -/
def gate (w : Warp) (x : BitVec 1024) (cls : BitVec 16) : ZLane := ⟨x &&& BitVec.ofNat 1024 (2 ^ w.slen - 1), cls, false⟩

/-- A minor of two sources ZA and ZB that writes ZD. -/
def gate2 (s : State) (zd za zb : BitVec 3) (test : BitVec 16 → BitVec 16 → StreamFault) (f : ZLane → ZLane → ZLane) : State :=
  let a (l : Nat) := s.w.zlane za.toNat l
  let b (l : Nat) := s.w.zlane zb.toNat l
  streamCheck s [za.toNat, zb.toNat, zd.toNat] [za.toNat, zb.toNat] [] [] (fun l => test (a l).cls (b l).cls) fun s =>
    advance (writeZ s zd.toNat fun l => f (a l) (b l))

/-- SGEN (10 R244). -/
def execSgen (zd : BitVec 3) (k : BitVec 4) (isF32 : Bool) (lit : Option W64) (p : Src) (s : State) : Out := .next <|
  streamCheck s [zd.toNat] [] [(p, 1)] [] (fun _ => none) fun s =>
    let w := s.w
    let prob (l : Nat) : Nat × Flags :=
      let x := w.opnd (if isF32 then .f32 else .n32) false lit l p
      if isF32 then probOf x else (min x 65536, 0)
    let s := writeZ s zd.toNat fun l => genStream w k.toNat (prob l).1 l
    advance (raiseFlags s ((maskLanes s.lanes).foldl (fun f l => f ||| (prob l).2) 0))

/-- SAND (10 R244). -/
def execSand (zd za zb : BitVec 3) (s : State) : Out := .next <|
  gate2 s zd za zb meetFault fun a b => gate s.w (a.bits &&& b.bits) (a.cls ||| b.cls)
/-- SOR (10 R244). -/
def execSor (zd za zb : BitVec 3) (s : State) : Out := .next <|
  gate2 s zd za zb meetFault fun a b => gate s.w (a.bits ||| b.bits) (a.cls ||| b.cls)
/-- SANDC (10 R244). -/
def execSandc (zd za zb : BitVec 3) (s : State) : Out := .next <|
  gate2 s zd za zb differFault fun a b => gate s.w (a.bits &&& b.bits) a.cls
/-- SORC (10 R244). -/
def execSorc (zd za zb : BitVec 3) (s : State) : Out := .next <|
  gate2 s zd za zb differFault fun a b => gate s.w (a.bits ||| b.bits) a.cls

/-- SNOT (10 R244). -/
def execSnot (zd za : BitVec 3) (s : State) : Out := .next <|
  streamCheck s [za.toNat, zd.toNat] [za.toNat] [] [] (fun _ => none) fun s =>
    let a (l : Nat) := s.w.zlane za.toNat l
    advance (writeZ s zd.toNat fun l => gate s.w (~~~ (a l).bits) (a l).cls)

/-- SMUX (10 R244). -/
def execSmux (zd zc za zb : BitVec 3) (s : State) : Out := .next <|
  let a (l : Nat) := s.w.zlane za.toNat l
  let b (l : Nat) := s.w.zlane zb.toNat l
  let c (l : Nat) := s.w.zlane zc.toNat l
  streamCheck s [za.toNat, zb.toNat, zc.toNat, zd.toNat] [za.toNat, zb.toNat, zc.toNat] [] []
    (fun l => meetFault (c l).cls ((a l).cls ||| (b l).cls)) fun s =>
    advance (writeZ s zd.toNat fun l =>
      gate s.w (((c l).bits &&& (a l).bits) ||| (~~~ (c l).bits &&& (b l).bits)) ((c l).cls ||| (a l).cls ||| (b l).cls))

/-- A minor that pushes a value of a stream register, or of none. -/
def streamValue (s : State) (regs srcs : List Nat) (more : List (Src × Nat)) (d : Dst) (tr : Bool) (f : Warp → Nat → Nat) (after : State → State) :
    State :=
  streamCheck s regs srcs more [(d, 1)] (fun _ => none) fun s =>
    let w := s.w
    let x := Vec.ofFn fun l => if hasLane s.lanes l then BitVec.ofNat 32 (f w l) else 0
    advance (after (putResult s d tr [x]))

/-- SCNT (10 R244). -/
def execScnt (za : BitVec 3) (d : Dst) (tr : Bool) (s : State) : Out := .next <|
  streamValue s [za.toNat] [za.toNat] [] d tr (fun w l => onesOf (w.zlane za.toNat l)) id

/-- SCVT.VAL: c / L, exact in FP32 (10 R244). -/
def execScvtVal (za : BitVec 3) (d : Dst) (tr : Bool) (s : State) : Out := .next <|
  streamValue s [za.toNat] [za.toNat] [] d tr
    (fun w l => (f32.round .rne false ((intVal (onesOf (w.zlane za.toNat l))).scale (-(w.slen.log2 : Int)))).1) id

/-- SCVT.DRAW (10 R240, R244). -/
def execScvtDraw (k : BitVec 4) (d : Dst) (tr : Bool) (s : State) : Out := .next <|
  streamValue s [] [] [] d tr (fun w l => w.drawOf k.toNat l) fun s => if s.lanes = 0 then s else tookDraw s

/-- SCVT.WORD (10 R244). -/
def execScvtWord (za : BitVec 3) (lit : Option W64) (x : Src) (d : Dst) (tr : Bool) (s : State) : Out := .next <|
  streamValue s [za.toNat] [za.toNat] [(x, 1)] d tr
    (fun w l => bitsAt (w.zlane za.toNat l).bits.toNat (32 * (w.opnd .b32 false lit l x % (w.slen / 32))) 32) id

/-- SREGEN (10 R244). -/
def execSregen (zd za : BitVec 3) (k : BitVec 4) (s : State) : Out := .next <|
  streamCheck s [za.toNat, zd.toNat] [za.toNat] [] [] (fun _ => none) fun s =>
    let w := s.w
    advance (writeZ s zd.toNat fun l => genStream w k.toNat (onesOf (w.zlane za.toNat l) * (65536 / w.slen)) l)

/-- SSEED (10 R245, Table 10-3). -/
def execSseed (lit : Option W64) (a : Src) (s : State) : Out := .next <|
  let x := (s.w.opndS lit a).toNat
  let f (i : Nat) : BitVec 16 := BitVec.ofNat 16 (bitsAt x (16 * i) 16)
  advance (s.modW fun w => { w with seed := ⟨f 0, f 1, f 2, f 3⟩ })

/-- SLEN (10 R246). -/
def execSlen (sub : BitVec 2) (s : State) : Out := .next <|
  let n := 256 * 2 ^ sub.toNat
  if s.w.lmax < n then raise0 s REG_RANGE [n]
  else
    advance (s.modW fun w =>
      if n = w.slen then w
      else { w with slen := n, z := w.z.map fun row => row.map fun x => { x with cls := 0, void := true } })

/-- SCLS (10 R244): CLS, VOID and the place of the reservation. -/
def execScls (za : BitVec 3) (d : Dst) (tr : Bool) (s : State) : Out := .next <|
  streamValue s [za.toNat] [] [] d tr (fun w l => (w.zlane za.toNat l).maskWord + w.zbase / 16 * 2 ^ 18) id

end Sys2Proof.Machine
end

