-- ==== Sys2Proof/Machine/Tile.lean ====
section
/-! DEFINITION. Major TILE: slices, tile transfers, and the waits on batches (09 R203, R223 to R226, 06 R143 to R145). -/
namespace Sys2Proof.Machine

/-- A byte of a cluster's matrix storage in the on-chip map: kind 2 tiles, 3 accumulators, 4 cells (05 Table 05-4). -/
def setPa (kind cl off : Nat) : Nat := 2 * 2 ^ 48 + kind * 2 ^ 44 + cl * 2 ^ 32 + off

/-- A range of matrix storage holds poison: where (09 R230). -/
def setPoison (s : State) (ctx kind cl off n : Nat) : Option Nat := if poisoned s ctx (setPa kind cl off) n then some (setPa kind cl off) else none

/-- The poison of the sectors that a write of matrix storage covers whole clears (05 R105). -/
def setClean (s : State) (kind cl off n : Nat) : State :=
  { s with poison := s.poison.filter fun q => !(wholeSectors (setPa kind cl off) n).contains q }

/-! Ownership (09 R203, R225). -/

/-- The warp's workgroup carries the matrix mark. -/
def marked (s : State) : Bool := ((s.group).map (·.matrix)).getD false

/-- A tile that this warp may not name. -/
def tileDenied (s : State) (tile : Nat) : Bool := !marked s || ((tile == 127) != s.w.handler)

/-- A tile instruction that names a tile. -/
def ownTile (s : State) (tile : Nat) (k : State → State) : State := if tileDenied s tile then raise0 s TILE_OWNERSHIP [tile] else k s

/-- MWAIT and MTEST, which name none. -/
def ownSet (s : State) (b : W32) (k : State → State) : State := if marked s then k s else raise0 s TILE_OWNERSHIP [128, b.toNat]

/-! Slices (09 R224). -/

/-- The byte of a tile slice. -/
def sliceAt (tile slice : W64) : Nat := 8192 * (tile.toNat % 128) + 512 * (slice.toNat % 16)

/-- TLDV. -/
def execTldv (lit : Option W64) (tile slice : Src) (d : Dst) (tr : Bool) (s : State) : Out := .next <|
  let t := s.w.opndS lit tile
  let at_ := sliceAt t (s.w.opndS lit slice)
  let cl := s.w.cluster
  ownTile s (t.toNat % 128) fun s =>
    match prep s [] [(d, 1)] with
    | .stop s => s
    | .go s =>
      match (maskLanes s.lanes).findSome? fun l => setPoison s s.ctx 2 cl (at_ + 4 * l) 4 with
      | some pa => stallPoison s pa s.w.iss.pc
      | none =>
        let mem := (getCluster s cl).tile
        advance (putResult s d tr [Vec.ofFn fun l => if hasLane s.lanes l then BitVec.ofNat 32 (mreadLE mem (at_ + 4 * l) 4) else 0])

/-- Words of lanes written to a tile. -/
def writeSlice (at_ : Nat) (x : Nat → W32) : List Nat → Mem → Mem
  | [], m => m
  | l :: ls, m => writeSlice at_ x ls (mwriteLE m (at_ + 4 * l) 4 (x l).toNat)

/-- Sectors of a slice whose eight lanes are all written. -/
def cleanSlice (s : State) (cl at_ : Nat) (m : Mask) : State :=
  (List.range 16).foldl (fun s i => if allBelow 8 fun j => hasLane m (8 * i + j) then setClean s 2 cl (at_ + 32 * i) 32 else s) s

/-- TSTV: helper lanes store nothing; with P the feed counter goes up once for the offset, in its lowest plane, after the
writes of every plane. -/
def execTstv (p : Bool) (lit : Option W64) (tile slice src : Src) (_tr : Bool) (s : State) : Out := .next <|
  let t := s.w.opndS lit tile
  let at_ := sliceAt t (s.w.opndS lit slice)
  let cl := s.w.cluster
  ownTile s (t.toNat % 128) fun s =>
    match prep s [(src, 1)] [] with
    | .stop s => s
    | .go s =>
      let m := s.lanes &&& ~~~ s.w.helpers
      let x (l : Nat) : W32 := BitVec.ofNat 32 (s.w.opnd .b32 false lit l src)
      let s := cleanSlice (modCluster s cl fun k => { k with tile := writeSlice at_ x (maskLanes m) k.tile }) cl at_ m
      let first := s.allLanes = 0 || hasLane s.lanes (lowPlaneLane s)
      advance (if p && first then modCluster s cl fun k => { k with feed := k.feed + 1 } else s)
where
  /-- A lane of the lowest occupied plane. -/
  lowPlaneLane (s : State) : Nat :=
    let ls := maskLanes s.allLanes
    let p := ls.foldl (fun p l => min p (s.w.planeOf l)) 4
    (ls.find? fun l => s.w.planeOf l == p).getD 128

/-! MWAIT and MTEST (09 R223, R226). -/

/-- A counter has reached a value: their difference is not negative as a signed 32-bit number. -/
def reached (count b : W32) : Bool := decide (0 ≤ signed 32 (count - b).toNat)

/-- The done count of the warp's cluster has reached a batch number. -/
def batchDone (s : State) (w : Warp) (b : W32) : Bool := reached (getCluster s w.cluster).done b

/-- MWAIT: satisfied, with an await edge from the batches (R227), or a wait. -/
def execMwait (lit : Option W64) (b : Src) (_tr : Bool) (s : State) : Out := .next <|
  let b : W32 := (s.w.opndS lit b).setWidth 32
  ownSet s b fun s => if batchDone s s.w b then advance (genBump s s.core) else advance (s.modW fun w => { w with wake := .mwait b })

/-- MTEST. -/
def execMtest (sd : BitVec 6) (lit : Option W64) (b : Src) (_tr : Bool) (s : State) : Out := .next <|
  let b : W32 := (s.w.opndS lit b).setWidth 32
  ownSet s b fun s =>
    let ok := batchDone s s.w b
    advance (setS (if ok then genBump s s.core else s) sd.toNat (if ok then 1 else 0))

/-! TLDG and TSTG (06 R143). -/

/-- A transfer issued. -/
def tileForm (store : Bool) (t : TileRun) (s : State) : State :=
  ownTile s t.tile.toNat fun s =>
    let x (o : Src) : W64 := s.w.opndS t.lit o
    logged s (.tile store t.tile.toNat t.ofs.toNat t.ty (fixedRnd s.w t.rnd) (x t.b0) (x t.e0) (x t.n) 0 0) .discard false false

def execTldg (t : TileRun) (s : State) : Out := .next <| tileForm false t s
def execTstg (t : TileRun) (s : State) : Out := .next <| tileForm true t s

/-! The transfer (06 R144, R145). -/

/-- How the sectors of a transfer go, with the flags raised so far: done; a fault at an element, those before it performed; poison;
remote bytes owed. -/
inductive Moved where
  | ok (s : State) (f : Flags)
  | fault (s : State) (e : LFault) (done : Nat) (f : Flags)
  | poison (s : State) (pa done : Nat) (f : Flags)
  | wait (s : State) (done : Nat) (f : Flags)

/-- The page of B0: its format and geometry, with the checks of R123 steps 6 to 8 at element `e` (log 98). -/
def tilePage (s : State) (store : Bool) (ty : Ty) (b0 e0 n e : Nat) : State × Except LFault (Nat × Nat) :=
  let k : Access := if store then .write else .read
  match xlateLane s .read k b0 1 with
  | (s, .error f) => (s, .error f)
  | (s, .ok x) =>
    let nb := blockElems x.fmt x.geom
    let isInt := x.geom == 0 && (x.fmt == 5 || x.fmt == 6)
    let bad : Option Nat :=
      if b0 % (32 * blockSectors x.geom) ≠ 0 || (store && x.geom ≠ 0 && (e0 % nb ≠ 0 || n % nb ≠ 0)) then some MISALIGNED
      else if !fmtOk x.fmt || (ty == .i32) != isInt then some FORMAT_MISMATCH
      else none
    match bad with
    | none => (s, .ok (x.fmt, x.geom))
    | some cause =>
      let (sec, lo, _) := if fmtOk x.fmt then locate x.fmt x.geom e else (0, 0, 0)
      match xlateLane s k k ((b0 + sec + lo / 8) % 2 ^ 64) 1 with
      | (s, .error f) => (s, .error f)
      | (s, .ok _) => (s, .error (lfVa cause b0))

/-- The mode of one element, and the state after its draw (06 R144, 10 R240). -/
def tileMode (s : State) (r : Rnd) : RMode × State :=
  let w := { s.w with iss := { s.w.iss with draw := none } }
  (w.mode r 0, if rndDraws r then s.modW fun w => { w with seed := { w.seed with draw := w.seed.draw + 1 } } else s)

/-- The value of an element in the tile run, as the 32 bits that an element store takes; a signalling NaN stays one (04 R80). -/
def runValue (ty : Ty) (x : Nat) : W32 :=
  let widen (f : Fmt) : Nat := match f.read x with
    | .nan true => 0x7F800001
    | v => (f32.round .rne false v).1
  BitVec.ofNat 32 (match ty with
    | .f16 => widen f16
    | .bf16 => widen bf16
    | _ => x)

/-- One element of TLDG: read at its home in one snapshot of its sector, decoded, and written into the run; its flags. -/
def loadRun (s : State) (at_ : Nat) (ty : Ty) (r : Rnd) (p : ElemAt) : State × Got Flags :=
  match homePiece (homeFirst s p.pa 32) p.pa 32 with
  | (s, .ok bs) =>
    let sc : State × Got (Option Nat) := match p.scale, scaleApart p with
      | none, _ => (s, .ok none)
      | some pa, none => (s, .ok (some (bitsAt (leNat bs) (8 * (pa % 32)) 8)))
      | some _, some pa =>
        match homePiece (homeFirst s pa 1) pa 1 with
        | (s, .ok b) => (s, .ok (some (leNat b)))
        | (s, .poison q) => (s, .poison q)
        | (s, _) => (s, .wait)
    match sc with
    | (s, .ok sc) =>
      let v := decodeElem p.fmt sc (bitsAt (leNat bs) p.lo (elemWidth p.fmt))
      let narrow (f : Fmt) : State × Nat × Flags :=
        let (md, s) := tileMode s r
        let y := f.round md false (f32.read v.toNat)
        (s, y.1, y.2)
      let (s, x, g) : State × Nat × Flags := match ty with
        | .f16 => narrow f16
        | .bf16 => narrow bf16
        | _ => (s, v.toNat, 0)
      let cl := s.w.cluster
      (modCluster s cl fun k => { k with tile := mwriteLE k.tile at_ (runSize ty) x }, .ok g)
    | (s, .poison q) => (s, .poison q)
    | (s, _) => (s, .wait)
  | (s, .poison q) => (s, .poison q)
  | (s, _) => (s, .wait)

/-- TLDG's elements from number `i` on, `k` of them. -/
def loadRunAll (tile ofs : Nat) (ty : Ty) (r : Rnd) (b0 e0 : Nat) (page : Nat × Nat) : Nat → Nat → State → Flags → Moved
  | 0, _, s, f => .ok s f
  | k + 1, i, s, f =>
    match elemFind s .read b0 ((e0 + i) % 2 ^ 64) page.1 page.2 false with
    | (s, .error e) => .fault s e i f
    | (s, .ok p) =>
      match loadRun s (8192 * tile + 32 * ofs + runSize ty * i) ty r p with
      | (s, .ok g) => loadRunAll tile ofs ty r b0 e0 page k (i + 1) s (f ||| g)
      | (s, .poison pa) => .poison s pa i f
      | (s, _) => .wait s i f

/-- The largest magnitude of an element format (06 R144). -/
def maxElem (fmt : Nat) : Fv :=
  match fmt with
  | 1 => intVal 4096
  | 2 => intVal 256
  | 3 => .num false 255 120 false
  | 4 => intVal 65504
  | 5 => intVal 127
  | 6 => intVal 7
  | _ => f32.read 0x7F7FFFFF

/-- The least integer k from `lo` up, in at most `n` trials, with m at most maxF times 2^k. -/
def leastExp (m maxf : Fv) : Nat → Int → Int
  | 0, k => k
  | n + 1, k => if (fvCmp (maxf.scale k) m).1 then leastExp m maxf n (k + 1) else k

/-- The scale byte of a block (06 R144): none for a NaN block. -/
def blockScale (fmt : Nat) (xs : List W32) : Option Nat :=
  let vs := xs.map fun x => f32.read x.toNat
  if vs.any (·.isNan) then none
  else
    let mags := (vs.filter fun v => !v.isInf).map fun v => if v.neg then v.negate else v
    let m := mags.foldl (fun a b => if (fvCmp a b).1 then b else a) (intVal 0)
    if m.isZero then some 127 else some (clampInt 0 254 (127 + leastExp m (maxElem fmt) 600 (-300))).toNat

/-- The codes of a run of elements, drawn and rounded in order, and their flags. -/
def encodeRun (fmt : Nat) (sc : Option Nat) (isInt : Bool) (r : Rnd) : List W32 → State → List Nat → Flags → State × List Nat × Flags
  | [], s, acc, f => (s, acc.reverse, f)
  | x :: xs, s, acc, f =>
    let (md, s) := tileMode s r
    match encodeElem md fmt sc isInt x with
    | some (c, g) => encodeRun fmt sc isInt r xs s (c :: acc) (f ||| g)
    | none => encodeRun fmt sc isInt r xs s (0 :: acc) f

/-- Elements put into a sector one after another from a bit up. -/
def packSector (w lo : Nat) : List Nat → Nat → Nat
  | [], x => x
  | c :: cs, x => packSector w (lo + w) cs (putElem x lo w c)

/-- What TSTG writes of a sector (06 R144): all of it, or the bytes from the first element's to the last one's over what the
home holds. -/
def storeSector (s : State) (p : ElemAt) (whole : Bool) (first : Option Nat) (codes : List Nat) : State × Got Unit :=
  let w := elemWidth p.fmt
  if whole then
    (homeWrite (homeFirst s p.pa 32) p.pa (leBytes 32 (packSector w p.lo codes (first.getD 0))), .ok ())
  else
    let b := p.lo / 8
    let n := (p.lo + w * codes.length - 1) / 8 - b + 1
    let need := p.fmt = 2 || p.fmt = 6
    match if need then homePiece (homeFirst s p.pa 32) p.pa 32 else (homeFirst s p.pa 32, .ok (List.replicate 32 0)) with
    | (s, .ok old) =>
      (homeWrite s (p.pa + b) (leBytes n (packSector w p.lo codes (leNat old) / 2 ^ (8 * b))), .ok ())
    | (s, .poison q) => (s, .poison q)
    | (s, _) => (s, .wait)

/-- TSTG's sectors from element `i` on, of `n`; each round takes one sector. -/
def storeRunAll (tile ofs : Nat) (ty : Ty) (r : Rnd) (b0 e0 n : Nat) (page : Nat × Nat) : Nat → Nat → State → Flags → Moved
  | 0, _, s, f => .ok s f
  | fuel + 1, i, s, f =>
    if n ≤ i then .ok s f
    else
      let fmt := page.1
      let geom := page.2
      let (n0, n1, _) := packing fmt
      let nb := blockElems fmt geom
      let e := (e0 + i) % 2 ^ 64
      let inBlock := e % nb
      let start := geom ≠ 0 && inBlock < n1
      let room := if geom = 0 then n0 - inBlock else if start then n1 - inBlock else n0 - (inBlock - n1) % n0
      let count := min room (n - i)
      let val (j : Nat) : W32 :=
        runValue ty (mreadLE (getCluster s s.w.cluster).tile (8192 * tile + 32 * ofs + runSize ty * j) (runSize ty))
      match elemFind s .write b0 e fmt geom false with
      | (s, .error e) => .fault s e i f
      | (s, .ok p) =>
        let cl := s.w.cluster
        match setPoison s s.ctx 2 cl (8192 * tile + 32 * ofs + runSize ty * i) (runSize ty * count) with
        | some pa => .poison s pa i f
        | none =>
          let sc : Option (Option Nat) :=
            if geom = 0 then none else some (blockScale fmt ((List.range nb).map fun j => val (i - inBlock + j)))
          let xs := (List.range count).map fun j => val (i + j)
          let s0 := s
          let (s, codes, g) : State × List Nat × Flags := match sc with
            | some none => (s, List.replicate count 0, flIV)
            | some (some k) => encodeRun fmt (some k) false r xs s [] 0
            | none => encodeRun fmt none (intSource p) r xs s [] 0
          let byte : Option Nat := if start then sc.map (·.getD 255) else none
          match storeSector s p (geom ≠ 0 || count = n0) byte codes with
          | (s, .ok ()) => storeRunAll tile ofs ty r b0 e0 n page fuel (i + count) s (f ||| g)
          | (s', .poison pa) => .poison { s' with w := s0.w } pa i f
          | (s', _) => .wait { s' with w := s0.w } i f

/-- A transfer from where it stands, with the flags that it has raised so far. -/
def moveTile (s : State) (store : Bool) (tile ofs : Nat) (ty : Ty) (r : Rnd) (b0 e0 n done : Nat) (f : Flags) : Moved :=
  if n ≤ done then .ok s f
  else
    match tilePage s store ty b0 e0 n ((e0 + done) % 2 ^ 64) with
    | (s, .error e) => .fault s e done f
    | (s, .ok page) =>
      if store then storeRunAll tile ofs ty r b0 e0 n page (n - done) done s f
      else loadRunAll tile ofs ty r b0 e0 page (n - done) done s f

/-- TILE_TRANSFER_COMPLETE (06 R145): the oldest transfer of a warp performs its sectors, and finishes, raising its flags (04 R102), or
stops at a fault. -/
def execTileTransferComplete (warp : Nat) (s : State) : Out := .next <|
  match getWarp s warp with
  | none => s
  | some w =>
    match w.xfers with
    | [] => s
    | q :: rest =>
      match q.op with
      | .tile store tile ofs ty rnd b0 e0 n done f0 =>
        let now (k : Nat) (f : Flags) : Req := { q with op := .tile store tile ofs ty rnd b0 e0 n k f }
        let poison (s : State) (pa k : Nat) (f : Flags) : State :=
          poisonStop (s.modW fun w => { w with xfers := now k f :: rest }) s.ctx pa q.pc
        match moveTile (focus s warp) store tile ofs ty rnd b0.toNat e0.toNat n.toNat done f0 with
        | .ok s f => (raiseFlags (dropRemotes s warp) f).modW fun w => { w with xfers := rest }
        | .fault s e k f =>
          if e.cause = 0 then poison s (e.q2 * 2 ^ 32 + e.q3) k f
          else
            let t := s.modW fun w => { w with xfers := rest, log := [[now k f]], iss := { Issue.idle with next := w.o } }
            endReturn (s.modW fun w => { w with xfers := now k f :: rest }) (takeTrap t { faultTrap (now k f) [(0, e)] with rpc := s.w.o })
        | .poison s pa k f => poison s pa k f
        | .wait s k f => s.modW fun w => { w with xfers := now k f :: rest }
      | _ => modWarp s warp fun w => { w with xfers := rest }

end Sys2Proof.Machine
end

