-- ==== Sys2Proof/Machine/Sched.lean ====
section
/-! DEFINITION. Scheduling, power, current, heat, soft errors and the walker as events (chapter 14, 03 R56, 05 R105, R118, 15 R363). -/
namespace Sys2Proof.Machine

/-! The resident set (14 R343). -/

/-- The count of the watchdog pauses while a context has no resident queue (14 R359). -/
def settleIdle (s : State) (c : Ctx) : Ctx :=
  if c.queues.any fun q => q.2.resident then
    match c.idleAt with
    | some t => { c with idleAt := none, pulse := c.pulse + (s.clock - max t c.pulse) }
    | none => c
  else { c with idleAt := some (c.idleAt.getD s.clock) }

/-- Every queue with its context and number. -/
def allQueues (s : State) : List (Nat × Nat × Queue) := s.ctxs.flatMap fun c => c.2.queues.map fun q => (c.1, q.1, q.2)

/-- The order in which firmware takes queues: higher priority first, then the one that has been non-resident longest. -/
def queueBefore (a b : Queue) : Bool :=
  b.prio < a.prio || (a.prio == b.prio && (!a.resident && (b.resident || a.since < b.since)))

/-- Queues in that order. -/
def inOrder (qs : List (Nat × Nat × Queue)) : List (Nat × Nat × Queue) :=
  qs.foldr (fun x acc => acc.takeWhile (fun y => queueBefore y.2.2 x.2.2) ++ x :: acc.dropWhile (fun y => queueBefore y.2.2 x.2.2)) []

/-- The resident set chosen again: workgroups of a queue that leaves are to be pre-empted, a request that has not been met ends
when the queue is taken again. -/
def chooseResident (s : State) : State :=
  let taken := ((inOrder (allQueues s)).take 64).map fun q => (q.1, q.2.1)
  let pick (c qi : Nat) (q : Queue) : Queue :=
    let r := taken.contains (c, qi)
    if q.resident && !r then { q with resident := false, since := s.clock } else { q with resident := r }
  let s := { s with ctxs := s.ctxs.map fun (c : Nat × Ctx) =>
    (c.1, settleIdle s { c.2 with queues := c.2.queues.map fun (q : Nat × Queue) => (q.1, pick c.1 q.1 q.2) }) }
  { s with groups := s.groups.map fun (g : Nat × Group) =>
      (g.1, match getQueue s g.2.ctx g.2.qi with
        | some q =>
          if q.resident then { g.2 with preempt := none, overdue := false }
          else if g.2.resident && g.2.preempt.isNone then { g.2 with preempt := some s.clock } else g.2
        | none => g.2) }

/-- The device's quantum in fabric cycles: the shortest of its contexts' (14 Table 14-5). -/
def quantumLength (s : State) : Nat :=
  25 * us10 * s.ctxs.foldl (fun n c => min n c.2.sched.quantum) 255

/-! The Barometer, islands and leases (14 R351 to R357). -/

/-- The warps resident in an island. -/
def islandWarps (s : State) (cl g : Nat) : List Warp :=
  (allWarps s).filter fun w => w.live && w.home.resident && w.groupId.isSome && w.cluster == cl && w.home.group == g

/-- A warp that is memory-blocked (14 R353): its last try to issue waits on its scoreboard or on CWAIT, or it is blocked in WAITMEM, YLDC or
a remote load. -/
def memoryBlocked (w : Warp) : Bool :=
  w.parked || match w.wake with
    | .waitmem .. => true
    | .yldc .. => true
    | .remote _ => true
    | _ => false

/-- The islands of which some warp is not memory-blocked now have not passed the present window blocked. -/
def noteAwake (s : State) : List Warp → State
  | [] => s
  | w :: ws =>
    let k := getCluster s w.cluster
    let i := island k w.home.group
    if w.live && w.home.resident && w.groupId.isSome && !memoryBlocked w && !i.awake then
      noteAwake (setCluster s w.cluster { k with islands := tput k.islands w.home.group { i with awake := true } }) ws
    else noteAwake s ws

/-- The leases of a cluster's warps run or pause. -/
def repause (s : State) (cl : Nat) : State :=
  mapWarps s fun w => if w.cluster == cl && w.lease.rem != 0 then { w with lease := { w.lease with paused := !leaseRuns s w } } else w

/-- BAROMETER_WINDOW (14 R351 to R353, R361): the window's sum against the thresholds governs the next one; a change of the
power control takes effect; islands whose warps have all been memory-blocked count a window. -/
def execBarometerWindow (cluster : Nat) (s : State) : Out := .next <|
  let k := getCluster s cluster
  if s.clock < k.windowAt then s
  else
    let isle (g : Nat) : Nat × Island :=
      let ws := islandWarps s cluster g
      let i := island k g
      (g, { i with windows := if !ws.isEmpty && ws.all memoryBlocked && !i.awake then i.windows + 1 else 0, awake := false })
    repause (setCluster s cluster { k with
      lastSum := k.charge, charge := 0, pairing := decide (256 * k.power.soft ≤ k.charge), throttle := decide (256 * k.power.hard ≤ k.charge)
      power := k.pending.getD k.power, pending := none, weights := k.pendingW.getD k.weights, pendingW := none
      islands := (List.range 4).map isle, windowAt := s.clock / 40 * 40 + 40 }) cluster

/-- NEAR_THRESHOLD_ENTRY (14 R353). -/
def execNearThresholdEntry (cluster group : Nat) (s : State) : Out := .next <|
  let k := getCluster s cluster
  let i := island k group
  if k.power.ntwin ≠ 0 && k.power.ntwin ≤ i.windows && !i.near && !i.awake && !(islandWarps s cluster group).isEmpty &&
      (islandWarps s cluster group).all memoryBlocked then
    repause (setCluster s cluster { k with islands := tput k.islands group { i with near := true } }) cluster
  else s

/-- NEAR_THRESHOLD_EXIT (14 R353): a warp of the island is ready. -/
def execNearThresholdExit (cluster group : Nat) (s : State) : Out := .next <|
  let k := getCluster s cluster
  let i := island k group
  if i.near && (islandWarps s cluster group).any fun w => !memoryBlocked w && w.wake == .ready && w.busy ≤ s.clock then
    repause (setCluster s cluster { k with islands := tput k.islands group { i with near := false, windows := 0 } }) cluster
  else s

/-- LEASE_REFILL (14 R355): one unit for every REFILL x 1,024 fabric cycles that have passed, up to 2,047. -/
def execLeaseRefill (cluster : Nat) (s : State) : Out := .next <|
  let k := getCluster s cluster
  let p := k.power.refill * 1024
  if s.clock < k.refillAt || p = 0 then s
  else
    let n := (s.clock - k.refillAt) / p + 1
    setCluster s cluster { k with pool := min 2047 (k.pool + n), refillAt := k.refillAt + n * p }

/-- LEASE_TICK (14 R355): units of boost have run; a lease with none left ends. -/
def execLeaseTick (warp : Nat) (s : State) : Out := .next <|
  modWarp s warp fun w =>
    if w.lease.rem = 0 || w.lease.ran < 1024 then w
    else if w.lease.left = 0 then { w with lease := ⟨0, 0, false, 0⟩ }
    else { w with lease := { w.lease with rem := w.lease.rem - w.lease.ran / 1024, ran := w.lease.ran % 1024 } }

/-- ICACHE_FILL (14 R350): a line of code arrives, and the sequencers of the cluster that wait for it go on. -/
def execIcacheFill (cluster ctx line : Nat) (s : State) : Out := .next <|
  mapWarps (fillIcache s cluster ctx line) fun w =>
    if w.cluster == cluster && w.home.ctx == ctx && w.frozen == some line then { w with frozen := none } else w

/-- STACK_THERMAL_CHANGE (05 R118, 14 R354): normal, hot or trip; entering and leaving trip is event 7. -/
def execStackThermalChange (tower : Nat) (level : BitVec 2) (s : State) : Out := .next <|
  let t := getTower s tower
  if level = 3 || 8 ≤ tower || t.thermal = level.toNat then s
  else
    let s := if t.thermal = 2 || level = 2 then sendEvent s 0 7 [tower] else s
    let t := getTower s tower
    let s := setTower s tower { t with thermal := level.toNat, touched := if level = 0 then [] else t.touched, hot := if level = 0 then [] else t.hot }
    (s.clusters.map (·.1)).foldl (fun s k => if towerOfCluster k == tower then repause s k else s) s

/-! The Doldrums watchdog (14 R359). -/

/-- WDLOG and WDKILL as they hold: a change takes effect at the next window of 64 cycles (14 R361). -/
def Ctx.dog (c : Ctx) (clock : Nat) : Nat × Bool :=
  match c.dogOld with
  | some (t, l, k) => if clock < t then (l, k) else (c.sched.wdlog, c.sched.wdkill)
  | none => (c.sched.wdlog, c.sched.wdkill)

/-- The watchdog's window of a context in fabric cycles. -/
def watchWindow (s : State) (c : Ctx) : Nat := 5 * 2 ^ (c.dog s.clock).1 / 8

/-- WATCHDOG_FIRE: event 3 and a new window; with WDKILL the context is killed. -/
def execWatchdogFire (ctx : Nat) (s : State) : Out := .next <|
  match getCtx s ctx with
  | none => s
  | some c =>
    if c.running == .killed || c.idleAt.isSome || !(c.queues.any fun q => q.2.resident) || s.clock < c.pulse + watchWindow s c then s
    else
      let s := sendEvent (modCtx s ctx fun c => { c with pulse := s.clock }) ctx 3 []
      if (c.dog s.clock).2 then sendEvent (killCtx s ctx) ctx 10 [2] else s

/-! Soft errors, walks and trap entry. -/

/-- The physical address of a site; the segment exponents stand outside the physical address space. -/
def siteAddr : EccSite → Nat
  | .memory pa => pa
  | .tile c b => setPa 2 c b
  | .acc c b => setPa 3 c b
  | .cells c b => setPa 4 c b
  | .exps c b => setPa 6 c b
  | .stream c b => setPa 5 c b

/-- ECC_UNCORRECTABLE (05 R105, 09 R230, 10 R253): the sector is poisoned until a store overwrites all of it. -/
def execEccUncorrectable (site : EccSite) (s : State) : Out := .next <|
  match site with
  | .exps c b =>
    if 160 ≤ c || 0x8000 ≤ b then s
    else modCluster s c fun k => { k with badExp := if k.badExp.contains (b / 32) then k.badExp else b / 32 :: k.badExp }
  | _ =>
    let q := siteAddr site / 32
    if !populated (q * 32) 32 || s.poison.contains q then s else { s with poison := q :: s.poison }

/-- PAGE_WALK (03 R56 to R66): a walk for an access of one byte, which sets A and D and fills the walker's caches; what it finds
wrong is the access's fault, as is a VA beyond 57 bits, which is not walked (R53). -/
def execPageWalk (u : Walker) (ctx : Nat) (va : W64) (kind : Access) (s : State) : Out := .next <|
  if 2 ^ 57 ≤ va.toNat then s else (walk s u ctx kind false va.toNat 1).1

/-- TRAP_ENTRY (15 R363): the warp in focus takes a trap. -/
def execTrapEntry (t : Trap) (s : State) : Out := .next (takeTrap s t)

end Sys2Proof.Machine
end

