-- ==== Sys2Proof/Machine/Packet.lean ====
section
/-! DEFINITION. Packets and CONFIG items (16 R390 to R395, 03 R74 to R76, 12 R290, R291). -/
namespace Sys2Proof.Machine

/-! The next packet of a queue (16 R390, R392). -/

/-- The key under which the firmware waits for remote bytes of a queue. -/
def queueKey (ctx qi : Nat) : Nat := 2 ^ 41 + 256 * ctx + qi

/-- A packet in hand: its type, class, priority and body (as a little-endian number, with its bytes), and whether it is to start
now or is already in progress. -/
structure Packet where
  ty    : Nat
  cls   : Nat
  prio  : Nat
  bytes : List Byte
  fresh : Bool
  deriving DecidableEq, Repr

def Packet.at_ (p : Packet) (lo n : Nat) : Nat := bitsAt (leNat (p.bytes.take 128)) lo n

/-- What a queue holds next. -/
inductive Head where
  | idle
  | wait
  | fault (f : PFault) (va : Nat)
  | poison (pa : Nat)
  | mismatch
  | refused
  | ready (p : Packet)

/-- The queue may start a packet (16 R390, R392, 14 R343, 15 R371). -/
def mayStart (s : State) (ctx : Nat) (q : Queue) : Bool :=
  (match getCtx s ctx with
    | some c => c.running == .running
    | none => false) &&
  (q.resident || ctx = 0) && !q.parked && !q.removing && q.started.isNone && 0 < q.announced

/-- The await entries of a header: none names a packet still to complete, or one names a queue that does not exist (16 R392). -/
def awaits (s : State) (ctx hd : Nat) : Option Bool :=
  let es := (List.range (bitsAt hd 14 2)).map fun i => (bitsAt hd (64 + 40 * i) 8, BitVec.ofNat 32 (bitsAt hd (72 + 40 * i) 32))
  if es.any fun e => (getQueue s ctx e.1).isNone then none
  else
    some (es.all fun e => match (getQueue s ctx e.1).bind (·.last) with
      | some l => (l - e.2).toNat < 2 ^ 31
      | none => false)

/-- A packet's LEN is one that its slot has room for. -/
def lenOk (q : Queue) (h : Nat) : Bool := bitsAt h 16 16 != 0 && 64 * (bitsAt h 16 16 + 1) ≤ q.slot

/-- The rest of the header, and the body, checked (16 Table 16-2, R392). -/
def checkHeader (s : State) (ctx qi : Nat) (hd : List Byte) (body : List Byte) : Head :=
  let h := leNat hd
  if crc32c body ≠ bitsAt h 192 32 then .mismatch
  else if bitsAt h 0 8 = 0 || 6 < bitsAt h 0 8 || bitsAt h 184 8 ≠ 0 || bitsAt h 224 288 ≠ 0 || (ctx = 0 && qi = 0 && bitsAt h 0 8 ≠ 6) then .refused
  else
    match awaits s ctx h with
    | none => .refused
    | some false => .idle
    | some true => .ready ⟨bitsAt h 0 8, bitsAt h 8 3, bitsAt h 11 3, body, true⟩

/-- What a queue holds next: the packet in progress whose body the device still needs, or the next one read from its slot. -/
def packetHead (s : State) (ctx qi : Nat) : State × Head :=
  match getQueue s ctx qi with
  | none => (s, .idle)
  | some q =>
    match q.started with
    | some (_, ty) => (s, if q.body.isEmpty || !(match getCtx s ctx with
        | some c => c.running == .running
        | none => false) then .idle else .ready ⟨ty.toNat, 0, q.prio, q.body, false⟩)
    | none =>
      if !mayStart s ctx q then (s, .idle)
      else
        let va := q.ring.toNat + q.expect.toNat % max q.n 1 * q.slot
        let who := queueKey ctx qi
        match unitRead s .firmware who ctx va 64 with
        | (s, .fault f) => (s, .fault f va)
        | (s, .poison pa) => (s, .poison pa)
        | (s, .wait) => (s, .wait)
        | (s, .ok hd) =>
          if bitsAt (leNat hd) 32 32 ≠ q.expect.toNat then (dropRemotes s who, .mismatch)
          else if !lenOk q (leNat hd) then (dropRemotes s who, .refused)
          else
            match unitRead s .firmware who ctx (va + 64) (64 * bitsAt (leNat hd) 16 16) with
            | (s, .fault f) => (s, .fault f va)
            | (s, .poison pa) => (s, .poison pa)
            | (s, .wait) => (s, .wait)
            | (s, .ok body) => (dropRemotes s who, checkHeader s ctx qi hd body)

/-- The SEQ of the packet in hand: the queue's expected one, which a packet in progress still is. -/
def packetSeq (s : State) (ctx qi : Nat) : W32 := ((getQueue s ctx qi).map (·.expect)).getD 0

/-- A packet starts: its priority is the queue's (14 R343); its body is kept when it is needed again. -/
def startPacket (s : State) (ctx qi : Nat) (p : Packet) (keep : Bool) : State :=
  modQueue s ctx qi fun q =>
    { q with started := some (q.expect, BitVec.ofNat 8 p.ty), prio := p.prio, rereads := 0, body := if keep then p.bytes else [] }

/-- The packet in hand completes at once. -/
def endPacket (s : State) (ctx qi status detail value fword : Nat) : State :=
  completePacket s ctx qi (packetSeq s ctx qi) status detail value fword

/-- A packet of a type: its meaning, or nothing where the queue holds none of it. -/
def onPacket (ctx qi : Nat) (mine : Packet → Bool) (act : State → Packet → State) (s : State) : State :=
  match packetHead s ctx qi with
  | (s', .ready p) => if mine p then act (modQueue s' ctx qi fun q => { q with prio := if p.fresh then p.prio else q.prio }) p else s
  | (s', .wait) => keepAsked s s' (queueKey ctx qi)
  | _ => s

/-! LAUNCH (12 R290 to R292). -/

/-- A role entry with no reserved value. -/
def roleOk (r : Nat) : Bool := r % 32 ≤ 16 && bitsAt r 5 7 ≤ 64 && bitsAt r 13 19 == 0 && bitsAt r 32 2 == 0

/-- An absent role is followed by none. -/
def rolesOrdered : List Nat → Bool
  | a :: b :: rest => (a % 32 != 0 || b % 32 == 0) && rolesOrdered (b :: rest)
  | _ => true

/-- Lane-group loads (registers and warps) tried for the warps of a workgroup, then what follows. -/
def tryGroups (budget : Nat) (k : List Nat → Bool) : List Nat → List Nat → Bool
  | [], lgs => k lgs.reverse
  | r :: rest, lgs => ([0, 1, 2, 3] : List Nat).any fun i => (lgs.filter (· == (i + lgs.length) % 4)).length < 16 && r + 8 ≤ 1024 &&
      tryGroups budget k rest ((i + lgs.length) % 4 :: lgs)

/-- `n` workgroups fit one empty core with what is used already: registers with headroom, and at most 16 warps a lane group. -/
def coreHolds (regs : List Nat) (budget : Nat) : Nat → List (Nat × Nat) → Bool
  | 0, _ => true
  | n + 1, used => tryGroups budget (fun lgs =>
      let res := reservation lgs regs budget
      let next := (List.range 4).map fun g =>
        ((used.getD g (0, 0)).1 + tgetD res g 0 + 8 * (lgs.filter (· == g)).length, (used.getD g (0, 0)).2 + (lgs.filter (· == g)).length)
      next.all (fun x => x.1 ≤ 1024 && x.2 ≤ 16) && coreHolds regs budget n next) regs []

/-- The most workgroups that one empty core holds, up to a bound. -/
def coreCapacity (n : Needs) : Nat → Nat
  | 0 => 0
  | k + 1 => if roundUp ((k + 1) * n.scratch) 64 ≤ 448 && (k + 1) * n.regs.length ≤ 64 && coreHolds n.regs n.budget (k + 1) [] then k + 1 else coreCapacity n k

/-- The refusals of R291. -/
def launchRefused (s : State) (x : Launch) : Bool :=
  let ws := (List.range 6).map (hdrWidth x)
  let roles := (List.range 4).map (hdrRole x)
  let n := launchNeeds x
  let areas := match ctxAreas s x.ctx with
    | some a => a.2.1.size != 0 && a.2.2.1.size != 0
    | none => false
  let reserved := hdr x 0 12 != 0 || hdr x 64 2 != 0 || !planesOk (hdr x 96 2) (hdr x 98 14) || hdr x 112 16 != 0 || hdr x 158 3 < 2 || hdr x 158 3 == 7 ||
    hdr x 161 31 != 0 || !roles.all roleOk || 448 < hdr x 656 9 || 8 < hdr x 665 4 || hdr x 669 2 == 3 || 32 < hdr x 672 6 || hdr x 678 26 != 0 ||
    hdr x 704 3 != 0 || hdr x 768 8 != 0 || hdr x 800 224 != 0 ||
    (List.range 6).any fun i => hdrExt x i == 0 || 2 ^ hdrWidth x i < hdrExt x i
  reserved || 7 < ws.getD 0 0 || 11 < ws.getD 0 0 + ws.getD 1 0 || 64 < ws.foldl (· + ·) 0 ||
  (roles.map (· % 32)).foldl (· + ·) 0 != hdrExt x 1 || !rolesOrdered roles ||
  8 * n.budget < n.regs.foldl (· + ·) 0 || !areas ||
  (let cap := coreCapacity n (min 64 (gangSize x))
   cap == 0 || 4 * cap < gangSize x || 0x40000 < gangSize x * n.regs.length * streamBytes n.zregs n.zmax)

/-- LAUNCH: the header and the parameters are read, and the launch is accepted or refused; it completes with its last thread. -/
def execLaunch (ctx qi : Nat) (s : State) : Out := .next <|
  onPacket ctx qi (fun p => p.ty = 1 && p.fresh) (fun s p =>
    let who := queueKey ctx qi
    let va := p.at_ 0 64
    let fault (s : State) (f : PFault) : State := endPacket s ctx qi 2 0 f.va f.word
    if va % 64 ≠ 0 || p.at_ 64 448 ≠ 0 then endPacket s ctx qi 1 0 0 0
    else
      match unitRead s .firmware who ctx va 128 with
      | (s, .fault f) => fault s f
      | (s, .poison pa) => poisonStop s ctx pa 0
      | (s, .wait) => s
      | (s, .ok hd) =>
        let x : Launch := ⟨ctx, qi, packetSeq s ctx qi, BitVec.ofNat 1024 (leNat hd), [], 0, 0, 0, p.cls, p.prio⟩
        if launchRefused s x then endPacket s ctx qi 1 0 0 0
        else
          match unitRead s .firmware who ctx (hdr x 704 64) (8 * hdr x 672 6) with
          | (s, .fault f) => fault s f
          | (s, .poison pa) => poisonStop s ctx pa 0
          | (s, .wait) => s
          | (s, .ok bs) =>
            let total := (List.range 4).foldl (fun n i => n * hdrExt x (2 + i)) 1
            let params := (List.range (hdr x 672 6)).map fun i => BitVec.ofNat 64 (leNat ((bs.drop (8 * i)).take 8))
            let s := startPacket (dropRemotes s who) ctx qi p false
            { s with nextKey := s.nextKey + 2
                     launches := tput s.launches s.nextKey { x with params := params, total := total, left := total * hdrExt x 1 * hdrExt x 0 } }) s

/-! COPY, WAITEV, SIGNAL (16 R391). -/

/-- COPY_PACKET: the command enters the DMA engine of tower QI mod 8, at once or when its queue has room. -/
def execCopyPacket (ctx qi : Nat) (s : State) : Out := .next <|
  onPacket ctx qi (fun p => p.ty = 2) (fun s p =>
    let e := Engine.dma (qi % 8)
    if 256 ≤ (engineQueue s e).length then (if p.fresh then startPacket s ctx qi p true else s)
    else
      let words := (List.range 8).map fun i => BitVec.ofNat 64 (p.at_ (64 * i) 64)
      let c : Cmd := ⟨words, ctx, none, some (qi, (packetSeq s ctx qi).toNat), 2, false, qi, p.prio, p.cls, none, s.uses + 1⟩
      setEngineQueue { startPacket s ctx qi p false with uses := s.uses + 1 } e (engineQueue s e ++ [c])) s

/-- The word of a WAITEV or SIGNAL translated at its home: its physical address, or what stops it. -/
def eventWord (s : State) (ctx : Nat) (k : Access) (va size : Nat) : State × Got Nat :=
  match translate s .firmware ctx k va size with
  | (s, .error f) => (s, f.got)
  | (s, .ok x) => (s, if poisoned s ctx x.pa size then .poison x.pa else .ok x.pa)

/-- WAITEV: it completes when a read satisfies its condition. -/
def execWaitev (ctx qi : Nat) (s : State) : Out := .next <|
  onPacket ctx qi (fun p => p.ty = 3) (fun s p =>
    let va := p.at_ 0 64
    let size := if p.at_ 131 1 = 1 then 8 else 4
    let s := if p.fresh then startPacket s ctx qi p true else s
    if p.at_ 132 380 ≠ 0 || 5 < p.at_ 128 3 then endPacket s ctx qi 1 0 0 0
    else if va % size ≠ 0 then endPacket s ctx qi 2 0 va 0
    else
      match unitRead s .firmware (queueKey ctx qi) ctx va size with
      | (s, .fault f) => endPacket s ctx qi 2 0 f.va f.word
      | (s, .poison pa) => poisonStop s ctx pa 0
      | (s, .wait) => s
      | (s, .ok bs) =>
        let s := dropRemotes s (queueKey ctx qi)
        if waitCond (8 * size) (BitVec.ofNat 3 (p.at_ 128 3)) (leNat bs) (p.at_ 64 64 % 2 ^ (8 * size)) then endPacket s ctx qi 0 0 0 0 else s) s

/-- SIGNAL: AXCH.rel or AADD.rel of the word at its home, a read and a write with nothing between them (R389); one of 64 bits in region 2
is MISALIGNED, as the atomic is (06 R121). -/
def execSignal (ctx qi : Nat) (s : State) : Out := .next <|
  onPacket ctx qi (fun p => p.ty = 4) (fun s p =>
    let va := p.at_ 0 64
    let size := if p.at_ 129 1 = 1 then 8 else 4
    let v := p.at_ 64 64
    if p.at_ 130 382 ≠ 0 then endPacket s ctx qi 1 0 0 0
    else if va % size ≠ 0 then endPacket s ctx qi 2 0 va 0
    else
      match eventWord s ctx .atomic va size with
      | (s, .fault f) => endPacket s ctx qi 2 0 f.va f.word
      | (s, .poison pa) => poisonStop s ctx pa 0
      | (s, .wait) => s
      | (s, .ok pa) =>
        if region pa = 2 && size = 8 then endPacket s ctx qi 2 0 va 0
        else
          match unitRead s .firmware (queueKey ctx qi) ctx va size with
          | (s, .ok bs) =>
            let x := if p.at_ 128 1 = 0 then v else leNat bs + v
            let s := unitWrite (dropRemotes s (queueKey ctx qi)) .firmware (queueKey ctx qi) ctx va (leBytes size (x % 2 ^ (8 * size)))
            endPacket s.1 ctx qi 0 0 0 0
          | (s, .fault f) => endPacket s ctx qi 2 0 f.va f.word
          | (s, .poison pa) => poisonStop s ctx pa 0
          | (s, .wait) => s) s

/-! MAPUPD (03 R74 to R76). -/

/-- The fields of a body hold no reserved value. -/
def mapFieldsOk (p : Packet) : Bool :=
  let op := p.at_ 0 8
  let lvl := p.at_ 8 3
  let src := p.at_ 128 64
  op < 4 && p.at_ 11 21 == 0 && p.at_ 192 320 == 0 &&
  (op == 1 || (2 ≤ lvl && lvl ≤ 4 && 1 ≤ p.at_ 32 32 && p.at_ 32 32 ≤ 65536 && p.at_ 64 64 % levelSize lvl == 0 && p.at_ 121 7 == 0)) &&
  (if op < 2 then src == 0 else src % 8 == 0)

/-- The completion of a MAPUPD (16 Table 16-3): its status in DETAIL, the entry in VALUE. -/
def endMapupd (s : State) (ctx qi status i fword : Nat) : State :=
  endPacket s ctx qi (if status = 0 then 0 else if status = 1 then 1 else 5) status i fword

/-- What the walk to the entry of a VA at a level finds. -/
inductive EntryAt where
  | at_ (a : Nat)
  | none
  | poison (pa : Nat)

/-- The address of the entry of a VA at a level: none where the walk above it meets an entry that is absent, reserved or a leaf. -/
def entryFrom (s : State) (ctx va lvl : Nat) : List Nat → Nat → EntryAt
  | [], _ => .none
  | n :: rest, table =>
    let a := table + 8 * vaIndex va n
    if poisoned s ctx a 8 then .poison a
    else if n = lvl then .at_ a
    else
      let e := mreadLE s.mem a 8
      if e % 2 = 0 || entryReserved false e n || bitsAt e 1 1 = 1 then .none else entryFrom s ctx va lvl rest (entPa e)

/-- The same from a root; a VA beyond 57 bits has no entry (03 R53). -/
def entryAt (s : State) (ctx va lvl root : Nat) : EntryAt :=
  if 2 ^ 57 ≤ va then .none else entryFrom s ctx va lvl (List.range 5) root

/-- A valid leaf at a level (03 R58, R59). -/
def validLeaf (e lvl : Nat) : Bool := e % 2 = 1 && bitsAt e 1 1 = 1 && !entryReserved false e lvl

/-- The new entry i of a body's SRC. -/
def newEntry (s : State) (ctx qi : Nat) (src i : Nat) : State × Got Nat :=
  match unitRead s .firmware (queueKey ctx qi) ctx ((src + 8 * i) % 2 ^ 64) 8 with
  | (s, .ok bs) => (s, .ok (leNat bs))
  | (s, .fault f) => (s, .fault f)
  | (s, .poison pa) => (s, .poison pa)
  | (s, .wait) => (s, .wait)

/-- Every core's dirty bytes that a test selects go home. -/
def writeBackAll (s : State) (p : Line → Bool) : State := (s.cores.map (·.1)).foldl (fun s c => writeBackIf s c p) s

/-- The pending non-temporal stores of some warps done as `act` does them. -/
def eachWarp (act : State → State) (s : State) : List Nat → State
  | [] => s
  | k :: ks => eachWarp act (focus (act (focus s k)) s.w.id) ks

/-- Accesses that used a translation of a context are performed, and stores to its entries are visible to walks (03 R69, R76): the pending
non-temporal stores of its warps and every dirty byte. -/
def settleCtx (s : State) (ctx : Nat) : State :=
  writeBackAll (eachWarp (performNt · fun _ => true) s (((allWarps s).filter fun w => w.live && w.home.ctx == ctx).map (·.id))) fun _ => true

/-- Pending non-temporal bytes and dirty bytes of a page go home, from every warp and every core. -/
def settlePage (s : State) (pa size : Nat) : State :=
  writeBackAll (eachWarp (performNtRange · pa size) s ((allWarps s).map (·.id))) fun l => pa ≤ l.pa && l.pa < pa + size

/-- A peer has yet to perform a write of a context's warps or queues, or of an engine (03 R76). -/
def mapWaits (s : State) (ctx : Nat) : Bool :=
  s.remotes.any fun r => r.write.isSome &&
    ((allWarps s).any (fun w => w.id == r.who && w.home.ctx == ctx) ||
     (2 ^ 40 ≤ r.who && (r.who < 2 ^ 41 || 2 ^ 42 ≤ r.who || r.who / 256 == queueKey ctx 0 / 256)))

/-- A visibility tile that a page holds a part of: its pass and number, the tile, its bytes and which of its sectors are poisoned. -/
structure HeldTile where
  pass  : Nat
  tile  : Nat
  at_   : VTile
  bytes : List Byte
  bad   : List Nat

/-- The resident visibility tiles of a context that have a sector in a range of VAs. -/
def heldTiles (s : State) (ctx v size : Nat) : List HeldTile :=
  s.passes.flatMap fun p => if p.2.ctx != ctx then [] else
    (p.2.tiles.filter fun t => t.2.resident && rangesMeet t.2.va 768 v size).map fun t =>
      ⟨p.1, t.1, t.2, tileBytes s t.2, (List.range 24).filter fun i => s.poison.contains (t.2.sectors.getD i 0 / 32)⟩

/-- Where a tile's sector stands once the page at `v` has moved to `dst`. -/
def HeldTile.sector (x : HeldTile) (v size dst i : Nat) : Nat :=
  let a := x.at_.va + 32 * i
  if v ≤ a && a < v + size then dst + (a - v) else x.at_.sectors.getD i 0

/-- The homes of some tiles hold their own bytes again, so that the page can move. -/
def liftTiles (s : State) : List HeldTile → State
  | [] => s
  | x :: xs => liftTiles (restoreTile s x.at_) xs

/-- The tiles held at the page's new frame. -/
def dropTiles (v size dst : Nat) (s : State) : List HeldTile → State
  | [] => s
  | x :: xs =>
    let new := (List.range 24).map (x.sector v size dst)
    let bad := (List.range 24).filterMap fun i => if x.at_.bad.contains (x.at_.sectors.getD i 0 / 32) then some (new.getD i 0 / 32) else none
    let s := modTile s x.pass x.tile fun t => { t with sectors := new, bad := bad }
    dropTiles v size dst { s with
      poison := x.bad.map (fun i => new.getD i 0 / 32) ++ s.poison.filter fun q => !new.any fun pa => pa / 32 == q
      mem := (List.range 24).foldl (fun m i => mwriteN m (new.getD i 0) ((x.bytes.drop (32 * i)).take 32)) s.mem } xs

/-- The poison of a page's sectors goes with it (05 R105). -/
def movePoison (s : State) (src dst size : Nat) : State :=
  let old := s.poison.filter fun q => src ≤ 32 * q && 32 * q < src + size
  { s with poison := old.map (fun q => (dst + (32 * q - src)) / 32) ++ s.poison.filter fun q => !(dst ≤ 32 * q && 32 * q < dst + size) }

/-- A page copied to a new frame, 4 KiB at a time, `n` pieces from the i-th on; of the host or a peer it is read, and written, by
messages. -/
def copyPage (who ctx src dst : Nat) : Nat → Nat → State → State × Got Unit
  | 0, _, s => (s, .ok ())
  | n + 1, i, s =>
    let a := src + 4096 * i
    let put (s : State) (bs : List Byte) : State :=
      if 3 ≤ region dst then remoteWrite s who (dst + 4096 * i) bs else physWrite s ctx 0 (dst + 4096 * i) bs
    if 3 ≤ region src then
      match fetchRemote s who a 4096 with
      | (s, some bs) => copyPage who ctx src dst n (i + 1) (put s bs)
      | (s, none) => (s, .wait)
    else copyPage who ctx src dst n (i + 1) (put (touch s 0 a 4096 false) (physRead s ctx a 4096))

/-- A page moved (03 R75, step 5), with the visibility tiles that it holds. -/
def movePage (s : State) (who ctx v src dst size : Nat) : State × Got Unit :=
  let held := if region dst < 2 then heldTiles s ctx v size else []
  match copyPage who ctx src dst (size / 4096) 0 (liftTiles s held) with
  | (s, .ok ()) => (dropTiles v size dst (if region src < 3 then movePoison s src dst size else s) held, .ok ())
  | r => r

/-- What the entries of a WRITE or MIGRATE come to. -/
inductive Mapped where
  | ok (s : State)
  | stop (s : State) (status i fword : Nat)
  | poison (s : State) (pa : Nat)
  | wait (s : State)

/-- An entry stored at its home. -/
def putEntry (s : State) (a e : Nat) : State := touch { s with mem := mwriteLE s.mem a 8 e } 0 a 8 true

/-- Entries of a WRITE or a MIGRATE in ascending order. -/
def mapEntries (ctx qi root : Nat) (migrate : Bool) (lvl va src : Nat) : Nat → Nat → State → Mapped
  | 0, _, s => .ok s
  | n + 1, i, s =>
    let size := levelSize lvl
    let v := va + i * size
    match entryAt s ctx v lvl root with
    | .none => .stop s 2 i 0
    | .poison pa => .poison s pa
    | .at_ a =>
      let s := touch s 0 a 8 false
      if migrate && !validLeaf (mreadLE s.mem a 8) lvl then .stop s 2 i 0
      else
        match newEntry s ctx qi src i with
        | (s, .fault f) => .stop s 3 i f.word
        | (s, .poison pa) => .poison s pa
        | (s, .wait) => .wait s
        | (s, .ok e) =>
          if migrate && !validLeaf e lvl then .stop s 4 i 0
          else if !migrate then mapEntries ctx qi root migrate lvl va src n (i + 1) (dropTranslations (putEntry s a e) ctx v size)
          else
            let old := mreadLE s.mem a 8
            match movePage (settlePage (dropTranslations s ctx v size) (entPa old) size) (queueKey ctx qi) ctx v (entPa old) (entPa e) size with
            | (s, .ok ()) => mapEntries ctx qi root migrate lvl va src n (i + 1) (putEntry s a (e ||| (old / 64 % 4 * 64)))
            | (s, _) => .wait s

/-- A MAPUPD with one of the operations that store entries: nothing of it is done until every remote byte that it reads has come. -/
def mapStore (ctx qi : Nat) (migrate : Bool) (s : State) (p : Packet) : State :=
  let root := ((getCtx s ctx).map (·.root)).getD 0
  match mapEntries ctx qi root migrate (p.at_ 8 3) (p.at_ 64 64) (p.at_ 128 64) (p.at_ 32 32) 0 s with
  | .ok s => endMapupd (dropRemotes s (queueKey ctx qi)) ctx qi 0 0 0
  | .stop s st i f => endMapupd (dropRemotes s (queueKey ctx qi)) ctx qi st i f
  | .poison s pa => poisonStop s ctx pa 0
  | .wait t => keepAsked s t (queueKey ctx qi)

/-- A MAPUPD of an operation (03 R74, R76): its fields checked, then its own effect once what used the old translations is performed. -/
def onMapupd (ctx qi : Nat) (mine : Nat → Bool) (act : State → Packet → State) (s : State) : State :=
  onPacket ctx qi (fun p => p.ty = 5 && mine (p.at_ 0 8)) (fun s p =>
    if !mapFieldsOk p then endMapupd s ctx qi 1 0 0
    else
      let s := if p.fresh then startPacket s ctx qi p true else s
      if mapWaits s ctx then s else act (settleCtx s ctx) p) s

/-- MAPUPD INVAL; an operation that the manual reserves completes here with status 1. -/
def execMapupdInval (ctx qi : Nat) (s : State) : Out := .next <|
  onMapupd ctx qi (fun op => !(op = 1 || op = 2 || op = 3))
    (fun s p => endMapupd (dropTranslations s ctx (p.at_ 64 64) (p.at_ 32 32 * levelSize (p.at_ 8 3))) ctx qi 0 0 0) s

/-- MAPUPD INVALALL. -/
def execMapupdInvalall (ctx qi : Nat) (s : State) : Out := .next <|
  onMapupd ctx qi (· = 1) (fun s _ => endMapupd (dropTranslations s ctx 0 (2 ^ 64)) ctx qi 0 0 0) s

/-- MAPUPD WRITE. -/
def execMapupdWrite (ctx qi : Nat) (s : State) : Out := .next <| onMapupd ctx qi (· = 2) (mapStore ctx qi false) s

/-- MAPUPD MIGRATE: no access is in progress between steps, so none has to be stalled (03 R75). -/
def execMapupdMigrate (ctx qi : Nat) (s : State) : Out := .next <| onMapupd ctx qi (· = 3) (mapStore ctx qi true) s

/-! CONFIG (16 R394, R395). -/

def Packet.item (p : Packet) : Nat := p.at_ 0 16
def Packet.expert (p : Packet) : Bool := p.at_ 16 1 == 1
def Packet.profile (p : Packet) : Nat := p.at_ 24 8
def Packet.index (p : Packet) : Nat := p.at_ 32 32
/-- A field of VALUE. -/
def Packet.value (p : Packet) (lo n : Nat) : Nat := bitsAt (leNat (p.bytes.take 64)) (64 + lo) n

/-- A CONFIG item refused, with nothing changed. -/
def refuse (s : State) (ctx qi : Nat) : State := endPacket s ctx qi 1 1 0 0

/-- A CONFIG item: its common fields and its scope checked, `bits` of VALUE used; then its own effect, none where it refuses. -/
def onItem (ctx qi item : Nat) (device : Bool) (bits : Nat) (act : State → Packet → Option State) (s : State) : State :=
  onPacket ctx qi (fun p => p.ty = 6 && p.item = item) (fun s p =>
    if !p.fresh then s
    else if p.at_ 17 7 ≠ 0 || (device && !(ctx = 0 && qi = 0)) || p.value bits (448 - bits) ≠ 0 then refuse s ctx qi
    else (act s p).getD (refuse s ctx qi)) s

/-- Done, with a value. -/
def okItem (s : State) (ctx qi value : Nat) : Option State := some (endPacket s ctx qi 0 0 value 0)

/-- A context as CTXNEW makes it (03 R55, 14 R358, Tables 14-5, 15-1). -/
def freshCtx (root clock : Nat) : Ctx :=
  { root := root, ltbase := 0, ltcount := 0, ntbase := 0, ntcount := 0, areas := none, trap := ⟨0, 10, false, false, false⟩
    sched := ⟨8, 28, false, false⟩, dogOld := none, leaseLost := 0, running := .running, report := [], pulse := clock, idleAt := some clock
    queues := [], nodeLaunches := [] }

/-- CTXNEW: the lowest free number, returned in VALUE. -/
def execCtxnew (ctx qi : Nat) (s : State) : Out := .next <|
  onItem ctx qi 1 true 64 (fun s p =>
    let root := p.value 0 64
    match (List.range 4094).find? fun i => (tget s.ctxs (i + 1)).isNone with
    | none => none
    | some i =>
      if root % 4096 ≠ 0 || 2 ≤ root / 2 ^ 48 || !populated root 4096 then none
      else okItem { s with ctxs := tput s.ctxs (i + 1) (freshCtx root s.clock) } ctx qi (i + 1)) s

/-- A context's number freed, with everything cached under it. -/
def dropCtx (s : State) (c : Nat) : State :=
  let s := dropTranslations s c 0 (2 ^ 64)
  { s with
    ctxs := tdel s.ctxs c
    cores := s.cores.map fun p => (p.1, { p.2 with records := p.2.records.filter fun r => r.1 != c })
    clusters := s.clusters.map fun p => (p.1, { p.2 with icache := p.2.icache.filter fun l => l.1 != c }) }

/-- CTXEND. -/
def execCtxend (ctx qi : Nat) (s : State) : Out := .next <|
  onItem ctx qi 2 true 0 (fun s p =>
    if p.index = 0 || (getCtx s p.index).isNone then none else okItem (dropCtx (killCtx s p.index) p.index) ctx qi 0) s

def isPow2 (n : Nat) : Bool := n != 0 && 2 ^ n.log2 == n

/-- A queue as a QUEUE item creates it. -/
def freshQueue (ring n slot cring clock : Nat) : Queue :=
  { ring := BitVec.ofNat 64 ring, n := n, slot := slot, cring := BitVec.ofNat 64 cring, expect := 0, kicked := none, last := none, prio := 0
    parked := false, rereads := 0, rereadAt := 0, started := none, body := [], removing := false, resident := false, since := clock, turn := 0 }

/-- A queue is discarded. -/
def dropQueue (s : State) (ctx qi : Nat) : State := modCtx s ctx fun c => settleIdle s { c with queues := tdel c.queues qi }

/-- Packets announced and not started complete with STATUS 6 (16 R395). -/
def failUnstarted (s : State) (ctx qi : Nat) (q : Queue) : State :=
  let skip := if q.started.isSome || q.parked then 1 else 0
  (List.range (q.announced - skip)).foldl (fun s i => reportPacket s ctx qi (q.expect + BitVec.ofNat 32 (skip + i)) 6 0 0 0) s

/-- The context and the queue that a QUEUE item names: a queue of its own context, and on the device queue one of the context in the bits of
INDEX above the queue's (log 103). -/
def Packet.queueNamed (p : Packet) (ctx qi : Nat) : Nat × Nat := if ctx = 0 && qi = 0 then (p.index / 256, p.index % 256) else (ctx, p.index)

/-- QUEUE: removal completes after the last packet that the queue has started; a packet that removes its own queue is that one. -/
def execQueue (ctx qi : Nat) (s : State) : Out := .next <|
  onPacket ctx qi (fun p => p.ty = 6 && p.item = 3) (fun s p =>
    let (x, y) := p.queueNamed ctx qi
    let ring := p.value 0 64
    let n := p.value 64 32
    let slot := p.value 96 32
    let cring := p.value 128 64
    if p.at_ 17 7 ≠ 0 || p.value 192 256 ≠ 0 || 254 < y || (getCtx s x).isNone then refuse s ctx qi
    else if n = 0 then
      match getQueue s x y with
      | none => endPacket s ctx qi 0 0 0 0
      | some q =>
        let s := if p.fresh then startPacket s ctx qi p true else s
        let s := if q.removing then s else
          let q := (getQueue s x y).getD q
          modQueue (failUnstarted s x y q) x y fun q => { q with removing := true, kicked := if q.started.isSome then some q.expect else none }
        let busy := !(x == ctx && y == qi) && ((getQueue s x y).map (·.started.isSome)).getD false
        if busy then s else dropQueue (endPacket s ctx qi 0 0 0 0) x y
    else if !(isPow2 n && 2 ≤ n && n ≤ 65536 && isPow2 slot && 128 ≤ slot && slot ≤ 4096) then refuse s ctx qi
    else
      match getQueue s x y with
      | none =>
        endPacket (modCtx s x fun c => settleIdle s { c with queues := tput c.queues y (freshQueue ring n slot cring s.clock) }) ctx qi 0 0 0 0
      | some q =>
        if q.announced ≠ 0 || q.started.isSome then refuse s ctx qi
        else endPacket (modQueue s x y fun q => { q with ring := BitVec.ofNat 64 ring, n := n, slot := slot, cring := BitVec.ofNat 64 cring }) ctx qi 0 0 0 0) s

/-- L2PART (05 R107, Table 05-1): a profile, with which VTWAYS goes back to 2 (log 104), or at expert level eight class entries and the
control word. -/
def execL2part (ctx qi : Nat) (s : State) : Out := .next <|
  onItem ctx qi 4 true 288 (fun s p =>
    if 8 ≤ p.index then none
    else
      let t := getTower s p.index
      if !p.expert then
        if 2 < p.profile then none
        else
          let favoured := (List.range 8).map fun c => (c, (⟨if p.profile ≠ 0 && c = p.profile then 6 else 0, 16⟩ : Ways))
          okItem (setTower s p.index { t with ways := favoured, vtways := 2, custom := false }) ctx qi 0
      else
        let ws := (List.range 8).map fun c => (c, (⟨p.value (32 * c) 4, p.value (32 * c + 4) 5⟩ : Ways))
        let vt := p.value 256 3
        let bad := ws.any (fun w => w.2.maxw < w.2.minw || w.2.maxw = 0 || 16 < w.2.maxw || p.value (32 * w.1 + 9) 23 ≠ 0) || 4 < vt || p.value 259 29 ≠ 0 ||
          16 - vt < ws.foldl (fun n w => n + w.2.minw) 0
        if bad then none else okItem (setTower s p.index { t with ways := ws, vtways := vt, custom := true }) ctx qi 0) s

/-- LTAB (06 R139); the records cached from the old table are dropped. -/
def execLtab (ctx qi : Nat) (s : State) : Out := .next <|
  onItem ctx qi 5 false 96 (fun s p =>
    if p.value 0 12 ≠ 0 || 2 ^ 20 < p.value 64 32 then none
    else
      let s := modCtx s ctx fun c => { c with ltbase := BitVec.ofNat 64 (p.value 0 64), ltcount := p.value 64 32 }
      okItem { s with cores := s.cores.map fun c => (c.1, { c.2 with records := c.2.records.filter fun r => r.1 != ctx }) } ctx qi 0) s

/-- NTAB (12 R294): every cached entry of the context is dropped in every cluster. -/
def execNtab (ctx qi : Nat) (s : State) : Out := .next <|
  onItem ctx qi 6 false 96 (fun s p =>
    if p.value 0 6 ≠ 0 then none
    else
      let s := modCtx s ctx fun c => { c with ntbase := BitVec.ofNat 64 (p.value 0 64), ntcount := p.value 64 32 }
      okItem { s with clusters := s.clusters.map fun k => (k.1, { k.2 with nodes := k.2.nodes.filter fun n => n.1 != ctx }) } ctx qi 0) s

/-- AREAS (12 R300): bin area, frame area, stack pool, save pool. -/
def execAreas (ctx qi : Nat) (s : State) : Out := .next <|
  onItem ctx qi 7 false 384 (fun s p =>
    let area (i : Nat) (old : Option Area) : Area :=
      let va := BitVec.ofNat 64 (p.value (96 * i) 64)
      let size := p.value (96 * i + 64) 32
      ⟨va, size, match old with
        | some a => if a.va = va then a.used else []
        | none => []⟩
    let old := ctxAreas s ctx
    okItem (modCtx s ctx fun c => { c with
      areas := some (area 0 (old.map (·.1)), area 1 (old.map (·.2.1)), area 2 (old.map (·.2.2.1)), area 3 (old.map (·.2.2.2))) }) ctx qi 0) s

/-- TRAPCTL (15 R362, Table 15-1): the basic level takes HANDLER and DEADLINE only. -/
def execTrapctl (ctx qi : Nat) (s : State) : Out := .next <|
  onItem ctx qi 8 false 128 (fun s p =>
    let high := if p.expert then p.value 74 54 else p.value 72 56
    if p.value 0 2 ≠ 0 || p.value 64 8 = 0 || high ≠ 0 then none
    else
      let kill := p.expert && p.value 72 1 = 1
      let reload := p.expert && p.value 73 1 = 1
      okItem (modCtx s ctx fun c => { c with trap := ⟨BitVec.ofNat 64 (p.value 0 64), p.value 64 8, kill, reload, p.expert && (kill || reload)⟩ }) ctx qi 0) s

/-- The power profiles (14 Table 14-6). -/
def powerProfile (n : Nat) : Option Power :=
  match n with
  | 0 => some Power.reset
  | 1 => some { Power.reset with soft := 0x1000, hard := 0x1C00, istep := 128, ntwin := 8, leasemax := 0 }
  | 2 => some { Power.reset with soft := 0x2400, hard := 0x3400, istep := 512, ntwin := 128, leasemax := 2 }
  | _ => none

/-- An expert power word (14 Table 14-4, R361). -/
def powerWord (x : Nat) : Option Power :=
  let p : Power := ⟨bitsAt x 0 16, bitsAt x 16 16, bitsAt x 32 12, bitsAt x 44 8, bitsAt x 52 2, bitsAt x 54 8, true⟩
  if p.hard < p.soft || p.istep = 0 || 2048 < p.istep || p.leasemax = 3 || p.refill = 0 || bitsAt x 62 2 ≠ 0 then none else some p

/-- POWER: in force from the next window of the cluster (14 R361). -/
def execPower (ctx qi : Nat) (s : State) : Out := .next <|
  onItem ctx qi 9 true 64 (fun s p =>
    if 160 ≤ p.index then none
    else
      match if p.expert then powerWord (p.value 0 64) else powerProfile p.profile with
      | none => none
      | some x => okItem (modCluster s p.index fun k => { k with pending := some x }) ctx qi 0) s

/-- WEIGHTS: VALUE holds the weights of majors 0 to 55, and the others stay (14 R360, R361). -/
def execWeights (ctx qi : Nat) (s : State) : Out := .next <|
  onItem ctx qi 10 true 448 (fun s p =>
    if 160 ≤ p.index then none
    else
      okItem (modCluster s p.index fun k => { k with
        pendingW := some ((List.range 56).foldl (fun (t : Tab (BitVec 8)) c => tput t c (BitVec.ofNat 8 (p.value (8 * c) 8))) k.weights) }) ctx qi 0) s

/-- SCHED (14 Table 14-5, Table 14-6); the watchdog's fields are in force from the next window of 64 cycles (R361). -/
def execSched (ctx qi : Nat) (s : State) : Out := .next <|
  onItem ctx qi 11 false 32 (fun s p =>
    let set (x : Sched) : Option State := okItem (modCtx s ctx fun c => { c with sched := x, dogOld := some ((s.clock / 40 + 1) * 40, c.dog s.clock) }) ctx qi 0
    if !p.expert then
      match p.profile with
      | 0 => set ⟨2, 28, false, false⟩
      | 1 => set ⟨8, 28, false, false⟩
      | 2 => set ⟨32, 28, false, false⟩
      | _ => none
    else if p.value 0 8 = 0 || p.value 8 6 < 20 || 34 < p.value 8 6 || p.value 15 17 ≠ 0 then none
    else set ⟨p.value 0 8, p.value 8 6, p.value 14 1 = 1, true⟩) s

/-- QUOTE (16 R399): the nonce, then the measurements and the signature. -/
def execQuote (ctx qi : Nat) (s : State) : Out := .next <|
  onItem ctx qi 12 false 128 (fun s p =>
    let src := p.value 0 64
    let dst := p.value 64 64
    if src % 64 ≠ 0 || dst % 64 ≠ 0 then none
    else
      match unitRead s .firmware (queueKey ctx qi) ctx src 64 with
      | (s, .fault f) => some (endPacket s ctx qi 2 0 f.va f.word)
      | (s, .poison pa) => some (poisonStop s ctx pa 0)
      | (s, .wait) => some s
      | (s, .ok nonce) =>
        let bytes := nonce ++ (List.range 1024).map fun i => Config.quoteByte nonce s.clock (64 + i)
        match unitWrite (dropRemotes s (queueKey ctx qi)) .firmware (queueKey ctx qi) ctx dst bytes with
        | (s, .fault f) => some (endPacket s ctx qi 2 0 f.va f.word)
        | (s, .poison pa) => some (poisonStop s ctx pa 0)
        | (s, _) => okItem s ctx qi 0) s

/-- PEER (16 R394, R396): MAC, IP, exported window. A peer set again has to join again. -/
def execPeer (ctx qi : Nat) (s : State) : Out := .next <|
  onItem ctx qi 13 true 320 (fun s p =>
    if 4096 ≤ p.index || p.value 48 16 ≠ 0 then none
    else
      okItem { s with peers := tput s.peers p.index ⟨BitVec.ofNat 48 (p.value 0 48), BitVec.ofNat 128 (p.value 64 128),
        BitVec.ofNat 64 (p.value 192 64), BitVec.ofNat 64 (p.value 256 64), false⟩ } ctx qi 0) s

/-- CTXSTAT (14 R358): the status record written. -/
def execCtxstat (ctx qi : Nat) (s : State) : Out := .next <|
  onItem ctx qi 14 false 64 (fun s p =>
    let va := p.value 0 64
    if va % 64 ≠ 0 then none
    else
      let lost := ((getCtx s ctx).map (·.leaseLost.toNat)).getD 0
      match unitWrite s .firmware (queueKey ctx qi) ctx va (leBytes 64 lost) with
      | (s, .fault f) => some (endPacket s ctx qi 2 0 f.va f.word)
      | (s, .poison pa) => some (poisonStop s ctx pa 0)
      | (s, _) => okItem s ctx qi 0) s

/-! What no packet of a known kind is (16 R392). -/

/-- One microsecond of fabric cycles. -/
def us1 : Nat := 2000

/-- PACKET_REREAD: a slot that does not match is read again every microsecond, up to 64 times, and then is stale; a slot whose read
faults, a reserved header and a CONFIG item that the manual does not list complete the packet. -/
def execPacketReread (ctx qi : Nat) (s : State) : Out := .next <|
  match packetHead s ctx qi, getQueue s ctx qi with
  | (s, .mismatch), some q =>
    if q.rereads ≠ 0 && s.clock < q.rereadAt then s
    else if 64 ≤ q.rereads then parkPacket s ctx qi q.expect 3 0 0
    else modQueue s ctx qi fun q => { q with rereads := q.rereads + 1, rereadAt := s.clock + us1 }
  | (s, .fault f va), some q => parkPacket s ctx qi q.expect 2 va f.word
  | (s, .poison pa), some _ => poisonStop s ctx pa 0
  | (s, .refused), some _ => endPacket s ctx qi 1 0 0 0
  | (s, .ready p), some _ =>
    if p.ty = 6 && (p.item = 0 || 14 < p.item) then refuse s ctx qi else s
  | (s, _), _ => s

/-! The choice of the resident set (14 R343). -/

/-- A frame whose thread counts in a slot of another that some lanes wait for. -/
def childOf (f : Nat) (m : Mask) (c : Nat × Frame) : Bool :=
  c.2.parent.any fun p => p.2.1 == f && (128 ≤ p.2.2 || hasLane m p.2.2)

/-- The wake condition of a warp can still be met, if those warps and frames of a list can go on. -/
def wakeHope (s : State) (can : List Nat) (w : Warp) : Bool :=
  let others (p : Warp → Bool) : Bool := (allWarps s).any fun x => x.live && x.id != w.id && x.groupId == w.groupId && p x && can.contains x.id
  match w.wake with
  | .await m => s.frames.all fun c => !childOf w.frame m c || can.contains c.1
  | .barrier slot _ _ => !barArrived s w slot || others fun _ => true
  | .channel c => match (w.groupId.bind (getGroup s)).bind fun g => tget g.chans c with
    | some ch => !ch.slots.isEmpty || ch.gone || others fun x => x.role.toNat == ch.role
    | none => true
  | .claim n _ limit => limit.isSome || (claimDue s w n).isSome || others fun x => x.home.group == w.home.group
  | .mwait b => batchDone s w b || !(getCluster s w.cluster).ops.isEmpty || !(tgetD (getCluster s w.cluster).queues 8 []).isEmpty ||
      (allWarps s).any fun x => x.live && x.home.ctx == w.home.ctx && (x.isSeq || can.contains x.id)
  | _ => true

/-- A frame's threads can complete, if those warps and frames of a list can go on. -/
def frameHope (s : State) (can : List Nat) (f : Nat × Frame) : Bool :=
  match (allWarps s).find? fun w => w.live && w.groupId.isSome && w.frame == f.1 with
  | some w => can.contains w.id
  | none => s.frames.all fun c => !childOf f.1 (~~~ 0) c || can.contains c.1

/-- The warps and frames that can go on, found in so many rounds from those that are known. -/
def hopeful (s : State) : Nat → List Nat → List Nat
  | 0, can => can
  | n + 1, can => hopeful s n
      ((((allWarps s).filter fun w => w.live && w.groupId.isSome && wakeHope s can w).map (·.id)) ++ (s.frames.filter (frameHope s can)).map (·.1))

/-- A queue has a packet to start (14 R343). -/
def hasPacket (s : State) (ctx qi : Nat) : Bool :=
  match (packetHead s ctx qi).2 with
  | .idle => false
  | .ready p => p.fresh
  | _ => true

/-- A queue that waits (14 R343): it has no packet to start and no warp that is ready or whose wake can still be met; work that it has yet to
place, and that fits, is as good as a warp (log 51). -/
def queueWaits (s : State) (ctx qi : Nat) : Bool :=
  !hasPacket s ctx qi && !(s.launches.any fun l => l.2.ctx == ctx && l.2.qi == qi && unplaced s l && fitsNow s l) &&
  !((match getCtx s ctx with
      | some c => c.running == .running
      | none => false) &&
    (let can := hopeful s ((allWarps s).length + s.frames.length + 1) []
     (allWarps s).any fun w => w.live && w.groupId.isSome && w.home.ctx == ctx && w.home.qi == qi && can.contains w.id))

/-- QUANTUM_END: at the end of a quantum, or when a resident queue waits while another is not resident. -/
def execQuantumEnd (s : State) : Out := .next <|
  let qs := allQueues s
  if s.quantumAt ≤ s.clock then { chooseResident s with quantumAt := s.clock + quantumLength s }
  else if (qs.any fun q => !q.2.2.resident) && qs.any (fun q => q.2.2.resident && queueWaits s q.1 q.2.1) then chooseResident s
  else s

end Sys2Proof.Machine
end

