-- ==== Sys2Proof/Machine/Host.lean ====
section
/-! DEFINITION. Messages from the host, the management block, the firmware complexes, peers and reset (16 R387 to R400). -/
namespace Sys2Proof.Machine

/-! Receiving (16 R387, R388). -/

/-- The fields of a message hold no reserved value (16 Table 16-1). -/
def msgFieldsOk (m : Msg) : Bool :=
  m.zero == 0 && m.ty.toNat < 6 && m.len.toNat == m.payload.length && m.payload.length ≤ 8192 &&
  (m.ty != 0 || m.seq == 0) &&
  (if m.ty == 2 && !m.resp then 1 ≤ m.arg.toNat && m.arg.toNat ≤ 8192 else m.ty == 3 || m.arg == 0)

/-- Every message up to a SEQ has been accepted by the host. -/
def acknowledge (s : State) (n : W32) : State :=
  { s with link := { s.link with unacked := s.link.unacked.filter fun x => 2 ^ 31 ≤ (n - x.msg.seq).toNat } }

/-- A message received (16 R387): one that is damaged, or of another type than this event's, does nothing; one in sequence is accepted
and performed; an older one is acknowledged again; a newer one is dropped. Before a session, and while a SYNC of the device's own has no
answer, nothing but SYNC is accepted. -/
def receive (ty : Nat) (m : Msg) (act : State → State) (s : State) : State :=
  if m.ty.toNat ≠ ty || !msgFieldsOk m || m.crc.toNat ≠ msgCrc m || !s.link.open_ || s.link.lost || s.link.asked || s.mgmt.state == .booting then s
  else if m.seq = s.link.expect then
    let s := acknowledge s m.ackn
    act { s with link := { s.link with expect := s.link.expect + 1, ackDue := some (s.link.ackDue.getD (s.clock + us10)) } }
  else if (s.link.expect - m.seq).toNat < 2 ^ 31 then sendAck s
  else s

/-- ACK (16 R387): it has no SEQ. -/
def execAck (m : Msg) (s : State) : Out := .next <|
  if m.ty ≠ 0 || !msgFieldsOk m || m.crc.toNat ≠ msgCrc m || !s.link.open_ || s.link.lost then s else acknowledge s m.ackn

/-! The management block (16 Table 16-7). -/

/-- The 32 bytes of a host window. -/
def windowBytes (w : Window) : List Byte := leBytes 8 w.base.toNat ++ leBytes 8 w.size.toNat ++ leBytes 16 (w.ctx + 4096 * w.writable.toNat)

def windowFrom (x : Nat) : Window := ⟨BitVec.ofNat 64 x, BitVec.ofNat 64 (x / 2 ^ 64), bitsAt x 128 12, bitsAt x 140 1 == 1⟩

def getWindow (s : State) (i : Nat) : Window := tgetD s.mgmt.windows i ⟨0, 0, 0, false⟩

/-- A byte of the management block; the temperatures and the power are measured, and free values (log 5). -/
def mgmtByte (s : State) (o : Nat) : Byte :=
  let st : Nat := match s.mgmt.state with
    | .booting => 0
    | .ready => 1
    | .updating => 2
  if o < 0x210 then Config.identityByte o
  else if o < 0x218 then (leBytes 8 (st + 256 * s.mgmt.active)).getD (o - 0x210) 0
  else if o < 0x220 then (leBytes 8 s.mgmt.imageVA.toNat).getD (o - 0x218) 0
  else if o < 0x260 then Config.measured s.free o
  else if 0x400 ≤ o && o < 0xC00 then (windowBytes (getWindow s ((o - 0x400) / 32))).getD ((o - 0x400) % 32) 0
  else 0

/-- A byte written to the management block: only the window table and the image VA take it (16 R400). -/
def mgmtPut (s : State) (o : Nat) (x : Byte) : State :=
  if 0x218 ≤ o && o < 0x220 then
    { s with mgmt := { s.mgmt with imageVA := BitVec.ofNat 64 (leNat (listSet (leBytes 8 s.mgmt.imageVA.toNat) (o - 0x218) x)) } }
  else if 0x400 ≤ o && o < 0xC00 then
    let i := (o - 0x400) / 32
    let w := windowFrom (leNat (listSet (windowBytes (getWindow s i)) ((o - 0x400) % 32) x))
    { s with mgmt := { s.mgmt with windows := tput s.mgmt.windows i w } }
  else s

/-- The image VA has been written: the standby complex boots the image, or event 9 names it and the reason (16 R397). -/
def bootStandby (s : State) : State :=
  let v := Config.imageVerdict s.free % 3
  let s := { s with free := s.free + 1 }
  if v = 0 then { s with mgmt := { s.mgmt with standby := some s.mgmt.imageVA, state := .updating } }
  else sendEvent s 0 9 [s.mgmt.imageVA.toNat, v]

/-- A WRITE to the management block. -/
def mgmtWrite (s : State) (at_ : Nat) (bs : List Byte) : State :=
  let s := bs.zipIdx.foldl (fun s p => mgmtPut s (at_ + p.2) p.1) s
  if rangesMeet at_ bs.length 0x218 8 then bootStandby s else s

/-- A WRITE to the window table, and one to the image VA. -/
def toWindows (m : Msg) : Bool := m.ctx == 0xFFF && rangesMeet m.addr.toNat m.payload.length 0x400 0x800
def toImage (m : Msg) : Bool := m.ctx == 0xFFF && rangesMeet m.addr.toNat m.payload.length 0x218 8

/-- A host WRITE (16 R388): stored through the context's translation, or in the management block; a fault is event 8. -/
def hostWrite (m : Msg) (s : State) : State :=
  if m.resp then s
  else if m.ctx = 0xFFF then mgmtWrite s m.addr.toNat m.payload
  else if (getCtx s m.ctx.toNat).isNone then sendEvent s m.ctx.toNat 8 [m.addr.toNat, 0]
  else
    -- no byte of a WRITE that faults is stored
    match unitWrite s .firmware (2 ^ 42) m.ctx.toNat m.addr.toNat m.payload with
    | (_, .fault f) => sendEvent s m.ctx.toNat 8 [f.va, f.word]
    | (_, .poison pa) => poisonStop s m.ctx.toNat pa 0
    | (s, _) => s

/-- WRITE. -/
def execWrite (m : Msg) (s : State) : Out := .next <| receive 1 m (hostWrite m) s

/-- HOST_WINDOW_WRITE (16 R389): a WRITE to the window table. -/
def execHostWindowWrite (m : Msg) (s : State) : Out := .next <| if toWindows m then receive 1 m (hostWrite m) s else s

/-- STANDBY_IMAGE_BOOT (16 R397): a WRITE of the image VA. -/
def execStandbyImageBoot (m : Msg) (s : State) : Out := .next <| if toImage m then receive 1 m (hostWrite m) s else s

/-! READ and its answers (16 R388, R389). -/

/-- The bytes of a region-3 read that the host answers, given to the oldest request of that address and size. -/
def answerRead (m : Msg) : List Remote → List Remote
  | [] => []
  | r :: rs =>
    if r.seq.isSome && r.data.isNone && r.pa % 2 ^ 48 == m.addr.toNat && r.size == m.payload.length then { r with data := some m.payload } :: rs
    else r :: answerRead m rs

/-- The RESP READ that answers a READ. -/
def replyRead (s : State) (m : Msg) (bs : List Byte) : State := sendMsg s (mkMsg 2 true m.ctx.toNat m.qi.toNat m.addr 0 bs)

/-- The key under which a READ of the host waits for remote bytes. -/
def readKey (m : Msg) : Nat := 2 ^ 42 + 1 + m.seq.toNat

/-- A READ through a context's translation (16 R388): the bytes, or no byte and event 8; it stays while bytes that it names lie with the host
or a peer. -/
def serveRead (m : Msg) (s : State) : State :=
  match unitRead s .firmware (readKey m) m.ctx.toNat m.addr.toNat m.arg.toNat with
  | (s, .ok bs) => replyRead (dropRemotes s (readKey m)) m bs
  | (s, .fault f) => sendEvent (replyRead s m []) m.ctx.toNat 8 [f.va, f.word]
  | (s, .poison pa) => replyRead (poisonStop s m.ctx.toNat pa 0) m []
  | (s, .wait) => { s with link := { s.link with reads := s.link.reads ++ [m] } }

/-- The READs that wait tried again, in the order in which they came. -/
def serveReads : List Msg → State → State
  | [], s => s
  | m :: ms, s => serveReads ms (serveRead m s)

/-- Remote bytes have come: the READs of the host that wait for some are tried again. -/
def retryReads (s : State) : State := serveReads s.link.reads { s with link := { s.link with reads := [] } }

/-- A RESP READ from the host. -/
def hostAnswer (m : Msg) (s : State) : State := retryReads { s with remotes := answerRead m s.remotes }

/-- A host READ (16 R388); of a context that does not exist, as one that faults. -/
def hostRead (m : Msg) (s : State) : State :=
  if m.resp then hostAnswer m s
  else if m.ctx = 0xFFF then replyRead { s with free := s.free + 1 } m ((List.range m.arg.toNat).map fun i => mgmtByte s (m.addr.toNat + i))
  else if (getCtx s m.ctx.toNat).isNone then sendEvent (replyRead s m []) m.ctx.toNat 8 [m.addr.toNat, 0]
  else serveRead m s

/-- READ. -/
def execRead (m : Msg) (s : State) : Out := .next <| receive 2 m (hostRead m) s

/-- HOST_READ_RESPONSE (16 R389): the host answers a device READ. -/
def execHostReadResponse (m : Msg) (s : State) : Out := .next <| if m.resp then receive 2 m (hostAnswer m) s else s

/-! KICK, COMPLETE, SYNC, and the timers. -/

/-- KICK (16 R388, R392): packets up to ARG are announced, and a parked queue starts again. -/
def execKick (m : Msg) (s : State) : Out := .next <|
  receive 3 m (fun s =>
    if m.resp then s
    else
      modQueue s m.ctx.toNat m.qi.toNat fun q =>
        if q.removing then q
        else
          let newer : Bool := match q.kicked with
            | some k => decide ((m.arg - k).toNat < 2 ^ 31)
            | none => decide ((m.arg - q.expect).toNat < 2 ^ 31)
          { q with kicked := if newer then some m.arg else q.kicked, parked := false }) s

/-- COMPLETE (16 R388): accepted, with no effect. -/
def execComplete (m : Msg) (s : State) : Out := .next <| receive 4 m (fun s => s) s

/-- The payload of a RESP SYNC: the queues of a context, none while the device boots (16 R388, R400). -/
def syncPayload (s : State) (ctx : Nat) (next expect : W32) : List Byte :=
  let qs := if s.mgmt.state == .booting then [] else ((getCtx s ctx).map (·.queues)).getD []
  let word (x : Option W32) : List Byte := leBytes 4 ((x.map (·.toNat)).getD 0xFFFFFFFF)
  leBytes 4 next.toNat ++ leBytes 4 expect.toNat ++ leBytes 4 qs.length ++
    qs.flatMap fun q => leBytes 4 q.1 ++ word (if q.2.kicked.isSome then q.2.kicked else q.2.last) ++ word q.2.last

/-- Reads of region 3 that no answer has reached are asked for again in the new numbering. -/
def askAgain : List Remote → State → State
  | [], s => s
  | r :: rs, s =>
    if r.seq.isSome && r.data.isNone then
      let seq := s.link.next
      let s := sendMsg s (mkMsg 2 false 0 0 (BitVec.ofNat 64 (r.pa % 2 ^ 48)) r.size [])
      askAgain rs { s with remotes := s.remotes ++ [{ r with seq := some seq }] }
    else askAgain rs { s with remotes := s.remotes ++ [r] }

/-- Numbering starts again: what was in flight is dropped, reads of region 3 are asked for anew, and the host repeats its own (16 R388). -/
def renumber (s : State) : State :=
  let mine (r : Remote) : Bool := s.link.reads.any fun m => readKey m == r.who
  askAgain (s.remotes.filter (!mine ·)) { s with remotes := [], link := { s.link with reads := [] } }

/-- A SYNC of the device: its SEQ is its own choice, and numbering goes on from it. It opens a session where it answers one; a lost link
sends it and stays lost until it is answered. -/
def sendSync (s : State) (resp : Bool) (ctx : Nat) (payload : W32 → List Byte) : State :=
  let lost := s.link.lost && !resp
  let (n, s) := freeChoice s (2 ^ 32)
  let seq := BitVec.ofNat 32 n
  let m := mkMsg 5 resp ctx 0 0 0 (payload (seq + 1))
  let s := sendMsg { s with link := { s.link with next := seq, unacked := [], lost := false, open_ := true, asked := !resp } } m
  { s with link := { s.link with lost := lost } }

/-- SYNC (16 R388): numbering starts again from both sides' own SEQs; the answer lists the queues of a context. While the device boots
it answers and opens no session. A RESP SYNC counts only as the answer to a SYNC of the device's own. -/
def execSync (m : Msg) (s : State) : Out := .next <|
  if m.ty ≠ 5 || !msgFieldsOk m || m.crc.toNat ≠ msgCrc m then s
  else if m.resp then
    if s.link.asked then
      let lost := s.link.lost
      let s := acknowledge { s with link := { s.link with expect := m.seq + 1, ackDue := some (s.clock + us10), asked := false, lost := false } } m.ackn
      if lost then renumber s else s
    else receive 5 m (fun s => s) s
  else
    let booting := s.mgmt.state == .booting
    let s := { s with link := { s.link with expect := m.seq + 1, ackDue := none } }
    let s := sendSync s true m.ctx.toNat fun next => syncPayload s m.ctx.toNat next (m.seq + 1)
    if booting then { s with link := { s.link with open_ := false, unacked := [] } } else renumber s

/-- ACK_TIMER (16 R387): no message has gone out within 10 microseconds of one accepted. -/
def execAckTimer (s : State) : Out := .next <|
  match s.link.ackDue with
  | some t => if t ≤ s.clock then sendAck s else s
  | none => s

/-- RESEND_TIMEOUT (16 R387): messages due are sent again with doubled waits up to 12.8 ms; after 16 resends the link is lost. -/
def execResendTimeout (s : State) : Out := .next <|
  let due := s.link.unacked.filter fun x => x.at_ ≤ s.clock
  if s.link.lost || due.isEmpty then s
  else if due.any fun x => 16 ≤ x.tries then { s with link := { s.link with lost := true } }
  else
    let again (x : Sent) : Sent :=
      if x.at_ ≤ s.clock then
        let wait := min (2 * x.wait) (1280 * us10)
        { x with at_ := s.clock + wait, wait := wait, tries := x.tries + 1 }
      else x
    { s with link := { s.link with unacked := s.link.unacked.map again, out := (due.map (·.msg)).reverse ++ s.link.out } }

/-! The firmware complexes, tokens and peers (16 R396 to R398). -/

/-- STANDBY_TAKEOVER: the standby takes over when no queue has a packet part-started, or when the active complex fails, and then it
sends SYNC in a session that the host has opened. -/
def execStandbyTakeover (failed : Bool) (s : State) : Out := .next <|
  let busy := s.ctxs.any fun c => c.2.queues.any fun q => q.2.started.isSome
  let swapped := { s with mgmt := { s.mgmt with active := 1 - s.mgmt.active, standby := none, state := .ready } }
  if s.mgmt.state == .booting then s
  else if failed then
    if !s.link.open_ then swapped
    else
      let t := sendSync swapped false 0 fun _ => []
      if t.link.lost then t else renumber t
  else if s.mgmt.standby.isSome && !busy then swapped
  else s

/-- SIGNED_TEST_TOKEN: a token that the hardware accepts opens test modes and the firmware's diagnostic mode until the next reset. -/
def execSignedTestToken (token : List Byte) (s : State) : Out := .next <|
  if Config.tokenValid token then { s with mgmt := { s.mgmt with token := true, diag := true } } else s

/-- PEER_JOIN: both sides have checked the other's quote, and the egress governor admits the peer. -/
def execPeerJoin (p : Nat) (s : State) : Out := .next <|
  match tget s.peers p with
  | some x => if Config.peerAdmitted p then { s with peers := tput s.peers p { x with joined := true } } else s
  | none => s

/-- The oldest access of an agent to region 4 performed by its peer: a read gets its bytes, a write is done with. -/
def peerServes (s : State) (who : Nat) (data : List Byte) : List Remote → List Remote
  | [] => []
  | r :: rs =>
    let joined := ((tget s.peers (bitsAt r.pa 36 12)).map (·.joined)).getD false
    if r.who == who && region r.pa == 4 && r.data.isNone && joined then
      if r.write.isSome then rs
      else if data.length = r.size then { r with data := some data } :: rs
      else r :: rs
    else r :: peerServes s who data rs

/-- PEER_ACCESS (16 R396). -/
def execPeerAccess (warp : Nat) (data : List Byte) (s : State) : Out := .next <| retryReads { s with remotes := peerServes s warp data s.remotes }

/-! Reset (16 R400). -/

/-- A page of regions 0 and 1 by its number (03 Table 03-1): where a root table may stand (R55). -/
def rootPage (n : Nat) : Nat := if n % 0x4000000 < 0x1800000 then 4096 * (n % 0x4000000) else 2 ^ 48 + 4096 * (n % 0x4000000 - 0x1800000)

/-- The device context that the firmware sets up, with queue (0, 0). -/
def deviceCtx : Ctx :=
  let c := Config.deviceContext
  { freshCtx (rootPage (c 0)) 0 with
    queues := [(0, { freshQueue (c 1) (2 ^ (1 + c 2 % 16)) (2 ^ (7 + c 3 % 6)) (c 4) 0 with resident := true, prio := c 5 % 8 })], idleAt := none }

/-- DEVICE_RESET: every state at its reset value, the active image started, the host port up. -/
def execDeviceReset (s : State) : Out := .next <|
  let r := State.reset
  { r with ctxs := [(0, deviceCtx)], mgmt := { r.mgmt with state := .ready, active := s.mgmt.active } }

end Sys2Proof.Machine
end

