-- ==== Sys2Proof/Machine/Mtx.lean ====
section
/-! DEFINITION. The matrix sequencer and its datapath: RUN, major MTX, and the performance of matrix operations (chapter 09). -/
namespace Sys2Proof.Machine

/-! The datapath's storage (09 Table 09-1, 05 Table 05-4). -/

/-- A macro's cell: row k, column c. -/
def cellOff (mac k c : Nat) : Nat := 0x4000 * mac + 64 * k + c
/-- An accumulator's word. -/
def accOff (a row c : Nat) : Nat := 0x4000 * a + 256 * row + 4 * c
/-- The key of a segment exponent, and the exponent: none for NaN. -/
def segKey (mac seg c : Nat) : Nat := 512 * mac + 64 * seg + c
def segExpOf (k : Cluster) (mac seg c : Nat) : Option Int := tgetD k.segExp (segKey mac seg c) (some 0)
/-- A cell as a signed number. -/
def cellOf (k : Cluster) (mac row c : Nat) : Int := signed 8 (mread k.cells (cellOff mac row c)).toNat
/-- A row of the A buffer, zero until staged. -/
def ARow.zero : ARow := ⟨List.replicate 256 0, List.replicate 8 (some 0), 0⟩
def arowOf (k : Cluster) (row : Nat) : ARow := tgetD k.abuf row ARow.zero
/-- A slot of the lookup store. -/
def LutSlot.zero : LutSlot := ⟨List.replicate 1024 0, 0, List.replicate 8 (some 0), 0⟩
def slotOf (k : Cluster) (slot : Nat) : LutSlot := tgetD k.lut slot LutSlot.zero
/-- The sticky flags of an accumulator tile (09 R212). -/
def Cluster.joinAcc (k : Cluster) (a : Nat) (f : Flags) : Cluster :=
  { k with accFlags := tput k.accFlags a (tgetD k.accFlags a 0 ||| f) }

/-- Bytes of an element of a tile (09 R213). -/
def mtxSize (ty : Ty) : Nat := if ty == .f32 then 4 else if ty == .f16 || ty == .bf16 then 2 else 1

/-- P of an A operand (09 R210). -/
def alignP (ty : Ty) : Nat := if ty == .i8 || ty == .t6 then 8 else if ty == .t8 then 10 else 12

/-- An element of a tile. -/
def tileElem (k : Cluster) (ty : Ty) (off : Nat) : Fv :=
  let x := mreadLE k.tile off (mtxSize ty)
  readTy false ty (if ty == .t6 then x % 64 else x)

/-! Alignment (09 R209, R210). -/

/-- floor(log2) of a finite nonzero value. -/
def topBit : Fv → Option Int
  | .num _ m e _ => if m = 0 then none else some (e + m.log2)
  | _ => none

/-- x / 2^e rounded to an integer, ties to even. -/
def mantissa (e : Int) (x : Fv) : Int := (roundToInt .rne (-(2 ^ 40)) (2 ^ 40) (x.scale (-e))).1

/-- A segment aligned to P bits: none is the mark NaN. -/
def alignSeg (xs : List Fv) (p : Nat) : Option (List Int × Int) :=
  if xs.any fun x => x.isNan || x.isInf then none
  else
    match (xs.filterMap topBit).max? with
    | none => some (xs.map fun _ => 0, 0)
    | some top =>
      let e : Int := top - ((p : Int) - 2)
      let q := xs.map (mantissa e)
      if q.all fun x => decide (x.natAbs < 2 ^ (p - 1)) then some (q, e) else some (xs.map (mantissa (e + 1)), e + 1)

/-- A segment of a type: i8 is taken exactly; the mark NaN holds zero mantissas. -/
def alignTy (ty : Ty) (p : Nat) (xs : List Fv) : List Int × Option Int :=
  if ty == .i8 then (xs.map (mantissa 0), some 0)
  else
    match alignSeg xs p with
    | some (q, e) => (q, some e)
    | none => (xs.map fun _ => 0, none)

/-! The accumulate step (09 R211). -/

/-- One segment's step on an accumulator word: S and its exponent, none for NaN. -/
def accStep (acc : Nat) (s : Int) (e : Option Int) : Nat × Flags :=
  match e with
  | none => (f32.nanBits, flIV)
  | some e =>
    let v := f32.round .rne true ((intVal s).scale e)
    let r := roundOut f32 .rne true (fvAdd .rne (f32.read acc) (f32.read v.1))
    (r.1, r.2 ||| v.2)

/-- The steps of a word over its segments, ascending: a segment gives S and its exponent. -/
def accSteps (seg : Nat → Int × Option Int) : List Nat → Nat → Flags → Nat × Flags
  | [], acc, f => (acc, f)
  | s :: ss, acc, f =>
    let (x, e) := seg s
    let r := accStep acc x e
    accSteps seg ss r.1 (f ||| r.2)

/-- The sum of two exponents, NaN when either is. -/
def addExp (a b : Option Int) : Option Int :=
  match a, b with
  | some a, some b => some (a + b)
  | _, _ => none

/-- The segments of a range, which stops at segment 7 (09 R208). -/
def segsOf (seg ns : Nat) : List Nat := (List.range ns).filterMap fun i => if seg + i < 8 then some (seg + i) else none

/-- The words of one row of an accumulator tile after their steps: `f` gives S and exponent of a column and segment. -/
def accRow (k : Cluster) (a row : Nat) (segs : List Nat) (f : Nat → Nat → Int × Option Int) : List Nat → Cluster
  | [] => k
  | c :: cs =>
    let r := accSteps (f c) segs (mreadLE k.acc (accOff a row c) 4) 0
    accRow ({ k with acc := mwriteLE k.acc (accOff a row c) 4 r.1 }.joinAcc a r.2) a row segs f cs

/-- The same over several rows. -/
def accRows (a : Nat) (segs : List Nat) (f : Nat → Nat → Nat → Int × Option Int) : List Nat → Cluster → Cluster
  | [], k => k
  | r :: rs, k => accRows a segs f rs (accRow k a r segs (f r) (List.range 64))

/-- The same over several macros and their accumulators. -/
def accMacros (f : Nat → Nat → Nat → Nat → Int × Option Int) (segs rows : List Nat) : List (Nat × Nat) → Cluster → Cluster
  | [], k => k
  | (m, a) :: rest, k => accMacros f segs rows rest (accRows a segs (f m) rows k)

/-- The products of one segment (09 R211). -/
def dotSeg (k0 : Cluster) (m row c s : Nat) : Int × Option Int :=
  let a := arowOf k0 row
  let x := (List.range 32).foldl (fun n i => n + a.q.getD (32 * s + i) 0 * cellOf k0 m (32 * s + i) c) 0
  (x, addExp (a.e.getD s none) (segExpOf k0 m s c))

/-- The lookup sum of one segment (09 R218). -/
def lutSeg (k0 : Cluster) (slot w m c s : Nat) : Int × Option Int :=
  let t := slotOf k0 slot
  let sum (g x : Nat) : Int := t.sums.getD (16 * (8 * s + g) + x) 0
  let nib (g j : Nat) : Nat := bitsAt (mread k0.cells (cellOff m (32 * s + 4 * j + g / 2) c)).toNat (4 * (g % 2)) 4
  let one (g : Nat) : Int :=
    if w = 1 then 2 * sum g (nib g 0) - sum g 15
    else (List.range (w - 1)).foldl (fun n j => n + 2 ^ j * sum g (nib g j)) 0 - 2 ^ (w - 1) * sum g (nib g (w - 1))
  ((List.range 8).foldl (fun n g => n + one g) 0, addExp (t.e.getD s none) (segExpOf k0 m s c))

/-! Descriptors (09 Table 09-5). -/

def fld (d : W64) (lo n : Nat) : Nat := bitsAt d.toNat lo n

/-- The macros of an operation with their accumulators: indices wrap modulo 32 (09 R208). -/
def macrosOf (mac nm acc : Nat) : List (Nat × Nat) := (List.range nm).map fun i => ((mac + i) % 32, (acc + i) % 32)
/-- Rows from one on, modulo 64. -/
def rowsFrom (row n : Nat) : List Nat := (List.range n).map fun j => (row + j) % 64

/-- Tile rows that MLDA stages (09 R215). -/
def stagedRows (ty : Ty) (cnt : Nat) : Nat :=
  let n := 8192 / (256 * mtxSize ty)
  if cnt = 0 || n < cnt then n else cnt

/-! The operations (09 R213 to R220). -/

/-- One column of MLDB: its 32 cells as bytes, and its exponent. -/
def panelColumn (k : Cluster) (mode : Nat) (ty : Ty) (base c : Nat) : List Nat × Option Int :=
  if ty == .i8 then
    let e := (mread k.tile (base + 2048 + c)).toNat
    let eb : Option Int := if e = 255 then none else some ((e : Int) - 127)
    let byte (i : Nat) : Nat := (mread k.tile (base + 64 * i + c)).toNat
    if mode = 0 then ((List.range 32).map fun i => if e = 255 then 0 else byte i, eb)
    else
      let w := 2 ^ (mode - 1)
      let nibble (j g : Nat) : Nat := joinBits ((List.range 4).map fun i => (1, bitsAt (byte (4 * g + i)) j 1))
      let cell (r : Nat) : Nat := if r < 4 * w then nibble (r / 4) (2 * (r % 4)) + 16 * nibble (r / 4) (2 * (r % 4) + 1) else 0
      ((List.range 32).map cell, eb)
  else
    let (q, e) := alignTy ty 8 ((List.range 32).map fun i => tileElem k ty (base + mtxSize ty * (64 * i + c)))
    (q.map (wrapInt 8), e)

/-- The columns of a panel written one by one; `k0` is the set before the operation. -/
def putPanel (k0 : Cluster) (mode : Nat) (ty : Ty) (mac seg base : Nat) : List Nat → Cluster → Cluster
  | [], k => k
  | c :: cs, k =>
    let (bytes, e) := panelColumn k0 mode ty base c
    let cells := bytes.zipIdx.foldl (fun m p => mwrite m (cellOff mac (32 * seg + p.2) c) (BitVec.ofNat 8 p.1)) k.cells
    putPanel k0 mode ty mac seg base cs { k with cells := cells, segExp := tput k.segExp (segKey mac seg c) e }

/-- A row staged (09 R215). -/
def stageRow (k : Cluster) (ty : Ty) (off : Nat) : ARow :=
  let seg (s : Nat) := alignTy ty (alignP ty) ((List.range 32).map fun i => tileElem k ty (off + mtxSize ty * (32 * s + i)))
  let segs := (List.range 8).map seg
  ⟨segs.flatMap (·.1), segs.map (·.2), alignP ty⟩

/-- The rows of MLDA staged one by one. -/
def stageRows (ty : Ty) (tile : Nat) : List (Nat × Nat) → Cluster → Cluster
  | [], k => k
  | (j, row) :: rest, k =>
    stageRows ty tile rest { k with abuf := tput k.abuf row (stageRow k ty (8192 * tile + 256 * mtxSize ty * j)) }

/-- The 16 subset sums of each group of four (09 R217). -/
def subsetSums (a : ARow) : List Int :=
  (List.range 64).flatMap fun g => (List.range 16).map fun x =>
    (List.range 4).foldl (fun n i => if x / 2 ^ i % 2 = 1 then n + a.q.getD (4 * g + i) 0 else n) 0

/-- The words that MDRAIN writes: bytes and flags (09 R220). -/
def drainWords (k : Cluster) (ty : Ty) (a half : Nat) : List Byte × Flags :=
  let word (i : Nat) : Nat := mreadLE k.acc (0x4000 * a + 4 * i) 4
  let conv (f : Fmt) : List Byte × Flags :=
    (List.range 4096).foldl (fun (acc : List Byte × Flags) i =>
      let v := f32.read (word i)
      let r := f.round .rne false v
      (acc.1 ++ leBytes 2 r.1, acc.2 ||| r.2 ||| flag v.isSig flIV)) ([], 0)
  match ty with
  | .f16 => conv f16
  | .bf16 => conv bf16
  | _ => (mreadN k.acc (0x4000 * a + 8192 * half) 8192, 0)

/-- The storage that an operation reads, as (kind, offset, bytes). -/
def mopReads (k : Cluster) : MOp → List (Nat × Nat × Nat)
  | .ldb _ ty d => [(2, 8192 * fld d 8 7, if ty == .i8 then 2112 else 2048 * mtxSize ty)]
  | .lda ty d => [(2, 8192 * fld d 12 7, 256 * mtxSize ty * stagedRows ty (fld d 6 6))]
  | .mul d =>
    (macrosOf (fld d 12 5) (fld d 17 5 + 1) (fld d 22 5)).flatMap fun p =>
      (4, cellOff p.1 (32 * fld d 27 3) 0, 2048 * (segsOf (fld d 27 3) (fld d 30 3 + 1)).length) ::
        (rowsFrom (fld d 0 6) (fld d 6 6 + 1)).map fun r => (3, accOff p.2 r 0, 256)
  | .lutb _ => []
  | .lut _ d =>
    (macrosOf (fld d 3 5) (fld d 8 5 + 1) (fld d 13 5)).flatMap fun p =>
      [(4, cellOff p.1 (32 * fld d 18 3) 0, 2048 * (segsOf (fld d 18 3) (fld d 21 3 + 1)).length), (3, accOff p.2 (slotOf k (fld d 0 3)).row 0, 256)]
  | .zero _ => []
  | .drain ty d _ => [(3, 0x4000 * fld d 0 5 + (if ty == .f32 then 8192 * fld d 12 1 else 0), if ty == .f32 then 8192 else 16384)]

/-- The macros and segments whose exponents an operation reads (09 R211, R218). -/
def mopExps : MOp → List (Nat × Nat)
  | .mul d => (macrosOf (fld d 12 5) (fld d 17 5 + 1) (fld d 22 5)).flatMap fun p => (segsOf (fld d 27 3) (fld d 30 3 + 1)).map fun g => (p.1, g)
  | .lut _ d => (macrosOf (fld d 3 5) (fld d 8 5 + 1) (fld d 13 5)).flatMap fun p => (segsOf (fld d 18 3) (fld d 21 3 + 1)).map fun g => (p.1, g)
  | _ => []

/-- The four 32-byte sectors that hold the exponents of a segment (15 Table 15-7). -/
def expSectors (mac seg : Nat) : List Nat := (List.range 4).map (segKey mac seg 0 / 16 + ·)

/-- The storage that an operation writes whole. -/
def mopWrites : MOp → List (Nat × Nat × Nat)
  | .ldb _ _ d => [(4, cellOff (fld d 0 5) (32 * fld d 5 3) 0, 2048)]
  | .zero d => (List.range (fld d 5 5 + 1)).map fun i => (3, 0x4000 * ((fld d 0 5 + i) % 32), 0x4000)
  | .drain _ d _ => [(2, 8192 * fld d 5 7, 8192)]
  | _ => []

/-- The exponents that an operation writes whole. -/
def mopExpWrites : MOp → List Nat
  | .ldb _ _ d => expSectors (fld d 0 5) (fld d 5 3)
  | _ => []

/-- The effect of an operation on the set, and the activity of its CIM cycles (09 R229): bit-plane steps over macros. -/
def performMop (k : Cluster) : MOp → Cluster × Nat
  | .ldb mode ty d => (putPanel k mode ty (fld d 0 5) (fld d 5 3) (8192 * fld d 8 7) (List.range 64) k, 0)
  | .lda ty d =>
    (stageRows ty (fld d 12 7) ((List.range (stagedRows ty (fld d 6 6))).map fun j => (j, (fld d 0 6 + j) % 64)) k, 0)
  | .mul d =>
    let ms := macrosOf (fld d 12 5) (fld d 17 5 + 1) (fld d 22 5)
    let rows := rowsFrom (fld d 0 6) (fld d 6 6 + 1)
    (accMacros (dotSeg k) (segsOf (fld d 27 3) (fld d 30 3 + 1)) rows ms k,
     ms.length * rows.foldl (fun n r => n + (arowOf k r).p) 0)
  | .lutb d =>
    let a := arowOf k (fld d 0 6)
    ({ k with lut := tput k.lut (fld d 6 3) ⟨subsetSums a, fld d 0 6, a.e, a.p⟩ }, 0)
  | .lut w d =>
    let ms := macrosOf (fld d 3 5) (fld d 8 5 + 1) (fld d 13 5)
    let slot := fld d 0 3
    (accMacros (fun m _ c s => lutSeg k slot w m c s) (segsOf (fld d 18 3) (fld d 21 3 + 1)) [(slotOf k slot).row] ms k, ms.length * 2 * w)
  | .zero d =>
    ((List.range (fld d 5 5 + 1)).foldl (fun k i =>
      let a := (fld d 0 5 + i) % 32
      { k with acc := mwriteN k.acc (0x4000 * a) (List.replicate 0x4000 0), accFlags := tdel k.accFlags a }) k, 0)
  | .drain ty d _ =>
    let r := drainWords k ty (fld d 0 5) (fld d 12 1)
    ({ k with tile := mwriteN k.tile (8192 * fld d 5 7) r.1 }.joinAcc (fld d 0 5) r.2, 0)

/-- A poisoned byte among what the head operation reads (09 R230): its address; a sector of the exponents, which have none, is named
as a kind beyond the map's (log 47). -/
def mopPoison (s : State) (ctx cl : Nat) (op : MOp) : Option Nat :=
  ((mopReads (getCluster s cl) op).findSome? fun p => setPoison s ctx p.1 cl p.2.1 p.2.2).orElse fun _ =>
    (((mopExps op).flatMap fun p => expSectors p.1 p.2).find? (getCluster s cl).badExp.contains).map fun q => setPa 6 cl (32 * q)

/-- MDRAIN's scalar reaches the sequencer (09 R220, R206). -/
def drainScalar (s : State) (cl : Nat) (op : MOp) : State :=
  match op with
  | .drain _ d (some sd) =>
    let f := tgetD (getCluster s cl).accFlags (fld d 0 5) 0
    modWarp s cl fun w => { w.setS sd.toNat (f.zeroExtend 64) with scalars := w.scalars.filter (· != sd.toNat) }
  | _ => s

/-! Isobar (09 R229). -/

/-- One window of 64 CIM cycles: the array steps through what it owes, at most 32 macros a cycle and at most the step more than in the
window before, and is charged for it (14 R351); a window that the limit holds back has a delay. -/
def isobarStep (k : Cluster) : Cluster :=
  let limit := k.lastAct + k.power.istep
  let want := min k.activity 2048
  let took := min want limit
  { k with activity := k.activity - took, lastAct := took, delayed := decide (limit < want)
           charge := k.charge + (tgetD k.weights 0x15 16).toNat * took }

/-- Windows one after another, and how many had a delay. -/
def isobarSteps : Nat → Cluster → Nat → Cluster × Nat
  | 0, k, n => (k, n)
  | m + 1, k, n => let k := isobarStep k; isobarSteps m k (if k.delayed then n + 1 else n)

/-- The windows of 80 fabric cycles that have ended; each with a delay counts a slip of the sequencer. -/
def isobarDue (s : State) (cluster : Nat) : State :=
  let k := getCluster s cluster
  if s.clock < k.isobarAt then s
  else
    let r := isobarSteps (min ((s.clock - k.isobarAt) / 80 + 1) (k.activity + 2)) k 0
    let s := setCluster s cluster { r.1 with isobarAt := (s.clock / 80 + 1) * 80 }
    if r.2 = 0 then s else modWarp (ensureSeq s) cluster fun w => { w with slip := w.slip + BitVec.ofNat 32 r.2 }
where
  /-- The sequencer's record, which exists from its first run on. -/
  ensureSeq (s : State) : State :=
    match getWarp s cluster with
    | some _ => s
    | none => setWarp s (Warp.idle cluster (.seq cluster))

/-- MATRIX_OPERATION_PERFORMED (09 R206): the oldest operation of a cluster's queue, which Isobar may delay (R229). One that reads
poison stops the context and stays (R230). -/
def execMatrixOperationPerformed (cluster : Nat) (s : State) : Out := .next <|
  let s := isobarDue s cluster
  let k := getCluster s cluster
  match k.ops, k.owner with
  | (op, _) :: rest, some ctx =>
    if k.delayed then s
    else
      match mopPoison s ctx cluster op with
      | some pa => if (getCtx s ctx).map (·.running) == some .running then poisonStop s ctx pa 0 else s
      | none =>
        let (k', n) := performMop k op
        let s := setCluster s cluster { k' with
          ops := rest, activity := k.activity + n, badExp := k.badExp.filter fun q => !(mopExpWrites op).contains q }
        let s := (mopWrites op).foldl (fun s p => setClean s p.1 cluster p.2.1 p.2.2) s
        pulse (drainScalar s cluster op) ctx
  | _, _ => s

/-- BATCH_COMPLETE (09 R221): the next batch is complete when none of its operations is left. -/
def execBatchComplete (cluster : Nat) (s : State) : Out := .next <|
  let k := getCluster s cluster
  if k.done ≠ k.batch && !k.ops.any fun x => x.2 == some (k.done + 1) then setCluster s cluster { k with done := k.done + 1 } else s

/-- ISOBAR_WINDOW (09 R229): the end of a window of 64 CIM cycles. -/
def execIsobarWindow (cluster : Nat) (s : State) : Out := .next <| isobarDue s cluster

/-- CIM_SCRUB (09 R230): every cell row is read and corrected in place, with no visible effect; the time is noted. -/
def execCimScrub (cluster : Nat) (s : State) : Out := .next <| modCluster s cluster fun k => { k with scrub := s.clock }

/-! Major MTX (09 R208). -/

/-- An operation handed to the datapath's queue of 32; a full queue stalls the sequencer (09 R206). -/
def issueMop (s : State) (op : MOp) : State :=
  let k := getCluster s s.w.cluster
  if 32 ≤ k.ops.length then stall s
  else
    let s := setCluster s s.w.cluster { k with ops := k.ops ++ [(op, none)] }
    advance (match op with
      | .drain _ _ (some sd) => s.modW fun w => { w with scalars := sd.toNat :: w.scalars }
      | _ => s)

def execMldb (mode : BitVec 2) (ty : Ty) (lit : Option W64) (a : Src) (s : State) : Out := .next <| issueMop s (.ldb mode.toNat ty (s.w.opndS lit a))
def execMlda (ty : Ty) (lit : Option W64) (a : Src) (s : State) : Out := .next <| issueMop s (.lda ty (s.w.opndS lit a))
def execMmul (lit : Option W64) (a : Src) (s : State) : Out := .next <| issueMop s (.mul (s.w.opndS lit a))
def execMlutb (lit : Option W64) (a : Src) (s : State) : Out := .next <| issueMop s (.lutb (s.w.opndS lit a))
/-- WC 1, 2, 3 stand for w = 1, 2, 4 (09 Table 09-4). -/
def execMlut (wc : BitVec 2) (lit : Option W64) (a : Src) (s : State) : Out := .next <|
  issueMop s (.lut (2 ^ (wc.toNat - 1)) (s.w.opndS lit a))
def execMzero (lit : Option W64) (a : Src) (s : State) : Out := .next <| issueMop s (.zero (s.w.opndS lit a))
def execMdrain (ty : Ty) (lit : Option W64) (a : Src) (d : Option (BitVec 6)) (s : State) : Out := .next <|
  issueMop s (.drain ty (s.w.opndS lit a) d)

/-- MBATCH (09 R221): every operation not yet in a batch joins the new one. -/
def execMbatch (d : Option (BitVec 6)) (s : State) : Out := .next <|
  let k := getCluster s s.w.cluster
  let b := k.batch + 1
  let s := setCluster s s.w.cluster { k with batch := b, ops := k.ops.map fun x => (x.1, some (x.2.getD b)) }
  advance (match d with
    | some sd => setS s sd.toNat (b.zeroExtend 64)
    | none => s)

/-- MWAITB (09 R222): a satisfied wait is an edge (R227), for which a unit that reads at the homes does nothing (12 Table 12-7). -/
def execMwaitb (lit : Option W64) (a : Src) (s : State) : Out := .next <|
  if reached (getCluster s s.w.cluster).done ((s.w.opndS lit a).setWidth 32) then advance s else stall s
/-- MWAITF (09 R222). -/
def execMwaitf (lit : Option W64) (a : Src) (s : State) : Out := .next <|
  if reached (getCluster s s.w.cluster).feed ((s.w.opndS lit a).setWidth 32) then advance s else stall s

/-! The RUN command (09 R205). -/

/-- A MATRIX command that starts nothing. -/
def runRefused (s : State) (cl : Nat) (c : Cmd) : Bool :=
  cmdOp c ≠ 0 || !cmdPlain c || cmdWord c 1 % 4 ≠ 0 || (getCluster s cl).owner ≠ some c.ctx

/-- The sequencer at the start of a run: %slip, %link and the record of its last fault stay. -/
def startSeq (w : Warp) (cl : Nat) (c : Cmd) : Warp :=
  let tag := cmdTag c
  { w with
    kind := .seq cl, live := true, home := ⟨c.ctx, c.qi, c.prio, bitsAt (cmdWord c 0) 32 3, coreOfCluster cl 0, 0, 0, 0, true⟩
    s := [BitVec.ofNat 64 tag] ++ (List.range 5).map (fun i => c.words.getD (i + 2) 0) ++ List.replicate 58 0
    exec := ~~~ 0, exited := 0, o := 0, code := ⟨c.words.getD 1 0, 0, 0⟩, fp := ⟨0, false, 0⟩, seed := ⟨0, 0, 0, 0⟩, stack := []
    wake := .ready, scalars := [], halted := false, tag := BitVec.ofNat 16 tag, recVA := if cmdRec c then some (c.words.getD 7 0) else none
    issuer := c.issuer, runEng := c.eng, iss := Issue.idle, counts := [], errors := [] }

/-- RUN (09 R205): the idle sequencer takes the oldest command of its mailbox. -/
def execRun (cluster : Nat) (s : State) : Out := .next <|
  let e : Engine := .matrix cluster
  match engineQueue s e with
  | [] => s
  | c :: rest =>
    let w := (getWarp s cluster).getD (Warp.idle cluster (.seq cluster))
    if w.live || !engineRuns s c.ctx then s
    else if runRefused s cluster c then finishHead s e c (Report.plain 1)
    else setWarp (setEngineQueue s e rest) (startSeq w cluster c)

/-- The command of the run in progress, for its completion. -/
def runCommand (w : Warp) : Cmd :=
  let rec_ := w.recVA.isSome
  ⟨[BitVec.ofNat 64 (joinBits [(8, 0), (1, rec_.toNat), (7, 0), (16, w.tag.toNat), (3, w.home.cls)]), 0, 0, 0, 0, 0, 0, w.recVA.getD 0], w.home.ctx, w.issuer, none, w.runEng, true, w.home.qi,
    w.home.prio, w.home.cls, none, 0⟩

/-- RUN_COMPLETE (09 R205): after EXIT, and when every operation that the run issued is performed. -/
def execRunComplete (cluster : Nat) (s : State) : Out := .next <|
  match getWarp s cluster with
  | none => s
  | some w =>
    if w.live && w.exited ≠ 0 && (getCluster s cluster).ops.isEmpty then
      let c := runCommand w
      finishCmd (modWarp s cluster fun w => { w with live := false, exited := 0 }) (.engine (.matrix cluster)) (engineKey (.matrix cluster)) c
        (Report.plain 0)
    else s

end Sys2Proof.Machine
end

