-- ==== Sys2Proof/Machine/Spawn.lean ====
section
/-! DEFINITION. SPAWN and SPAWNU (12 R303 to R306, 11 R287). -/
namespace Sys2Proof.Machine

/-- Fragments taken one after another, each at its tower and for its context: none has to wait for room. -/
def fragsFit : List (Nat × Nat × List W32) → State → Bool
  | [], _ => true
  | (tower, ctx, ws) :: rest, s =>
    match takeFragment s tower ctx ws with
    | .ok s => fragsFit rest s
    | .stall => false
    | .wait s => fragsFit rest s
    | .poison s _ => fragsFit rest s

/-- Fragment records of an issue find room at their blenders, behind those on their way (11 R287); other records always do. -/
def fragRoom (s : State) (h : Nat) (recs : List (List W32)) : Bool :=
  h != 0xFF01 ||
    fragsFit ((s.towers.flatMap fun t => t.2.frags.map fun r => (t.1, r.ctx, r.words)) ++
      recs.map fun ws => (towerOfCluster s.w.cluster, s.ctx, ws)) s

/-- SPAWN (12 R304): the records of one plane's issue, all of them or, while it waits, none. -/
def execSpawn (lit : Option W64) (h : Src) (n : BitVec 9) (s : State) : Out := .next <|
  let hv := s.w.opndS lit h
  match spawnNode s hv with
  | (_, .stop s) => s
  | (s, dest) =>
    match prep s [(.vec n, dest.words)] [] with
    | .stop s => s
    | .go s =>
      let ls := spawnLanes s
      if ls.isEmpty then advance s
      else
        let recs := ls.map fun l => (l, (List.range dest.words).map fun i => (s.w.srcV (n.toNat + i)).lane l)
        if !spawnRoom s hv.toNat dest ls || !fragRoom s hv.toNat (recs.map (·.2)) then stall s
        else advance (emitRecords hv.toNat dest recs (writeBackCtx s s.core s.ctx))

/-- The words of a record that SPAWNU takes from scalars (12 R305). -/
def scalarRecord (w : Warp) (n words : Nat) : List W32 :=
  (List.range words).map fun i => BitVec.ofNat 32 ((w.sreg (n + i / 2)).toNat / 2 ^ (32 * (i % 2)))

/-- SPAWNU (12 R305): one record, counted in the warp counter. -/
def execSpawnu (lit : Option W64) (h : Src) (n : BitVec 6) (s : State) : Out := .next <|
  let hv := s.w.opndS lit h
  match spawnNode s hv with
  | (_, .stop s) => s
  | (s, dest) =>
    if 63 < n.toNat + ceilDiv dest.words 2 - 1 then raise0 s REG_RANGE [0x200 + n.toNat]
    else
      let words := scalarRecord s.w n.toNat dest.words
      if !spawnRoom s hv.toNat dest [128] || !fragRoom s hv.toNat [words] then stall s
      else advance (emitRecord (writeBackCtx s s.core s.ctx) hv.toNat dest 128 words)

end Sys2Proof.Machine
end

