-- ==== Sys2Proof/Machine/Xlane.lean ====
section
/-! DEFINITION. Cross-lane operations: major XLANE (08 R195 to R197, 11 R271). The active set is that of the issue, which
step widens to the lanes of every occupied plane. -/
namespace Sys2Proof.Machine

/-- A cross-lane instruction: the values of the active lanes from those of all 128 lanes, and flags. -/
def cross (o : Op) (g : (Nat → Nat) → (Nat → Nat) → Nat → Nat × Flags) (s : State) : State :=
  match prep s [(o.a, 1), (o.b, 1)] [(o.d, 1)] with
  | .stop s => s
  | .go s =>
    let ra := (List.range 128).map fun l => s.w.opnd o.ty false o.lit l o.a
    let rb := (List.range 128).map fun l => s.w.opnd o.ty false o.lit l o.b
    let rs := (List.range 128).map fun l => if hasLane s.lanes l then g (ra.getD · 0) (rb.getD · 0) l else (0, 0)
    advance (raiseFlags (putResult s o.d o.tr (resultVecs false rs)) (joinFlags rs))

/-- SHFL: the lane that lane l reads (08 Table 08-11). -/
def shflLane (mod l b : Nat) : Nat :=
  let j := match mod with
    | 0 => b % 128
    | 1 => if b ≤ l then l - b else 128
    | 2 => l + b
    | _ => l ^^^ (b % 128)
  if j < 128 then j else l

def execShfl (o : Op) (s : State) : Out := .next <| cross o (fun a b l => (a (shflLane o.mod.toNat l (b l)), 0)) s

/-- VOTE (08 Table 08-11). -/
def execVote (o : Op) (s : State) : Out := .next <|
  let act := maskLanes s.lanes
  cross o (fun a _ l =>
    let bit (p : Bool) : Nat × Flags := (if p then 1 else 0, 0)
    match o.mod.toNat with
    | 0 => bit (act.all fun j => a j != 0)
    | 1 => bit (act.any fun j => a j != 0)
    | 2 => bit (act.all fun j => a j == a (lowLane s.lanes))
    | _ => (bitsAt (maskOf fun j => hasLane s.lanes j && a j != 0).toNat (32 * (l % 4)) 32, 0)) s

/-- One combining operation of REDU and SCAN (08 R197). -/
def combine (ty : Ty) (mod : Nat) (ftz : Bool) (a b : Nat) : Nat × Flags :=
  match mod, ty with
  | 0, .f32 => fmtAdd f32 ftz .rne a b
  | 1, .f32 => minMaxNum f32 false ftz a b
  | 2, .f32 => minMaxNum f32 true ftz a b
  | 0, _ => ((a + b) % 2 ^ 32, 0)
  | 1, t => (if readInt (tySigned t) 32 a ≤ readInt (tySigned t) 32 b then a else b, 0)
  | 2, t => (if readInt (tySigned t) 32 a ≤ readInt (tySigned t) 32 b then b else a, 0)
  | 3, _ => (a &&& b, 0)
  | 4, _ => (a ||| b, 0)
  | _, _ => (a ^^^ b, 0)

/-- What an exclusive scan delivers in the lowest active lane (08 R197). -/
def combineId (ty : Ty) (mod : Nat) : Nat :=
  match mod, ty with
  | 1, .f32 => f32.infBits
  | 2, .f32 => f32.infBits + 2 ^ 31
  | 1, .i32 => 2 ^ 31 - 1
  | 1, _ => 2 ^ 32 - 1
  | 2, .i32 => 2 ^ 31
  | 3, _ => 2 ^ 32 - 1
  | _, _ => 0

/-- The running combinations over a list of values: the first enters unchanged. -/
def combineRun (f : Nat → Nat → Nat × Flags) : Option Nat → List Nat → List (Nat × Flags)
  | _, [] => []
  | none, x :: xs => (x, 0) :: combineRun f (some x) xs
  | some acc, x :: xs => let r := f acc x; r :: combineRun f (some r.1) xs

/-- The combinations of a source over the active set, in ascending lane order, after ABS and NEG. -/
def running (o : Op) (s : State) (a : Nat → Nat) : List (Nat × Flags) :=
  combineRun (combine o.ty o.mod.toNat s.w.fp.ftz) none
    ((maskLanes s.lanes).map fun l => if o.ty == .f32 then signMods f32 o 0 (a l) else a l)

/-- REDU (08 R196, R197): the flags are those of every combination. -/
def execRedu (o : Op) (s : State) : Out := .next <|
  cross o (fun a _ _ =>
    let rs := running o s a
    ((rs.getLast?.getD (0, 0)).1, joinFlags rs)) s

/-- SCAN (08 R196, R197): the combination that lane l receives. -/
def execScan (o : Op) (excl : Bool) (s : State) : Out := .next <|
  cross o (fun a _ l =>
    let i := ((maskLanes s.lanes).filter (· < l)).length
    let rs := running o s a
    if excl then (if i = 0 then (combineId o.ty o.mod.toNat, 0) else rs.getD (i - 1) (0, 0))
    else rs.getD i (0, 0)) s

/-- The highest lane of a mask. -/
def highLane (m : Mask) : Nat := (maskLanes m).getLast?.getD 0

/-- BCAST (08 Table 08-11). -/
def execBcast (o : Op) (s : State) : Out := .next <|
  cross o (fun a b _ =>
    let j := match o.mod.toNat with
      | 0 => lowLane s.lanes
      | 1 => highLane s.lanes
      | _ => b (lowLane s.lanes) % 128
    (a j, 0)) s

/-- A difference of two lanes of a quad: rne, under FTZ (11 R271). -/
def quadDiff (ftz : Bool) (hi lo : Nat) : Nat × Flags := fmtSub f32 ftz .rne hi lo

/-- QDX and QDY between the lanes that g gives (11 R271). -/
def quadDelta (o : Op) (g : Nat → Nat × Nat) (s : State) : State :=
  cross o (fun a _ l =>
    let p := g (l % 4)
    let rd (i : Nat) := signMods f32 o 0 (a (l / 4 * 4 + i))
    quadDiff s.w.fp.ftz (rd p.1) (rd p.2)) s

def execQdx (o : Op) (s : State) : Out := .next <| quadDelta o (fun p => if o.mod.toNat = 0 && 2 ≤ p then (3, 2) else (1, 0)) s
def execQdy (o : Op) (s : State) : Out := .next <| quadDelta o (fun p => if o.mod.toNat = 0 && p % 2 = 1 then (3, 1) else (2, 0)) s
def execQswp (o : Op) (s : State) : Out := .next <| cross o (fun a _ l => (a (l ^^^ (o.mod.toNat + 1)), 0)) s

end Sys2Proof.Machine
end

