-- ==== Sys2Proof/Machine/Dispatch.lean ====
section
/-! DEFINITION. The dispatch of every instruction and event to its meaning. -/
namespace Sys2Proof.Machine

/-- What an instruction does, or an event. -/
def exec (i : Instr) (s : State) : Host.Outcome State Fault Refusal :=
  match i with
  -- SYS
  | .nop => Sys2Proof.Machine.execNop s
  | .exit => Sys2Proof.Machine.execExit s
  | .brk code => Sys2Proof.Machine.execBrk code s
  | .trap code => Sys2Proof.Machine.execTrap code s
  | .rtt skip => Sys2Proof.Machine.execRtt skip s
  | .yield cyc => Sys2Proof.Machine.execYield cyc s
  | .icpf lines d => Sys2Proof.Machine.execIcpf lines d s
  | .srd half spr sd => Sys2Proof.Machine.execSrd half spr sd s
  | .swr half spr ss => Sys2Proof.Machine.execSwr half spr ss s
  | .swrLit half spr lit => Sys2Proof.Machine.execSwrLit half spr lit s
  | .ntdrain => Sys2Proof.Machine.execNtdrain s
  | .lease units level sd => Sys2Proof.Machine.execLease units level sd s
  | .claim sd n => Sys2Proof.Machine.execClaim sd n s
  | .claimLit sd n lit => Sys2Proof.Machine.execClaimLit sd n lit s
  | .giveback n => Sys2Proof.Machine.execGiveback n s
  | .chmapC role dm1 ch n => Sys2Proof.Machine.execChmapC role dm1 ch n s
  | .chmapP ch n => Sys2Proof.Machine.execChmapP ch n s
  | .waitmem sv w64 acq cond sa => Sys2Proof.Machine.execWaitmem sv w64 acq cond sa s
  | .waitmemLit lit w64 acq cond sa => Sys2Proof.Machine.execWaitmemLit lit w64 acq cond sa s
  | .waitmemRecheck warp => Sys2Proof.Machine.execWaitmemRecheck warp s
  | .claimWaitLimit warp => Sys2Proof.Machine.execClaimWaitLimit warp s
  -- FLOW
  | .bra off => Sys2Proof.Machine.execBra off s
  | .brs z a off => Sys2Proof.Machine.execBrs z a off s
  | .brm m off join => Sys2Proof.Machine.execBrm m off join s
  | .brany m off => Sys2Proof.Machine.execBrany m off s
  | .brall m off => Sys2Proof.Machine.execBrall m off s
  | .call off => Sys2Proof.Machine.execCall off s
  | .callm m off => Sys2Proof.Machine.execCallm m off s
  | .ret => Sys2Proof.Machine.execRet s
  | .plset m p => Sys2Proof.Machine.execPlset m p s
  | .plsw lit a => Sys2Proof.Machine.execPlsw lit a s
  | .loop lit n off step => Sys2Proof.Machine.execLoop lit n off step s
  | .loopx z a => Sys2Proof.Machine.execLoopx z a s
  -- MASK
  | .mset o => Sys2Proof.Machine.execMset o s
  | .mget o => Sys2Proof.Machine.execMget o s
  | .mand o => Sys2Proof.Machine.execMand o s
  | .mor o => Sys2Proof.Machine.execMor o s
  | .mxor o => Sys2Proof.Machine.execMxor o s
  | .mandn o => Sys2Proof.Machine.execMandn o s
  | .mnot o => Sys2Proof.Machine.execMnot o s
  | .mpop o => Sys2Proof.Machine.execMpop o s
  | .mfirst o => Sys2Proof.Machine.execMfirst o s
  | .mlit lit half d => Sys2Proof.Machine.execMlit lit half d s
  -- INTA
  | .iadd o => Sys2Proof.Machine.execIadd o s
  | .isub o => Sys2Proof.Machine.execIsub o s
  | .imul o => Sys2Proof.Machine.execImul o s
  | .imulh o => Sys2Proof.Machine.execImulh o s
  | .imad o => Sys2Proof.Machine.execImad o s
  | .imin o => Sys2Proof.Machine.execImin o s
  | .imax o => Sys2Proof.Machine.execImax o s
  | .iabs o => Sys2Proof.Machine.execIabs o s
  | .ineg o => Sys2Proof.Machine.execIneg o s
  | .iadds o => Sys2Proof.Machine.execIadds o s
  | .isubs o => Sys2Proof.Machine.execIsubs o s
  | .lea o => Sys2Proof.Machine.execLea o s
  | .iadd64 o => Sys2Proof.Machine.execIadd64 o s
  | .isub64 o => Sys2Proof.Machine.execIsub64 o s
  | .idiv o => Sys2Proof.Machine.execIdiv o s
  | .irem o => Sys2Proof.Machine.execIrem o s
  -- INTB
  | .and o => Sys2Proof.Machine.execAnd o s
  | .or o => Sys2Proof.Machine.execOr o s
  | .xor o => Sys2Proof.Machine.execXor o s
  | .andn o => Sys2Proof.Machine.execAndn o s
  | .not o => Sys2Proof.Machine.execNot o s
  | .shl o => Sys2Proof.Machine.execShl o s
  | .shr o => Sys2Proof.Machine.execShr o s
  | .sra o => Sys2Proof.Machine.execSra o s
  | .rot o => Sys2Proof.Machine.execRot o s
  | .bfe o => Sys2Proof.Machine.execBfe o s
  | .bfi o => Sys2Proof.Machine.execBfi o s
  | .popc o => Sys2Proof.Machine.execPopc o s
  | .clz o => Sys2Proof.Machine.execClz o s
  | .brev o => Sys2Proof.Machine.execBrev o s
  | .sel o => Sys2Proof.Machine.execSel o s
  | .mov o => Sys2Proof.Machine.execMov o s
  -- INTI
  | .iaddi o => Sys2Proof.Machine.execIaddi o s
  | .andi o => Sys2Proof.Machine.execAndi o s
  | .ori o => Sys2Proof.Machine.execOri o s
  | .xori o => Sys2Proof.Machine.execXori o s
  | .shli o => Sys2Proof.Machine.execShli o s
  | .shri o => Sys2Proof.Machine.execShri o s
  | .srai o => Sys2Proof.Machine.execSrai o s
  | .movi o => Sys2Proof.Machine.execMovi o s
  | .icmpi o => Sys2Proof.Machine.execIcmpi o s
  -- CMP
  | .icmp o => Sys2Proof.Machine.execIcmp o s
  | .icmpn o => Sys2Proof.Machine.execIcmpn o s
  | .fcmp o => Sys2Proof.Machine.execFcmp o s
  | .fcmpx o => Sys2Proof.Machine.execFcmpx o s
  -- FLTA
  | .fadd o => Sys2Proof.Machine.execFadd o s
  | .fsub o => Sys2Proof.Machine.execFsub o s
  | .fmul o => Sys2Proof.Machine.execFmul o s
  | .ffma o => Sys2Proof.Machine.execFfma o s
  | .fmin o => Sys2Proof.Machine.execFmin o s
  | .fmax o => Sys2Proof.Machine.execFmax o s
  | .fabs o => Sys2Proof.Machine.execFabs o s
  | .fneg o => Sys2Proof.Machine.execFneg o s
  | .frnd o => Sys2Proof.Machine.execFrnd o s
  | .ffrac o => Sys2Proof.Machine.execFfrac o s
  | .fldexp o => Sys2Proof.Machine.execFldexp o s
  | .fclass o => Sys2Proof.Machine.execFclass o s
  | .fcopysign o => Sys2Proof.Machine.execFcopysign o s
  | .fdiv o => Sys2Proof.Machine.execFdiv o s
  | .fsqrt o => Sys2Proof.Machine.execFsqrt o s
  -- FLTB
  | .frcp o => Sys2Proof.Machine.execFrcp o s
  | .frsq o => Sys2Proof.Machine.execFrsq o s
  | .fexp2 o => Sys2Proof.Machine.execFexp2 o s
  | .flog2 o => Sys2Proof.Machine.execFlog2 o s
  | .fsinp o => Sys2Proof.Machine.execFsinp o s
  | .fcosp o => Sys2Proof.Machine.execFcosp o s
  | .ftanh o => Sys2Proof.Machine.execFtanh o s
  | .fsigm o => Sys2Proof.Machine.execFsigm o s
  -- PKD
  | .hadd2 o => Sys2Proof.Machine.execHadd2 o s
  | .hmul2 o => Sys2Proof.Machine.execHmul2 o s
  | .hfma2 o => Sys2Proof.Machine.execHfma2 o s
  | .badd2 o => Sys2Proof.Machine.execBadd2 o s
  | .bmul2 o => Sys2Proof.Machine.execBmul2 o s
  | .bfma2 o => Sys2Proof.Machine.execBfma2 o s
  | .padd16 o => Sys2Proof.Machine.execPadd16 o s
  | .psub16 o => Sys2Proof.Machine.execPsub16 o s
  | .pmin16 o => Sys2Proof.Machine.execPmin16 o s
  | .pmax16 o => Sys2Proof.Machine.execPmax16 o s
  | .padds16 o => Sys2Proof.Machine.execPadds16 o s
  | .pdot4t8 o => Sys2Proof.Machine.execPdot4t8 o s
  | .pdot8i4 o => Sys2Proof.Machine.execPdot8i4 o s
  | .pshf o => Sys2Proof.Machine.execPshf o s
  -- CVT
  | .cvt o sty sel => Sys2Proof.Machine.execCvt o sty sel s
  | .cvtsr o sty sel => Sys2Proof.Machine.execCvtsr o sty sel s
  | .pack o sty sel => Sys2Proof.Machine.execPack o sty sel s
  | .unpack o sel => Sys2Proof.Machine.execUnpack o sel s
  -- XLANE
  | .shfl o => Sys2Proof.Machine.execShfl o s
  | .vote o => Sys2Proof.Machine.execVote o s
  | .redu o => Sys2Proof.Machine.execRedu o s
  | .scan o excl => Sys2Proof.Machine.execScan o excl s
  | .bcast o => Sys2Proof.Machine.execBcast o s
  | .qdx o => Sys2Proof.Machine.execQdx o s
  | .qdy o => Sys2Proof.Machine.execQdy o s
  | .qswp o => Sys2Proof.Machine.execQswp o s
  -- LDST
  | .ld m => Sys2Proof.Machine.execLd m s
  | .st m => Sys2Proof.Machine.execSt m s
  | .lde m => Sys2Proof.Machine.execLde m s
  | .ste m => Sys2Proof.Machine.execSte m s
  | .lds m => Sys2Proof.Machine.execLds m s
  | .sts m => Sys2Proof.Machine.execSts m s
  | .ldu m => Sys2Proof.Machine.execLdu m s
  | .stu m => Sys2Proof.Machine.execStu m s
  | .ntst m => Sys2Proof.Machine.execNtst m s
  | .prf lit adr base hint => Sys2Proof.Machine.execPrf lit adr base hint s
  | .ld64 m => Sys2Proof.Machine.execLd64 m s
  | .st64 m => Sys2Proof.Machine.execSt64 m s
  | .loadReturn warp => Sys2Proof.Machine.execLoadReturn warp s
  -- ATOM
  | .aadd o => Sys2Proof.Machine.execAadd o s
  | .amin o => Sys2Proof.Machine.execAmin o s
  | .amax o => Sys2Proof.Machine.execAmax o s
  | .aand o => Sys2Proof.Machine.execAand o s
  | .aor o => Sys2Proof.Machine.execAor o s
  | .axor o => Sys2Proof.Machine.execAxor o s
  | .axch o => Sys2Proof.Machine.execAxch o s
  | .acas o => Sys2Proof.Machine.execAcas o s
  | .afadd o => Sys2Proof.Machine.execAfadd o s
  | .ainc o => Sys2Proof.Machine.execAinc o s
  -- LAYOUT
  | .ldt lit h c d tr => Sys2Proof.Machine.execLdt lit h c d tr s
  | .stt lit h c src rnd tr => Sys2Proof.Machine.execStt lit h c src rnd tr s
  | .lhbind lit h src tr => Sys2Proof.Machine.execLhbind lit h src tr s
  | .lhinv lit h tr => Sys2Proof.Machine.execLhinv lit h tr s
  | .lhq lit h o d tr => Sys2Proof.Machine.execLhq lit h o d tr s
  -- ENGINE
  | .push sd cb eng => Sys2Proof.Machine.execPush sd cb eng s
  | .yldc eng k off => Sys2Proof.Machine.execYldc eng k off s
  | .cwait k eng => Sys2Proof.Machine.execCwait k eng s
  | .ctest sd eng => Sys2Proof.Machine.execCtest sd eng s
  -- TILE
  | .tldv lit tile slice d tr => Sys2Proof.Machine.execTldv lit tile slice d tr s
  | .tstv p lit tile slice src tr => Sys2Proof.Machine.execTstv p lit tile slice src tr s
  | .tldg t => Sys2Proof.Machine.execTldg t s
  | .tstg t => Sys2Proof.Machine.execTstg t s
  | .mwait lit b tr => Sys2Proof.Machine.execMwait lit b tr s
  | .mtest sd lit b tr => Sys2Proof.Machine.execMtest sd lit b tr s
  | .tileTransferComplete warp => Sys2Proof.Machine.execTileTransferComplete warp s
  -- MTX
  | .mldb mode ty lit a => Sys2Proof.Machine.execMldb mode ty lit a s
  | .mlda ty lit a => Sys2Proof.Machine.execMlda ty lit a s
  | .mmul lit a => Sys2Proof.Machine.execMmul lit a s
  | .mlutb lit a => Sys2Proof.Machine.execMlutb lit a s
  | .mlut wc lit a => Sys2Proof.Machine.execMlut wc lit a s
  | .mzero lit a => Sys2Proof.Machine.execMzero lit a s
  | .mdrain ty lit a d => Sys2Proof.Machine.execMdrain ty lit a d s
  | .mbatch d => Sys2Proof.Machine.execMbatch d s
  | .mwaitb lit a => Sys2Proof.Machine.execMwaitb lit a s
  | .mwaitf lit a => Sys2Proof.Machine.execMwaitf lit a s
  | .matrixOperationPerformed cluster => Sys2Proof.Machine.execMatrixOperationPerformed cluster s
  | .batchComplete cluster => Sys2Proof.Machine.execBatchComplete cluster s
  | .isobarWindow cluster => Sys2Proof.Machine.execIsobarWindow cluster s
  | .cimScrub cluster => Sys2Proof.Machine.execCimScrub cluster s
  -- SYNC
  | .spawn lit h n => Sys2Proof.Machine.execSpawn lit h n s
  | .spawnu lit h n => Sys2Proof.Machine.execSpawnu lit h n s
  | .await => Sys2Proof.Machine.execAwait s
  | .bar n k => Sys2Proof.Machine.execBar n k s
  | .bara n k => Sys2Proof.Machine.execBara n k s
  | .barw k => Sys2Proof.Machine.execBarw k s
  | .nodeq sh sd => Sys2Proof.Machine.execNodeq sh sd s
  | .frameq lane sd => Sys2Proof.Machine.execFrameq lane sd s
  | .binLaunch cluster bin p => Sys2Proof.Machine.execBinLaunch cluster bin p s
  | .binTimerExpiry cluster bin p => Sys2Proof.Machine.execBinTimerExpiry cluster bin p s
  | .threadComplete frame lane => Sys2Proof.Machine.execThreadComplete frame lane s
  | .continuationSteal warp core group => Sys2Proof.Machine.execContinuationSteal warp core group s
  | .channelDequeueWake warp => Sys2Proof.Machine.execChannelDequeueWake warp s
  -- GFX
  | .sample m => Sys2Proof.Machine.execSample m s
  | .samplel m lod => Sys2Proof.Machine.execSamplel m lod s
  | .sampleg m vg => Sys2Proof.Machine.execSampleg m vg s
  | .imgld lit si lvl x y d tr => Sys2Proof.Machine.execImgld lit si lvl x y d tr s
  | .imgst lit si lvl x y src tr => Sys2Proof.Machine.execImgst lit si lvl x y src tr s
  | .trace lit sr x any vr vp vd tr => Sys2Proof.Machine.execTrace lit sr x any vr vp vd tr s
  | .hitrd lit w d tr => Sys2Proof.Machine.execHitrd lit w d tr s
  -- STRM
  | .sgen zd k f32 lit p => Sys2Proof.Machine.execSgen zd k f32 lit p s
  | .sand zd za zb => Sys2Proof.Machine.execSand zd za zb s
  | .sor zd za zb => Sys2Proof.Machine.execSor zd za zb s
  | .sandc zd za zb => Sys2Proof.Machine.execSandc zd za zb s
  | .sorc zd za zb => Sys2Proof.Machine.execSorc zd za zb s
  | .snot zd za => Sys2Proof.Machine.execSnot zd za s
  | .smux zd zc za zb => Sys2Proof.Machine.execSmux zd zc za zb s
  | .scnt za d tr => Sys2Proof.Machine.execScnt za d tr s
  | .scvtVal za d tr => Sys2Proof.Machine.execScvtVal za d tr s
  | .scvtDraw k d tr => Sys2Proof.Machine.execScvtDraw k d tr s
  | .scvtWord za lit w d tr => Sys2Proof.Machine.execScvtWord za lit w d tr s
  | .sregen zd za k => Sys2Proof.Machine.execSregen zd za k s
  | .sseed lit a => Sys2Proof.Machine.execSseed lit a s
  | .slen sub => Sys2Proof.Machine.execSlen sub s
  | .scls za d tr => Sys2Proof.Machine.execScls za d tr s
  -- commands of the engines and fixed-function units
  | .copyCmd e => Sys2Proof.Machine.execCopyCmd e s
  | .copy2d e => Sys2Proof.Machine.execCopy2d e s
  | .fill e => Sys2Proof.Machine.execFill e s
  | .convert e => Sys2Proof.Machine.execConvert e s
  | .decomp e => Sys2Proof.Machine.execDecomp e s
  | .notify => Sys2Proof.Machine.execNotify s
  | .run cluster => Sys2Proof.Machine.execRun cluster s
  | .runComplete cluster => Sys2Proof.Machine.execRunComplete cluster s
  | .rasterRecord tower k => Sys2Proof.Machine.execRasterRecord tower k s
  | .close tower k => Sys2Proof.Machine.execClose tower k s
  | .tileClosed pass tile => Sys2Proof.Machine.execTileClosed pass tile s
  | .classify cluster => Sys2Proof.Machine.execClassify cluster s
  | .tileRelease pass tile => Sys2Proof.Machine.execTileRelease pass tile s
  | .fragmentRecord tower => Sys2Proof.Machine.execFragmentRecord tower s
  | .advance tower => Sys2Proof.Machine.execAdvance tower s
  -- translation, traps, scheduling, power
  | .pageWalk u ctx va kind => Sys2Proof.Machine.execPageWalk u ctx va kind s
  | .trapEntry t => Sys2Proof.Machine.execTrapEntry t s
  | .placeWorkgroup launch ps => Sys2Proof.Machine.execPlaceWorkgroup launch ps s
  | .workgroupEvict group => Sys2Proof.Machine.execWorkgroupEvict group s
  | .workgroupResume group ps => Sys2Proof.Machine.execWorkgroupResume group ps s
  | .preemptDeadline group => Sys2Proof.Machine.execPreemptDeadline group s
  | .matrixSetRelease cluster => Sys2Proof.Machine.execMatrixSetRelease cluster s
  | .quantumEnd => Sys2Proof.Machine.execQuantumEnd s
  | .barometerWindow cluster => Sys2Proof.Machine.execBarometerWindow cluster s
  | .nearThresholdEntry cluster group => Sys2Proof.Machine.execNearThresholdEntry cluster group s
  | .nearThresholdExit cluster group => Sys2Proof.Machine.execNearThresholdExit cluster group s
  | .yieldExpiry warp => Sys2Proof.Machine.execYieldExpiry warp s
  | .icacheFill cluster ctx line => Sys2Proof.Machine.execIcacheFill cluster ctx line s
  | .leaseRefill cluster => Sys2Proof.Machine.execLeaseRefill cluster s
  | .leaseTick warp => Sys2Proof.Machine.execLeaseTick warp s
  | .stackThermalChange tower level => Sys2Proof.Machine.execStackThermalChange tower level s
  | .watchdogFire ctx => Sys2Proof.Machine.execWatchdogFire ctx s
  | .eccUncorrectable site => Sys2Proof.Machine.execEccUncorrectable site s
  | .contextStop ctx => Sys2Proof.Machine.execContextStop ctx s
  | .contextResume ctx => Sys2Proof.Machine.execContextResume ctx s
  -- packets and CONFIG items, by the queue that holds them
  | .launch ctx qi => Sys2Proof.Machine.execLaunch ctx qi s
  | .copyPacket ctx qi => Sys2Proof.Machine.execCopyPacket ctx qi s
  | .waitev ctx qi => Sys2Proof.Machine.execWaitev ctx qi s
  | .signal ctx qi => Sys2Proof.Machine.execSignal ctx qi s
  | .mapupdInval ctx qi => Sys2Proof.Machine.execMapupdInval ctx qi s
  | .mapupdInvalall ctx qi => Sys2Proof.Machine.execMapupdInvalall ctx qi s
  | .mapupdWrite ctx qi => Sys2Proof.Machine.execMapupdWrite ctx qi s
  | .mapupdMigrate ctx qi => Sys2Proof.Machine.execMapupdMigrate ctx qi s
  | .ctxnew ctx qi => Sys2Proof.Machine.execCtxnew ctx qi s
  | .ctxend ctx qi => Sys2Proof.Machine.execCtxend ctx qi s
  | .queue ctx qi => Sys2Proof.Machine.execQueue ctx qi s
  | .l2part ctx qi => Sys2Proof.Machine.execL2part ctx qi s
  | .ltab ctx qi => Sys2Proof.Machine.execLtab ctx qi s
  | .ntab ctx qi => Sys2Proof.Machine.execNtab ctx qi s
  | .areas ctx qi => Sys2Proof.Machine.execAreas ctx qi s
  | .trapctl ctx qi => Sys2Proof.Machine.execTrapctl ctx qi s
  | .power ctx qi => Sys2Proof.Machine.execPower ctx qi s
  | .weights ctx qi => Sys2Proof.Machine.execWeights ctx qi s
  | .sched ctx qi => Sys2Proof.Machine.execSched ctx qi s
  | .quote ctx qi => Sys2Proof.Machine.execQuote ctx qi s
  | .peer ctx qi => Sys2Proof.Machine.execPeer ctx qi s
  | .ctxstat ctx qi => Sys2Proof.Machine.execCtxstat ctx qi s
  | .packetReread ctx qi => Sys2Proof.Machine.execPacketReread ctx qi s
  -- the host link, firmware, peers, reset
  | .ack m => Sys2Proof.Machine.execAck m s
  | .write m => Sys2Proof.Machine.execWrite m s
  | .read m => Sys2Proof.Machine.execRead m s
  | .kick m => Sys2Proof.Machine.execKick m s
  | .complete m => Sys2Proof.Machine.execComplete m s
  | .sync m => Sys2Proof.Machine.execSync m s
  | .hostReadResponse m => Sys2Proof.Machine.execHostReadResponse m s
  | .ackTimer => Sys2Proof.Machine.execAckTimer s
  | .resendTimeout => Sys2Proof.Machine.execResendTimeout s
  | .hostWindowWrite m => Sys2Proof.Machine.execHostWindowWrite m s
  | .standbyImageBoot m => Sys2Proof.Machine.execStandbyImageBoot m s
  | .standbyTakeover failed => Sys2Proof.Machine.execStandbyTakeover failed s
  | .peerAccess warp data => Sys2Proof.Machine.execPeerAccess warp data s
  | .deviceReset => Sys2Proof.Machine.execDeviceReset s
  | .peerJoin p => Sys2Proof.Machine.execPeerJoin p s
  | .signedTestToken token => Sys2Proof.Machine.execSignedTestToken token s

end Sys2Proof.Machine
end

