-- ==== Sys2Proof/Machine/Issue.lean ====
section
/-! DEFINITION. Issuing: the fetch of an offset in every occupied plane, its decoding and comparisons (02 R17 to R21, R41, R42,
13 R320 to R326), the issue of each plane and the trap of an offset, and the waking of blocked warps. -/
namespace Sys2Proof.Machine

/-! Fetch. -/

/-- One occupied plane of an offset (13 R321): its number, its lanes of %exec, the address of word 0, and the words there. -/
structure Fetched where
  plane : Nat
  lanes : Mask
  pc    : Nat
  words : List W32
  deriving DecidableEq, Repr

/-- The lanes of %exec in a plane. -/
def Warp.inPlane (w : Warp) (p : Nat) : Mask := maskOf fun l => hasLane w.exec l && w.planeOf l == p

/-- The fetch address of an offset in a plane (13 R320). -/
def Warp.fetchAt (w : Warp) (p : Nat) : Nat := (w.code.base.toNat + p * w.code.pstride * 4096 + w.o.toNat) % 2 ^ 64

/-- The planes that hold a lane of %exec, ascending, or that of the lowest lane left (13 R321). -/
def Warp.occupied (w : Warp) : List Nat :=
  if w.exec = 0 then [w.planeOf (lowLane w.alive)]
  else (List.range 4).filter fun p => w.inPlane p != 0

/-- What is to be fetched: a sequencer's and a handler's code is one plane (09 R205, 15 R368). -/
def Warp.toFetch (w : Warp) : List Fetched :=
  if w.isSeq then [⟨0, 0, w.fetchAt 0, []⟩]
  else if w.handler then [⟨readPlane w, w.exec, (w.hbase.toNat + w.o.toNat) % 2 ^ 64, []⟩]
  else w.occupied.map fun p => ⟨p, w.inPlane p, w.fetchAt p, []⟩

/-- A fetch of bytes of one sector, at their home, where what the core itself has stored has come first (02 R20). -/
def fetchPiece (s : State) (va n : Nat) : State × Got (List Byte) :=
  match translate s s.walker s.ctx .fetch (va % 2 ^ 64) n with
  | (s, .error f) => (s, f.got)
  | (s, .ok x) =>
    if 3 ≤ region x.pa then
      match fetchRemote s s.w.id x.pa n with
      | (s, some bs) => (s, .ok bs)
      | (s, none) => (s, .wait)
    else
      let s := if s.w.isSeq then s else homeFirst s x.pa n
      if poisoned s s.ctx x.pa n then (s, .poison x.pa)
      else (touch s (accessCls s s.walker) x.pa n false, .ok (physRead s s.ctx x.pa n))

/-- A fetch of several pieces, in order. -/
def fetchPieces (s : State) : List (Nat × Nat) → List Byte → State × Got (List Byte)
  | [], acc => (s, .ok acc)
  | (va, n) :: rest, acc =>
    match fetchPiece s va n with
    | (s, .ok bs) => fetchPieces s rest (acc ++ bs)
    | r => r

/-- Little-endian words of bytes (02 R17). -/
def wordsOfBytes (bs : List Byte) : Nat → List W32
  | 0 => []
  | n + 1 => BitVec.ofNat 32 (leNat (bs.take 4)) :: wordsOfBytes (bs.drop 4) n

/-- The words of the instruction at an address: word 0 gives the length (02 R18, R19). -/
def fetchWords (s : State) (pc : Nat) : State × Got (List W32) :=
  match fetchPieces s (piecesOf pc 4) [] with
  | (s, .ok bs) =>
    let n := wordCount (leNat bs)
    if n = 1 then (s, .ok (wordsOfBytes bs 1))
    else
      match fetchPieces s (piecesOf (pc + 4) (4 * (n - 1))) bs with
      | (s, .ok bs) => (s, .ok (wordsOfBytes bs n))
      | (s, .fault f) => (s, .fault f)
      | (s, .poison pa) => (s, .poison pa)
      | (s, .wait) => (s, .wait)
  | (s, .fault f) => (s, .fault f)
  | (s, .poison pa) => (s, .poison pa)
  | (s, .wait) => (s, .wait)

/-- How a fetch ends: all planes fetched, or the first plane that cannot be. -/
inductive FetchEnd where
  | ok (s : State) (fs : List Fetched)
  | fault (s : State) (r : Fetched) (f : PFault)
  | poison (s : State) (r : Fetched) (pa : Nat)
  | wait (s : State)

/-- The fetch of every plane, ascending. -/
def fetchAll : List Fetched → State → List Fetched → FetchEnd
  | [], s, acc => .ok s acc.reverse
  | r :: rest, s, acc =>
    match fetchWords s r.pc with
    | (s, .ok ws) => fetchAll rest s ({ r with words := ws } :: acc)
    | (s, .fault f) => .fault s r f
    | (s, .poison pa) => .poison s r pa
    | (s, .wait) => .wait s

/-- The number of words that a faulting fetch has shown: one, unless word 0 was fetched (log 13). -/
def wordsSeen (s : State) (r : Fetched) (f : PFault) : Nat :=
  if f.va = r.pc then 1
  else
    match fetchPieces s (piecesOf r.pc 4) [] with
    | (_, .ok bs) => wordCount (leNat bs)
    | _ => 1

/-- The trap of a fetch fault: every lane of the faulting plane holds the address that faulted (03 R71, 15 R364). -/
def fetchTrap (s : State) (r : Fetched) (f : PFault) : Trap :=
  ⟨BitVec.ofNat 8 f.cause, BitVec.ofNat 64 r.pc, r.lanes, s.w.o, s.w.o + BitVec.ofNat 32 (4 * wordsSeen s r f), 0, 0,
    f.hq.map fun x => laneVals r.lanes fun _ => x⟩

/-- The 128-byte lines of code that a plane's instruction lies in. -/
def Fetched.codeLines (r : Fetched) : List Nat :=
  let a := r.pc / 128
  let b := (r.pc + 4 * r.words.length - 1) / 128
  if a = b then [a] else [a, b]

/-- Lines that the cluster's instruction cache misses (14 R350). -/
def missing (s : State) (fs : List Fetched) : List Nat :=
  (fs.flatMap Fetched.codeLines).filter fun l => !(getCluster s s.w.cluster).icache.contains (s.ctx, l)

/-- The warp frozen by a miss: one slip for each plane line that misses, once (14 R350). -/
def freeze (s : State) (ls : List Nat) : State :=
  s.modW fun w =>
    let new := ls.filter fun l => !w.slipped.contains l
    { w with slip := w.slip + BitVec.ofNat 32 new.length, slipped := new ++ w.slipped, frozen := ls.head? }

/-! Decoding and the comparisons of planes (02 R42, 13 R322). -/

/-- MAJ, MIN and U of word 0 (02 Table 02-1). -/
def majOf (w0 : Nat) : Nat := bitsAt w0 2 6
def minOf (w0 : Nat) : Nat := bitsAt w0 9 4
def uniOf (w0 : Nat) : Nat := bitsAt w0 8 1
def Fetched.w0 (r : Fetched) : Nat := (r.words.headD 0).toNat

/-- Whether an instruction acts once for the warp (13 R321): uniform and warp-scalar instructions, pure mask operations and FLOW. -/
def warpScalar (w0 : Nat) : Bool :=
  let n := minOf w0
  uniOf w0 == 1 ||
    match majOf w0 with
    | 0x00 => n != 6
    | 0x01 => true
    | 0x02 => (2 ≤ n && n ≤ 6) || n == 9
    | 0x12 => n == 2 || n == 3
    | 0x13 => true
    | 0x14 => 2 ≤ n
    | 0x15 => true
    | 0x16 => n != 0
    | 0x18 => n == 10 || n == 11
    | _ => false

/-- Whether an instruction executes once per offset: those, and the XLANE major, which does so over the lanes of every occupied
plane (08 R195). -/
def onceOnly (w0 : Nat) : Bool := warpScalar w0 || majOf w0 == 0x0C

/-- Whether an instruction pushes a queue entry (02 R38). -/
def pushes (i : Instr) : Bool :=
  match aluOf i, immOf i, atomOf i with
  | some x, _, _ =>
    !x.op.u && x.op.d != .discard &&
      ([4, 5, 8, 9, 10, 11, 12].contains x.maj || (x.maj == 2 && (x.mn == 1 || x.mn == 7 || x.mn == 8)))
  | _, some (mn, m), _ => !m.u && mn != 8
  | _, _, some (_, .base ..) => false
  | _, _, some (_, .ext _ _ _ d _ _ _ _) => d != .discard
  | none, none, none =>
    match i with
    | .ld _ | .lde _ | .lds _ | .ld64 _ => true
    | .ldt _ _ _ d _ => d != .discard
    | .lhq _ _ _ d _ => d != .discard
    | .tldv .. | .sample _ | .samplel .. | .sampleg .. | .imgld .. | .hitrd .. => true
    | .trace _ _ _ _ _ _ vd _ => vd.isSome
    | .scnt .. | .scvtVal .. | .scvtDraw .. | .scvtWord .. | .scls .. => true
    | _ => false

/-- FLOW, EXIT, YLDC, AWAIT, BAR, BARA and BARW, which every plane must hold word for word (13 R322). -/
def sameWords (w0 : Nat) : Bool :=
  let n := minOf w0
  match majOf w0 with
  | 0x00 => n == 1
  | 0x01 => true
  | 0x13 => n == 1
  | 0x16 => 2 ≤ n && n ≤ 5
  | _ => false

/-- SPAWN and SPAWNU. -/
def isSpawn (w0 : Nat) : Bool := majOf w0 == 0x16 && minOf w0 < 2

/-- A plane whose instruction does not stand beside that of the lowest plane (13 R322). -/
def mismatched (a b : Fetched × Instr) : Bool :=
  pushes a.2 != pushes b.2 ||
  ((sameWords a.1.w0 || sameWords b.1.w0) && a.1.words != b.1.words) ||
  ((isSpawn a.1.w0 || isSpawn b.1.w0) && !(majOf a.1.w0 == majOf b.1.w0 && minOf a.1.w0 == minOf b.1.w0))

/-- A trap of the offset that no plane issues. -/
def offsetTrap (s : State) (cause : Nat) (pc : Nat) (mask : Mask) (words : Nat) (hq : List (List W32)) : Trap :=
  ⟨BitVec.ofNat 8 cause, BitVec.ofNat 64 pc, mask, s.w.o, s.w.o + BitVec.ofNat 32 (4 * words), 0, 0, hq⟩

/-- PLANE_MISALIGNED for the planes that a test selects, if there are any (13 R322). -/
def planeTrap (s : State) (fs bad : List Fetched) : Option Trap :=
  match fs, bad with
  | a :: _, b :: _ =>
    some (offsetTrap s PLANE_MISALIGNED a.pc (bad.foldl (fun m r => m ||| r.lanes) 0) a.words.length [[BitVec.ofNat 32 b.plane]])
  | _, _ => none

/-- What fetches the warp's instructions (02 Table 02-10). -/
def Warp.fetcher (w : Warp) : Where := if w.isSeq then .sequencer else if w.handler then .handler else .warp

/-- The planes decoded, ascending; the lowest that does not decode gives the trap (02 R42). -/
def decodeAll (s : State) : List Fetched → List (Fetched × Instr) → Except Trap (List (Fetched × Instr))
  | [], acc => .ok acc.reverse
  | r :: rest, acc =>
    match decode s.w.fetcher r.words with
    | .ok i => decodeAll s rest ((r, i) :: acc)
    | .error e =>
      let cause := match e with
        | .illegalInstruction => ILLEGAL_INSTRUCTION
        | _ => ILLEGAL_ENCODING
      .error (offsetTrap s cause r.pc r.lanes r.words.length [])

/-- The instruction of every plane, or the trap of the offset, in the order of 02 R42. -/
def decoded (s : State) (fs : List Fetched) : Except Trap (List (Fetched × Instr)) :=
  match planeTrap s fs (fs.filter fun r => wordCount r.w0 != wordCount ((fs.headD ⟨0, 0, 0, []⟩).w0)) with
  | some t => .error t
  | none =>
    match decodeAll s fs [] with
    | .error t => .error t
    | .ok [] => .ok []
    | .ok (a :: rest) =>
      match planeTrap s fs ((rest.filter (mismatched a)).map (·.1)) with
      | some t => .error t
      | none => .ok (a :: rest)

/-! The issue of one instruction. -/

/-- A meaning's answer with its next state changed. -/
def mapNext (o : Out) (f : State → State) : Out :=
  match o with
  | .next s => .next (f s)
  | .fault r => .fault r
  | .refused r => .refused r

/-- The state in which a plane's instruction is executed. -/
def beginIssue (s : State) (r : Fetched) (all lanes : Mask) : State :=
  s.modW fun w =>
    { w with parked := false
             iss := { w.iss with lanes := lanes, all := all, plane := r.plane, pc := BitVec.ofNat 64 r.pc, words := r.words
                                 next := w.o + BitVec.ofNat 32 (4 * r.words.length), pushed := false, trapped := none, stalled := false } }

/-- A state with nothing of an offset's issue noted. -/
def idleIssue (s : State) : State := s.modW fun w => { w with iss := Issue.idle }

/-- The warp tries again in the next fabric cycle. -/
def tryLater (s : State) : State := s.modW fun w => { w with busy := s.clock + 1 }

/-- An issue that did not take place is undone (07 R162, R169): the wake condition stays, and what was asked of the host or a peer is
asked for. -/
def undo (s t : State) : State :=
  tryLater (keepAsked { s with w := { s.w with wake := t.w.wake, parked := t.w.parked } } t s.w.id)

/-- What an issue leaves once it has taken place: its charge, plane by plane MAJ and lanes, its pulse, and the warp's place in the
arbitration (14 R346, R351, R352, R359); its island has not passed this window blocked (R353). -/
def account (s t : State) (cost : List (Nat × Nat)) : State :=
  let t := modCluster (noteAwake t [{ s.w with parked := false }]) s.w.cluster fun k =>
    { k with charge := cost.foldl (fun n c => n + (tgetD k.weights c.1 16).toNat * c.2) k.charge }
  let t := pulse t s.ctx
  if t.w.kind = .none then t
  else
    (stampW t).modW fun w =>
      { w with heavy := decide (16 < (cost.getLast?.map (·.2)).getD 0), pipe := t.clock + 1, readyFor := 0, slipped := [] }

/-- Active lanes of a plane's issue (14 R351). -/
def issueLanes (w : Warp) (w0 : Nat) (m : Mask) : Nat := if w.isSeq || warpScalar w0 then 1 else popBits 128 m.toNat

/-- The end of an issue: poison stops its context; it is undone when it stalled, or when a younger instruction faults past a transfer
that is not done (15 R366); a trap that has the instruction executed again leaves no part of its effect (15 R364); else it is
accounted, and the pop check made (13 R325). -/
def settle (s t : State) (cost : List (Nat × Nat)) : State :=
  match t.w.iss.poison with
  | some (pa, pc) => poisonStop (tryLater s) s.ctx pa pc
  | none =>
    if t.w.iss.stalled then undo s t
    else if (t.w.iss.trapped.isSome || t.w.kind == .none) && !s.w.xfers.isEmpty then undo s s
    else
      match t.w.iss.trapped with
      | none => popAll (account s t cost)
      | some x =>
        if x.mode = 0 && !t.w.iss.kept then
          let u := takeTrap (s.modW fun w => { w with iss := { t.w.iss with trapped := none, many := false } }) x
          match u.w.iss.poison with
          | some (pa, pc) => poisonStop (tryLater s) s.ctx pa pc
          | none => account s u cost
        else account s t cost

/-- An instruction that executes once, or alone, from the lowest plane. -/
def issueOne (s : State) (r : Fetched) (i : Instr) (all : Mask) : Out :=
  let lanes := if onceOnly r.w0 then all else r.lanes
  let s := idleIssue s
  mapNext (exec i (beginIssue s r all lanes)) fun t => settle s t [(majOf r.w0, issueLanes s.w r.w0 lanes)]

/-! The issue of several planes (13 R321). -/

/-- The queue after a plane's issue: an entry that it pushed joins that of the planes before it (07 R155). -/
def joinQueue (q0 : List QEntry) (acc t : Warp) (m : Mask) : List QEntry :=
  match t.iss.pushed, acc.iss.pushed, t.queue.head?, acc.queue.head? with
  | false, _, _, _ => acc.queue
  | true, true, some e, some a => ⟨Vec.select m e.v a.v, a.tr && e.tr⟩ :: q0.take (q0.length - 1)
  | _, _, _, _ => t.queue

/-- The masks that the planes of an offset have written (08 R183). -/
def putMasks (w : Warp) : Warp := w.iss.masks.foldl (fun w p => w.setM p.1 p.2) w

/-- The planes before, joined with a plane that has issued. -/
def joinPlane (q0 : List QEntry) (acc t : State) (m : Mask) : State :=
  { t with w := putMasks { t.w with queue := joinQueue q0 acc.w t.w m, iss := { t.w.iss with pushed := acc.w.iss.pushed || t.w.iss.pushed } } }

/-- Precise traps that planes report together: the stream causes (10 R248), and ENGINE_ID (11 R283). -/
def reportedWith (a b : Trap) : Bool :=
  let stream (t : Trap) : Bool := t.cause == 0x20 || t.cause == 0x21
  (stream a && stream b) || (a.cause == 0x70 && b.cause == 0x70)

/-- What the planes of an offset have done: the state, the traps that have the instruction executed again, those of logged accesses,
and the first plane's state that stalled or met poison. -/
structure Planes where
  acc   : State
  hard  : List Trap
  soft  : List Trap
  stuck : Option State

/-- The planes of an offset executed in ascending order, each with its own lanes and sources as at the offset's issue (08 R172). -/
def runPlanes (s : State) (all : Mask) : List (Fetched × Instr) → Planes → Planes
  | [], p => p
  | (r, i) :: rest, p =>
    match exec i (beginIssue (p.acc.modW fun w => { w with queue := s.w.queue, o := s.w.o, s := s.w.s }) r all r.lanes) with
    | .next t =>
      if t.w.iss.stalled then runPlanes s all rest { p with stuck := p.stuck.orElse fun _ => some t }
      else
        match t.w.iss.trapped with
        | some x => runPlanes s all rest (if x.mode = 1 then { p with soft := p.soft ++ [x] } else { p with hard := p.hard ++ [x] })
        | none => runPlanes s all rest { p with acc := joinPlane s.w.queue p.acc t r.lanes }
    | _ => runPlanes s all rest p

/-- The planes of an offset issued from a state with no traps, stalls or accesses yet. -/
def startPlanes (s : State) (all : Mask) (hold : Bool) (is : List (Fetched × Instr)) : Planes :=
  runPlanes s all is ⟨s.modW fun w => { w with iss := { Issue.idle with many := true, hold := hold } }, [], [], none⟩

/-- An offset issued in several planes: a precise trap with nothing done, a wait with nothing done, a trap of logged accesses with every
access of the offset in the log and every other effect done (15 R367), or all of it done. -/
def issuePlanes (s : State) (all : Mask) (is : List (Fetched × Instr)) : Out :=
  let s := idleIssue s
  let cost := is.map fun x => (majOf x.1.w0, issueLanes s.w x.1.w0 x.1.lanes)
  let p := startPlanes s all false is
  match p.hard, p.stuck, p.soft with
  | t :: ts, _, _ => mapNext (exec (.trapEntry (mergeTraps t (ts.filter (reportedWith t)))) s) fun u => settle s u cost
  | [], some t, _ => .next (settle s t cost)
  | [], none, t :: ts =>
    let a := (startPlanes s all true is).acc
    mapNext (exec (.trapEntry (mergeTraps t ts)) (a.modW fun w => { w with log := [w.iss.reqs], iss := { w.iss with many := false } }))
      fun u => settle s u cost
  | [], none, [] => .next (settle s p.acc cost)

/-! The order of instructions in one warp (07 R162, 15 R365, 09 R206). -/

/-- Scalars that an instruction of the sequencer names, of those that may issue while some are pending. -/
def seqScalars (i : Instr) : Option (List (BitVec 6)) :=
  let src (a : Src) : List (BitVec 6) := match a with
    | .sca n => [n]
    | _ => []
  match i with
  | .mldb _ _ _ a | .mlda _ _ a | .mmul _ a | .mlutb _ a | .mlut _ _ a | .mzero _ a | .mwaitb _ a | .mwaitf _ a => some (src a)
  | .mdrain _ _ a d => some (src a ++ d.toList)
  | .mbatch d => some d.toList
  | .nop | .exit | .bra _ => some []
  | _ => none

/-- An arithmetic instruction that draws (10 R240). -/
def drawsHere (i : Instr) : Bool :=
  match aluOf i with
  | some x => rndDraws x.op.rnd
  | none => false

/-- A tile transfer that is yet to draw. -/
def Req.draws (r : Req) : Bool :=
  match r.op with
  | .tile _ _ _ _ rnd .. => rndDraws rnd
  | _ => false

/-- Whether an instruction may issue past what the warp has pending: while a tile transfer is unfinished only the arithmetic
majors and NOP, and none that draws past one that does (10 R240), and in a sequencer nothing that needs the destination of an MDRAIN. -/
def mayPass (w : Warp) (w0 : Nat) (i : Instr) : Bool :=
  (w.xfers.isEmpty || ((w0 == 0 || [2, 4, 5, 6, 7, 8, 9, 10, 11, 12].contains (majOf w0)) && !(drawsHere i && w.xfers.any Req.draws))) &&
  (w.scalars.isEmpty || match seqScalars i with
    | some ns => ns.all fun n => !w.scalars.contains n.toNat
    | none => false)

/-- A trap found before any plane issues. -/
def trapOffset (s : State) (t : Trap) : Out :=
  let s := idleIssue s
  mapNext (exec (.trapEntry t) s) fun u => settle s u []

/-- REG_RANGE of a stream register, which is found before any plane issues: the first plane that names one too high (10 R249). -/
def streamRange (s : State) (is : List (Fetched × Instr)) : Option Trap :=
  is.findSome? fun x => (zRange s.w (streamRegs x.2)).map fun z =>
    offsetTrap s REG_RANGE x.1.pc 1 x.1.words.length [[BitVec.ofNat 32 (0x100 + z)]]

/-- The decoded instructions of an offset issued. -/
def issueDecoded (s : State) (is : List (Fetched × Instr)) : Out :=
  match is with
  | [] => .next s
  | (r, i) :: rest =>
    let all := is.foldl (fun m x => m ||| x.1.lanes) 0
    if !is.all (fun x => mayPass s.w x.1.w0 x.2) then .next (undo s (s.modW fun w => { w with parked := !w.xfers.isEmpty }))
    else
      match if all = 0 then none else streamRange s is with
      | some t => trapOffset s t
      | none =>
        if rest.isEmpty || onceOnly r.w0 then issueOne s r i all
        -- what executes once per offset does so from the lowest plane alone
        else issuePlanes s all ((r, i) :: rest.filter fun x => !onceOnly x.1.w0)

/-- What precedes every issue: spilled entries come back, and the pops that are due are made, those of an EXIT among them (13 R324 to
R326). -/
def beforeIssue (s : State) : State × Got Unit :=
  match refill s with
  | (s, .ok ()) =>
    let s := if s.w.exiting then finishExit s else popAll s
    if s.w.owesEntry then
      match refill s with
      | (s, .ok ()) => (s, .wait)
      | r => r
    else (s, .ok ())
  | r => r

/-- The address and lanes of the present offset, for a fault that no instruction raises. -/
def atOffset (s : State) : State :=
  match s.w.toFetch with
  | r :: _ => beginIssue s r r.lanes r.lanes
  | [] => s

/-- The address of the present offset in its lowest plane. -/
def State.here (s : State) : W64 := BitVec.ofNat 64 ((s.w.toFetch.head?.map (·.pc)).getD 0)

/-- The warp in focus issues the instruction at its offset. -/
def issue (s : State) : Out :=
  match beforeIssue s with
  | (s, .fault f) => .next (settle (idleIssue s) (raiseP (atOffset (idleIssue s)) f) [])
  | (s, .poison pa) => .next (poisonStop (tryLater s) s.ctx pa s.here)
  | (s, .wait) => .next (tryLater s)
  | (s, .ok ()) =>
    if s.w.kind = .none then .next s
    else
      match fetchAll s.w.toFetch s [] with
      | .fault s r f => trapOffset s (fetchTrap s r f)
      | .poison s r pa => .next (poisonStop (tryLater s) s.ctx pa (BitVec.ofNat 64 r.pc))
      | .wait s => .next (tryLater s)
      | .ok s fs =>
        match missing s fs with
        | l :: ls => .next (freeze s (l :: ls))
        | [] =>
          match decoded s fs with
          | .error t => trapOffset s t
          | .ok is => issueDecoded s is

/-! Waking (12 R307, R308, 07 R166, 09 R226, 06 R152). -/

/-- Whether the condition that a warp waits for has come, of those that the warp itself looks at. -/
def wakeDue (s : State) (w : Warp) : Bool :=
  match w.wake with
  | .await m => awaitDone s w m
  | .barrier slot _ _ => !barArrived s w slot
  | .mwait b => batchDone s w b
  | .yldc eng k _ => outstanding w eng ≤ k
  | .claim n _ _ => (claimDue s w n).isSome
  | _ => false

/-- The warp in focus wakes when its condition has come; each of these edges advances the core's generation (12 Table 12-7). -/
def wakeTurn (s : State) : State :=
  match s.w.wake with
  | .await m => if awaitDone s s.w m then (genBump s s.core).modW fun w => { w with wake := .ready } else s
  | .barrier slot stage count => if barArrived s s.w slot then s else barGo s slot stage count
  | .mwait b => if batchDone s s.w b then (genBump s s.core).modW fun w => { w with wake := .ready } else s
  | .yldc eng k cont =>
    if outstanding s.w eng ≤ k then popAll ((jump (pulse (genBump s s.core) s.ctx) cont).modW fun w => { w with wake := .ready }) else s
  | .claim n sd _ =>
    match claimDue s s.w n with
    | some x => serveClaim s n sd x
    | none => s
  | _ => s

/-! A warp's turn (14 R346, R349, R350, R354, 15 R371, 09 R207). -/

/-- The workgroups bound to a cluster's matrix set have all been evicted: its sequencer stands still (09 R231). -/
def seqStopped (s : State) (cl : Nat) : Bool :=
  let mine (g : Group) : Bool := g.matrix && some g.ctx == (getCluster s cl).owner
  (s.groups.any fun p => mine p.2 && !p.2.resident && p.2.savedOn == some cl) &&
    !s.groups.any fun p => mine p.2 && p.2.resident && clusterOfCore p.2.core == cl

/-- A warp or sequencer that nothing but its own wake condition keeps from issuing. -/
def mayIssue (s : State) (w : Warp) : Bool :=
  w.live && w.home.resident && w.frozen.isNone && w.yieldLeft == 0 && (getTower s (towerOfCluster w.cluster)).thermal != 2 &&
  (!w.isSeq || (!w.halted && w.exited == 0 && !seqStopped s w.cluster)) &&
  match getCtx s w.home.ctx with
  | some c => c.running == .running
  | none => false

/-- The turn of a warp: it issues, or looks at what it waits for. -/
def warpTurn (k : Nat) (s : State) : Out :=
  let s := focus s k
  if !mayIssue s s.w then .next s
  else if s.w.wake = .ready then issue s
  else .next (wakeTurn s)

/-! The passing of time (14 R349, R353 to R355). -/

/-- Fifths of a core cycle that pass in an island in one fabric cycle: 0.8, 2.4, 3.2, 3.6 or 4.0 GHz beside 2.0. -/
def islandFifths (s : State) (cl g : Nat) : Nat :=
  if (island (getCluster s cl) g).near then 2
  else if (getTower s (towerOfCluster cl)).thermal != 0 then 6
  else if boostable s cl then 8 + (islandWarps s cl g).foldl (fun n w => max n (if w.lease.left = 0 then 0 else w.lease.level)) 0
  else 8

/-- A warp that is ready (14 R346): nothing keeps it from issuing, it waits for nothing, and neither its scoreboard nor a pipe holds it. -/
def ready (s : State) (w : Warp) : Bool :=
  mayIssue s w && w.wake == .ready && w.busy ≤ s.clock && w.pipe ≤ s.clock

/-- A warp after some fabric cycles: its running lease, its YIELD, and its floor-share count (14 R347). -/
def ageWarp (s : State) (n : Nat) (w : Warp) : Warp :=
  let fifths := n * islandFifths s w.cluster w.home.group
  { w with lease := if leaseRuns s w then { w.lease with ran := min (1024 * w.lease.rem) (w.lease.ran + n) } else w.lease
           yieldLeft := if w.yieldLeft = 0 then 0 else max 1 (w.yieldLeft - fifths)
           readyFor := if ready s w then w.readyFor + fifths else if (getTower s (towerOfCluster w.cluster)).thermal = 2 then w.readyFor else 0 }

/-- Fabric cycles pass; the islands with a warp that is not memory-blocked have been awake (14 R353). -/
def passTime (n : Nat) (s : State) : State :=
  let s := noteAwake s (allWarps s)
  { mapWarps s (ageWarp s n) with clock := s.clock + n }

/-! The pipes of a lane group (14 R346, R347, R352; log 70). -/

/-- The warps of the lane group of a core that a warp is in. -/
def groupMates (s : State) (w : Warp) : List Warp := (warpsIn s w.home.core w.home.group).filter fun x => !x.isSeq

/-- Those that hold one of its four pipes. -/
def inPipes (s : State) (w : Warp) : List Warp := (groupMates s w).filter fun x => s.clock < x.pipe

/-- A warp that has been ready for 192 core cycles of its lane group, which it counts in fifths (14 R346). -/
def Warp.overdue (w : Warp) : Bool := 5 * 192 ≤ w.readyFor

/-- A heavy warp that the hard throttle holds back: two of the lane group's pipes hold heavy warps (14 R352). -/
def throttled (s : State) (w : Warp) : Bool :=
  (getCluster s w.cluster).throttle && w.heavy && 2 ≤ ((inPipes s w).filter (·.heavy)).length && !w.overdue

/-- The first of two ready warps of a lane group (14 R346): the longer overdue; the higher priority; while the pairing rule is in force, a
sparse one where the other three pipes hold a heavy warp and else a heavy one (R352); the one that issued least recently; the lower slot. -/
def turnBefore (s : State) (a b : Warp) : Bool :=
  let waited (w : Warp) : Nat := if w.overdue then w.readyFor else 0
  let sparse : Bool := 3 ≤ ((inPipes s a).filter (·.heavy)).length
  let pair (w : Warp) : Nat := if (getCluster s w.cluster).pairing && w.heavy != sparse then 0 else 1
  let key (w : Warp) : List Nat := [8 - w.home.prio, pair w, w.stamp, w.home.slot]
  decide (waited b < waited a) || (waited a == waited b && decide (key a < key b))

/-- An idle pipe of a warp's lane group takes the warp (14 R346). -/
def mayTake (s : State) (w : Warp) : Bool :=
  ready s w && !throttled s w && (inPipes s w).length < 4 &&
    (groupMates s w).all fun x => x.id == w.id || !(ready s x && !throttled s x && turnBefore s x w)

/-- Fabric cycles that may pass before a warp has to issue: a ready one issues within 256 core cycles of its lane group (14 R347), and a
lease that runs ends with its remainder (R355). -/
def cyclesLeft (s : State) (w : Warp) : Nat → Nat := fun n =>
  let n := if ready s w && !w.isSeq then
      min n (if 4 ≤ (inPipes s w).length then 1 else (5 * 256 - w.readyFor) / islandFifths s w.cluster w.home.group) else n
  if leaseRuns s w then min n (1024 * w.lease.rem - w.lease.ran) else n

/-- The cycles of `n` that may pass at once. -/
def mayPassTime (s : State) (n : Nat) : Nat := (allWarps s).foldl (fun n w => cyclesLeft s w n) n

end Sys2Proof.Machine
end

