-- ==== Sys2Proof/Machine/Turns.lean ====
section
/-! DEFINITION. Whose turn it is. The manual leaves the order of agents to run time; the agenda in State gives it, and where the
agenda is empty the order of this file does: events that can happen, then ready warps by 14 R346, then time (log 2). -/
namespace Sys2Proof.Machine

/-! Events that may be possible: each meaning tests its own condition, and an event that changes nothing has not happened. -/

/-- An event, as what it does. -/
abbrev Event := State → Out

/-- An engine waits for bytes that the host or a peer owes. -/
def owed (s : State) (who : Nat) : Bool := s.remotes.any fun r => r.who == who && r.write.isNone && r.data.isNone

/-- The events of an engine that holds a command. -/
def engineEvents (s : State) (e : Engine) : List Event :=
  if owed s (engineKey e) then []
  else
    match e with
    | .raster t k => [execClose t k]
    | .classify c => [execClassify c]
    | .blend t => [execAdvance t]
    | .matrix c => [execRun c]
    | .host => [execNotify, execCopyCmd e]
    | _ => [execCopyCmd e, execCopy2d e, execFill e, execConvert e, execDecomp e]

/-- The events of the packets and CONFIG items of a queue. -/
def queueEvents (c q : Nat) : List Event :=
  [execPacketReread c q, execLaunch c q, execCopyPacket c q, execWaitev c q, execSignal c q, execMapupdInval c q, execMapupdInvalall c q, execMapupdWrite c q,
   execMapupdMigrate c q, execCtxnew c q, execCtxend c q, execQueue c q, execL2part c q, execLtab c q, execNtab c q, execAreas c q, execTrapctl c q, execPower c q,
   execWeights c q, execSched c q, execQuote c q, execPeer c q, execCtxstat c q]

/-- The events of a warp: what it waits for, its YIELD, its lease, the line of code it lacks. -/
def warpEvents (s : State) (w : Warp) : List Event :=
  (match w.wake with
    | .remote rs => if remoteReady (focus s w.id) rs then [execLoadReturn w.id] else []
    | .waitmem .. => if owed s w.id then [] else [execWaitmemRecheck w.id]
    | .channel _ => [execChannelDequeueWake w.id]
    | .claim .. => [execClaimWaitLimit w.id]
    | _ => []) ++
  (if w.xfers.isEmpty || owed s w.id then [] else [execTileTransferComplete w.id]) ++
  (if w.yieldLeft = 0 then [] else [execYieldExpiry w.id]) ++
  (if w.lease.rem = 0 then [] else [execLeaseTick w.id]) ++
  match w.frozen with
  | some line => [execIcacheFill w.cluster w.home.ctx line]
  | none => []

/-- The events of a cluster. -/
def clusterEvents (s : State) (c : Nat) (k : Cluster) : List Event :=
  let seq := [0, 1].map fun i => Engine.copy c (BitVec.ofNat 1 i)
  let engines := (seq ++ [Engine.classify c, .attr c, .traverse c, .matrix c]).filter fun e => !(engineQueue s e).isEmpty
  let places : List Place := (clusterCores c).flatMap fun j => (List.range 4).map fun g => ⟨j, [g]⟩
  let runs := match k.owner with
    | some x => engineRuns s x
    | none => false
  engines.flatMap (engineEvents s) ++ [execRunComplete c] ++
  (if k.ops.isEmpty || !runs then [] else [execMatrixOperationPerformed c]) ++ [execBatchComplete c] ++
  (if k.activity = 0 && k.lastAct = 0 then [] else [execIsobarWindow c]) ++
  [execBarometerWindow c, execLeaseRefill c, execMatrixSetRelease c] ++
  (List.range 4).flatMap (fun g => [execNearThresholdEntry c g, execNearThresholdExit c g]) ++
  (if owed s (binKey c) then [] else k.bins.flatMap fun b => places.flatMap fun p => [execBinLaunch c b.1 p, execBinTimerExpiry c b.1 p])

/-- The events of a tower. -/
def towerEvents (s : State) (t : Nat) (x : Tower) : List Event :=
  let rast := (List.range 4).map fun i => BitVec.ofNat 2 i
  (rast.filter fun k => !(tgetD x.raster k.toNat []).isEmpty && !owed s (engineKey (.raster t k))).map (fun k => execRasterRecord t k) ++
  (if x.frags.isEmpty || owed s (engineKey (.blend t)) then [] else [execFragmentRecord t]) ++
  ((Engine.dma t :: .blend t :: rast.map (Engine.raster t)).filter fun e => !(engineQueue s e).isEmpty).flatMap (engineEvents s)

/-- Launches with workgroups not yet placed, in the order in which the distributor takes them (14 R345). -/
def toPlace (s : State) : List (Nat × Launch) :=
  (s.launches.filter (unplaced s)).foldr
    (fun x acc => acc.takeWhile (fun y => decide (placeOrder s y < placeOrder s x)) ++ x :: acc.dropWhile (fun y => decide (placeOrder s y < placeOrder s x))) []

/-- The placing of launches and the resumption of evicted workgroups, cluster by cluster. -/
def placeEvents (s : State) : List Event :=
  ((toPlace s).flatMap fun (l : Nat × Launch) =>
    (List.range 160).flatMap fun c => (placesFor c (gangSize l.2) (roleWarps l.2).length).map fun ps => execPlaceWorkgroup l.1 ps) ++
  (s.groups.filter fun g => !g.2.resident).flatMap fun (g : Nat × Group) =>
    let old := (liveKeys s g.2).map fun k => ((getWarp s k).map (·.home.group)).getD 0
    (List.range 640).map fun core => execWorkgroupResume g.1 (List.replicate (gangOf s g.2).length ⟨core, old⟩)

/-- Everything that may be possible besides a warp's issue, but for what the outside world or a fault of the hardware brings:
messages, peers, tokens, resets, heat, soft errors, a host's resume, and steals. -/
def possibleEvents (s : State) : List Event :=
  [execAckTimer, execResendTimeout, execQuantumEnd] ++
  s.ctxs.flatMap (fun c => (if c.2.running == .stopping then [execContextStop c.1] else []) ++ [execWatchdogFire c.1]) ++
  (allWarps s).flatMap (warpEvents s) ++
  s.frames.flatMap (fun f => (maskLanes f.2.mask).map fun l => execThreadComplete f.1 l) ++
  s.clusters.flatMap (fun c => clusterEvents s c.1 c.2) ++
  s.towers.flatMap (fun t => towerEvents s t.1 t.2) ++
  ([Engine.host, .peer].filter fun e => !(engineQueue s e).isEmpty).flatMap (engineEvents s) ++
  s.passes.flatMap (fun p => p.2.tiles.flatMap fun t => [execTileClosed p.1 t.1, execTileRelease p.1 t.1]) ++
  s.groups.flatMap (fun g => [execWorkgroupEvict g.1, execPreemptDeadline g.1]) ++
  s.ctxs.flatMap (fun c => c.2.queues.flatMap fun q => queueEvents c.1 q.1) ++ placeEvents s

/-- Whether an event changes the state: which warp is in focus does not count. -/
def happens (s : State) (e : Event) : Bool :=
  match e s with
  | .next t => decide (focus t s.w.id ≠ s)
  | _ => true

/-! Whose turn it is. -/

/-- A warp or sequencer that can take a turn in this fabric cycle: what it waits for has come, or it issues (14 R346). -/
def canTurn (s : State) (w : Warp) : Bool :=
  if w.wake != .ready then mayIssue s w && wakeDue s w else if w.isSeq then ready s w else mayTake s w

/-- The warp that takes the next turn, if any can: of those that can, the one whose last turn is longest ago. -/
def nextWarp (s : State) : Option Nat :=
  ((allWarps s).filter (canTurn s)).foldl (fun (m : Option Warp) w => some (match m with
    | some x => if w.stamp < x.stamp then w else x
    | none => w)) none |>.map (·.id)

/-- The turn that the agenda does not give. Firmware that has not started starts. -/
def ownTurn (s : State) : Out :=
  if s.mgmt.state = .booting then execDeviceReset s
  else
    match (possibleEvents s).find? (happens s) with
    | some e => e s
    | none =>
      match nextWarp s with
      | some k => warpTurn k s
      | none => .next (passTime 1 s)

/-- A warp takes its turn where the order of its lane group lets it (14 R346); a sequencer has a pipe of its own, and what a warp waits for
it looks at in any turn. -/
def agendaWarp (k : Nat) (s : State) : Out :=
  match getWarp s k with
  | some w => if w.isSeq || w.wake != .ready || mayTake s w then warpTurn k s else .next s
  | none => warpTurn k s

/-- A line of a context leaves a core's L1, as it may at any time (05 R110). -/
def evictTurn (core ctx pa : Nat) (s : State) : State :=
  match (getCore s core).line? ctx pa with
  | some l => evictLine s core l
  | none => s

/-- The results that a warp's next instruction needs come in `n` fabric cycles (07 R162); until then the warp is not ready, and
memory-blocked (14 R353). -/
def busyTurn (k n : Nat) (s : State) : State := modWarp s k fun w => { w with busy := s.clock + n, parked := true }

/-- A turn of the agenda taken. An instruction that a warp executes is no event, and does not happen without its fetch. -/
def takeTurn (t : Turn) (s : State) : Out :=
  match t with
  | .warp k => agendaWarp k s
  | .event i => if (encode i).isSome then .next s else exec i s
  | .tick n => .next (passTime (mayPassTime s n) s)
  | .evict core ctx pa => .next (evictTurn core ctx pa s)
  | .busy k n => .next (busyTurn k n s)

/-! Placing an instruction where the next step fetches it. -/

/-- The words that hold bits numbered from bit 0 of the first word (02 R17). -/
def tableWords (nbits w : Nat) : List W32 := (List.range 5).map fun k => BitVec.ofNat 32 (w % 2 ^ nbits / 2 ^ (32 * k))

/-- Where the placed instruction stands: a page of region 0 at an equal virtual address. -/
def placedAt : Nat := 0x10000

/-- Who fetches the instruction: a cluster's sequencer an MTX instruction, a handler RTT, else a warp. -/
def placedWarp (w0 : Nat) : Warp :=
  let base := Warp.idle 160 (.group 1)
  let home : Home := ⟨1, 0, 0, 0, 0, 0, 0, 0, true⟩
  let code : Code := ⟨BitVec.ofNat 64 placedAt, 0, 0⟩
  let v := List.replicate 64 Vec.zero
  if majOf w0 = 0x15 then { Warp.idle 0 (.seq 0) with live := true, home := home, code := code }
  else if majOf w0 = 0 && minOf w0 = 4 then
    { base with live := true, home := home, code := code, v := v, exec := ~~~ 0, trapExec := ~~~ 0, handler := true
                hbase := BitVec.ofNat 64 placedAt, hqueue := List.replicate 8 ⟨Vec.zero, false⟩
                stack := [⟨~~~ 0, 4, 0, .trap, false, 0, 0, 0, 0x41, 0, 2⟩] }
  else { base with live := true, home := home, code := code, v := v, exec := ~~~ 0 }

/-- A context that runs, as CTXNEW creates it. -/
def placedCtx : Ctx := freshCtx 0 0

/-- A workgroup of one warp, with 4 KiB of scratchpad. -/
def placedGroup : Group := { freshGroup 1 0 0 true 8 4 1 with warps := [160], reserve := [(0, 64)], skib := List.range 4 }

end Sys2Proof.Machine
end

