-- ==== Sys2Proof/Machine/Step.lean ====
section
/-! DEFINITION. One step of the device: the next turn of the agenda, or the device's own order where the agenda is empty; and an
instruction placed where the next step fetches it (log 14). -/
namespace Sys2Proof.Machine

/-- One step. -/
def step (s : State) : Host.Outcome State Fault Refusal :=
  match s.agenda with
  | [] => ownTurn s
  | t :: rest => takeTurn t { s with agenda := rest }

/-- The state with an instruction's words in a page of code that a warp, a handler or a sequencer of a running context is about to
issue: its translation and its line of code are cached, it is overdue in its lane group (14 R346), and it has the next turn. -/
def State.withFetchWord (s : State) (nbits w : Nat) : State :=
  let w0 := w % 2 ^ nbits % 2 ^ 32
  let me := { placedWarp w0 with frame := 161, frameVA := BitVec.ofNat 64 (placedAt + 0x800), readyFor := 2 ^ 64 }
  let fetch : TlbEntry := ⟨1, placedAt, 4096, placedAt, 0x0000000000000CF, true⟩
  let core := getCore s 0
  { s with
    w := me
    warps := tdel (if s.w.kind = .none then s.warps else tput s.warps s.w.id s.w) me.id
    mem := mwriteN s.mem placedAt ((tableWords nbits w).flatMap fun x => leBytes 4 x.toNat)
    ctxs := tput s.ctxs 1 placedCtx
    groups := tput s.groups 1 placedGroup
    frames := tput s.frames 161 (freshFrame 1 [] none [] (~~~ 0))
    cores := tput s.cores 0 { core with tlbs := { core.tlbs with first := tput core.tlbs.first 0 [fetch] } }
    clusters := tput s.clusters 0 { getCluster s 0 with owner := some 1, icache := (1, placedAt / 128) :: (getCluster s 0).icache }
    poison := s.poison.filter (· != placedAt / 32)
    agenda := .warp me.id :: s.agenda }

end Sys2Proof.Machine
end

