-- ==== Sys2Proof/Safety.lean ====
section
/-! DEFINITION. What claims say of runs: the invariants of the state that every step keeps, what an instruction leaves unchanged,
and the rules of the manual written a second time, in the terms of its tables, for claims to hold the meanings against. -/
namespace Sys2Proof.Machine

/-- Keys of a table strictly rising from `lo`. -/
def tabWf {α : Type} : Nat → Tab α → Bool
  | _, [] => true
  | lo, (k, _) :: t => decide (lo ≤ k) && tabWf (k + 1) t

/-- The bytes of memory are in their one canonical form. -/
def State.memOk (s : State) : Prop := s.mem.wf = true

/-! Operands and results of the arithmetic majors. -/

/-- A source in lane `l`, as `n` bits. -/
def srcBits (n : Nat) (s : State) (ty : Ty) (lit : Option W64) (x : Src) (l : Nat) : BitVec n :=
  BitVec.ofNat n (s.w.opnd ty (n == 64) lit l x)

/-- The state as what executes once for an offset sees it: %plane is the plane that executes (02 Table 02-5, 13 R321). -/
def asOnce (s : State) : State := s.modW fun w => { w with planes := List.replicate 128 (BitVec.ofNat 2 w.iss.plane) }

/-- A source of an instruction that executes once, as `n` bits. -/
def onceBits (n : Nat) (s : State) (ty : Ty) (lit : Option W64) (x : Src) : BitVec n := srcBits n (asOnce s) ty lit x 0

/-- The vector with the value of a function in each lane that issues, and zero elsewhere. -/
def overLanes (s : State) (f : Nat → W32) : Vec := Vec.ofFn fun l => if hasLane s.lanes l then f l else 0

/-- A 64-bit value in a scalar destination; discarded, it goes nowhere (02 R36). -/
def putScalar (s : State) (d : Dst) (x : W64) : State :=
  match d with
  | .sca n => setS s n.toNat x
  | _ => s

/-- A 32-bit value in a scalar: sign-extended for i32, else zero-extended (08 R173). -/
def widen (ty : Ty) (x : W32) : W64 := if ty = .i32 then x.signExtend 64 else x.zeroExtend 64

/-- The sources of an arithmetic instruction, one register each. -/
def sources (o : Op) : List (Src × Nat) := [(o.a, 1), (o.b, 1), (o.c, 1)]

/-- Bits read in their type. -/
def asInt (sgn : Bool) {n : Nat} (x : BitVec n) : Int := if sgn then x.toInt else (x.toNat : Int)

/-- An exact integer clamped into a type of `n` bits (02 R37). -/
def satInt (sgn : Bool) (n : Nat) (i : Int) : BitVec n :=
  BitVec.ofInt n (max (if sgn then -2 ^ (n - 1) else 0) (min (if sgn then 2 ^ (n - 1) - 1 else 2 ^ n - 1) i))

/-- An operation of INTA or INTB at width `n`, on bits. -/
abbrev BitFn := Op → (n : Nat) → BitVec n → BitVec n → BitVec n → BitVec n

/-- An instruction of INTA or INTB does an operation over lanes, at 32 bits, and once on scalars, at 32 or 64 (08 R172, R173). -/
def bitForms (mk : Op → Instr) (f : BitFn) : Prop :=
  (∀ o s s1, WellFormed (mk o) → o.u = false → prep s (sources o) [(o.d, 1)] = .go s1 →
    exec (mk o) s = .next (advance (putResult s1 o.d o.tr [overLanes s1 fun l =>
      f o 32 (srcBits 32 s1 o.ty o.lit o.a l) (srcBits 32 s1 o.ty o.lit o.b l) (srcBits 32 s1 o.ty o.lit o.c l)]))) ∧
  (∀ o s, WellFormed (mk o) → o.u = true →
    let at_ (n : Nat) : BitVec n := f o n (onceBits n s o.ty o.lit o.a) (onceBits n s o.ty o.lit o.b) (onceBits n s o.ty o.lit o.c)
    exec (mk o) s = .next (advance (putScalar s o.d (if tyWide o.ty then at_ 64 else widen o.ty (at_ 32)))))

/-- INTA but for the pairs (08 Table 08-2, R177). -/
def intaRules : List ((Op → Instr) × BitFn) :=
  [ (.iadd, fun o n a b _ => if o.sat then satInt (tySigned o.ty) n (asInt (tySigned o.ty) a + asInt (tySigned o.ty) b) else a + b),
    (.isub, fun o n a b _ => if o.sat then satInt (tySigned o.ty) n (asInt (tySigned o.ty) a - asInt (tySigned o.ty) b) else a - b),
    (.imul, fun _ _ a b _ => a * b),
    (.imulh, fun o n a b _ =>
      if tySigned o.ty then (a.signExtend (n + n) * b.signExtend (n + n)).extractLsb' n n
      else (a.zeroExtend (n + n) * b.zeroExtend (n + n)).extractLsb' n n),
    (.imad, fun o n a b c =>
      if o.sat then satInt (tySigned o.ty) n (asInt (tySigned o.ty) a * asInt (tySigned o.ty) b + asInt (tySigned o.ty) c)
      else a * b + c),
    (.imin, fun o _ a b _ => if (if tySigned o.ty then a.sle b else a.ule b) then a else b),
    (.imax, fun o _ a b _ => if (if tySigned o.ty then a.sle b else a.ule b) then b else a),
    (.iabs, fun o n a _ _ => if o.sat then satInt true n a.toInt.natAbs else a.abs),
    (.ineg, fun o n a _ _ => if o.sat then satInt (tySigned o.ty) n (-asInt (tySigned o.ty) a) else -a),
    (.iadds, fun o n a b _ => satInt (tySigned o.ty) n (asInt (tySigned o.ty) a + asInt (tySigned o.ty) b)),
    (.isubs, fun o n a b _ => satInt (tySigned o.ty) n (asInt (tySigned o.ty) a - asInt (tySigned o.ty) b)),
    (.idiv, fun o n a b _ => if b = 0 then BitVec.allOnes n else if tySigned o.ty then a.sdiv b else a.udiv b),
    (.irem, fun o _ a b _ => if b = 0 then a else if tySigned o.ty then a.srem b else a.umod b) ]

/-- The `w` bits of `a` from bit `off` up, extended to the whole width. -/
def fieldOf (sgn : Bool) {n : Nat} (a : BitVec n) (off w : Nat) : BitVec n :=
  let up := (a >>> off) <<< (n - w)
  if sgn then up.sshiftRight (n - w) else up >>> (n - w)

/-- INTB (08 Table 08-3, R179, R180): shift amounts are taken modulo the width; a field's offset and width are clamped. -/
def intbRules : List ((Op → Instr) × BitFn) :=
  [ (.and, fun _ _ a b _ => a &&& b),
    (.or, fun _ _ a b _ => a ||| b),
    (.xor, fun _ _ a b _ => a ^^^ b),
    (.andn, fun _ _ a b _ => a &&& ~~~ b),
    (.not, fun _ _ a _ _ => ~~~ a),
    (.shl, fun _ n a b _ => a <<< (b.toNat % n)),
    (.shr, fun _ n a b _ => a >>> (b.toNat % n)),
    (.sra, fun _ n a b _ => a.sshiftRight (b.toNat % n)),
    (.rot, fun _ n a b _ => a.rotateLeft (b.toNat % n)),
    (.bfe, fun o n a b c =>
      let off := min (b.toNat % 256) n
      fieldOf (tySigned o.ty) a off (min (c.toNat % 256) (n - off))),
    (.bfi, fun _ n a b c =>
      let off := min (c.toNat % 256) n
      let w := min (c.toNat / 256 % 256) (n - off)
      let m : BitVec n := ((1#n <<< w) - 1#n) <<< off
      (a &&& ~~~ m) ||| ((b <<< off) &&& m)),
    (.popc, fun _ n a _ _ => BitVec.ofNat n ((List.range n).filter fun i => a.getLsbD i).length),
    (.clz, fun _ n a _ _ => BitVec.ofNat n ((List.range n).takeWhile fun i => !a.getMsbD i).length),
    (.brev, fun _ _ a _ _ => a.reverse),
    (.sel, fun _ _ a b c => if c = 0 then b else a),
    (.mov, fun _ _ a _ _ => a) ]

/-- LEA, IADD64 and ISUB64 (08 R178): whether OPB is a pair, and the 64-bit result. -/
def pairRules : List ((Op → Instr) × Bool × (Op → W64 → W64 → W64)) :=
  [ (.lea, false, fun o a b => a + b <<< o.mod.toNat),
    (.iadd64, true, fun _ a b => a + b),
    (.isub64, true, fun _ a b => a - b) ]

/-- A pair operand of a vector instruction: a register pair, or a literal, of which only a base form's supplies all 64 bits (08 R178,
log 100); a uniform instruction reads 64 bits. -/
def pairBits (s : State) (o : Op) (x : Src) (l : Nat) : W64 :=
  if x = .lit ∧ o.ext = true ∧ o.u = false then (srcBits 32 s .n32 o.lit x l).zeroExtend 64 else srcBits 64 s .n64 o.lit x l

/-- The second operand of a pair instruction: a pair, or 32 bits zero-extended (08 R178). -/
def pairSecond (wide : Bool) (s : State) (o : Op) (l : Nat) : W64 :=
  if wide then pairBits s o o.b l else (srcBits 32 s .n32 o.lit o.b l).zeroExtend 64

/-- INTI but for ICMPI (08 Table 08-4, R181), at width `n`: the immediate is sign-extended, a shift amount is read unsigned. -/
def immRules : List ((Imm → Instr) × (Imm → (n : Nat) → BitVec n → BitVec n)) :=
  [ (.iaddi, fun i n a => a + i.imm.signExtend n),
    (.andi, fun i n a => a &&& i.imm.signExtend n),
    (.ori, fun i n a => a ||| i.imm.signExtend n),
    (.xori, fun i n a => a ^^^ i.imm.signExtend n),
    (.shli, fun i n a => a <<< (i.imm.toNat % n)),
    (.shri, fun i n a => a >>> (i.imm.toNat % n)),
    (.srai, fun i n a => a.sshiftRight (i.imm.toNat % n)),
    (.movi, fun i n _ => i.imm.signExtend n) ]

/-- The integer conditions (08 Table 08-5). -/
def intHolds (sgn : Bool) (mod : Nat) {n : Nat} (a b : BitVec n) : Bool :=
  let lt (x y : BitVec n) := if sgn then x.slt y else x.ult y
  match mod with
  | 0 => a == b
  | 1 => a != b
  | 2 => lt a b
  | 3 => !lt b a
  | 4 => lt b a
  | _ => !lt a b

/-- The conditions of ICMPI: 6 and 7 compare unsigned (08 Table 08-5). -/
def immHolds (mod : Nat) {n : Nat} (a b : BitVec n) : Bool :=
  match mod with
  | 6 => a.ult b
  | 7 => !a.ult b
  | m => intHolds true m a b

/-- A mask of lanes from a test of each issuing lane. -/
def testLanes (s : State) (p : Nat → Bool) : Mask := maskOf fun l => hasLane s.lanes l && p l

/-- What a compare writes: a mask, or 0 or 1 in a scalar (08 R183). -/
def putTest (s : State) (o : Op) (p : Nat → Bool) : State :=
  match o.d with
  | .msk k => writeMask s k.toNat (testLanes s p)
  | .sca n => setS s n.toNat (if p 0 then 1 else 0)
  | _ => s

/-! Floats. -/

/-- A NaN encoding of f32, and a signalling one (04 R78, R80). -/
def isNan32 (x : W32) : Bool := (0x7F800000#32).ult (x &&& 0x7FFFFFFF)
def isSig32 (x : W32) : Bool := isNan32 x && !x.getLsbD 22

/-- A subnormal encoding read under FTZ is a zero of its sign (04 R81). -/
def flush32 (ftz : Bool) (x : W32) : W32 := if ftz && (x &&& 0x7F800000) == 0 then x &&& 0x80000000 else x

/-- The place of an encoding that is no NaN in the order of its values. -/
def place32 (x : W32) : Int := if x.getLsbD 31 then -((x &&& 0x7FFFFFFF).toNat : Int) else (x.toNat : Int)

/-- ABS, then NEG, on a source of a float instruction: `i` is 0 for OPA, 1 for OPB, 2 for OPC (02 R34). -/
def signed32 (o : Op) (i : Nat) (x : W32) : W32 :=
  let y := if o.abs.getLsbD i then x &&& 0x7FFFFFFF else x
  if o.neg.getLsbD i then y ^^^ 0x80000000 else y

/-- A float source in a lane, after its sign operations. -/
def fltBits (s : State) (o : Op) (i : Nat) (x : Src) (l : Nat) : W32 := signed32 o i (srcBits 32 s .f32 o.lit x l)

/-- The float conditions (08 Table 08-5, R182): the result, and whether IV is raised. -/
def fltHolds (quiet : Bool) (mod : Nat) (a b : W32) : Bool × Bool :=
  let uno := isNan32 a || isNan32 b
  let ordered := 2 ≤ mod ∧ mod ≤ 5
  let r : Bool := match mod with
    | 6 => !uno
    | 7 => uno
    | _ => if uno then quiet else
      match mod with
      | 0 => decide (place32 a = place32 b)
      | 1 => decide (place32 a ≠ place32 b)
      | 2 => decide (place32 a < place32 b)
      | 3 => decide (place32 a ≤ place32 b)
      | 4 => decide (place32 b < place32 a)
      | _ => decide (place32 b ≤ place32 a)
  (r, isSig32 a || isSig32 b || (!quiet && decide ordered && uno))

/-- A float instruction or another of one result in 32 bits: the types of its sources, and its value and flags, given FTZ, the
rounding mode and the three sources. -/
structure LaneRule where
  op : Op → Instr
  ta : Op → Ty
  tb : Op → Ty
  tc : Op → Ty
  f  : Bool → Op → RMode → W32 → W32 → W32 → W32 × Flags

/-- A rule whose sources all have the operand type. -/
def sameTy (mk : Op → Instr) (f : Bool → Op → RMode → W32 → W32 → W32 → W32 × Flags) : LaneRule := ⟨mk, (·.ty), (·.ty), (·.ty), f⟩

/-- The value and flags of one lane. -/
def LaneRule.at (r : LaneRule) (s : State) (o : Op) (l : Nat) : W32 × Flags :=
  r.f s.w.fp.ftz o (s.w.mode o.rnd l) (srcBits 32 s (r.ta o) o.lit o.a l) (srcBits 32 s (r.tb o) o.lit o.b l) (srcBits 32 s (r.tc o) o.lit o.c l)

/-- Flags of the lanes that issue, joined. -/
def flagsOver (s : State) (f : Nat → Flags) : Flags :=
  (List.range 128).foldl (fun acc l => acc ||| if hasLane s.lanes l then f l else 0) 0

/-- The vector form of such an instruction: once its operands pass the checks, every lane that issues gets its value, the flags
of all of them are joined into %fpflags, and a mode that draws advances DRAW (08 R172, 04 R102, 10 R240). -/
def LaneRule.vectorForm (r : LaneRule) : Prop :=
  ∀ o s s1, WellFormed (r.op o) → o.u = false → prep s (sources o) [(o.d, 1)] = .go s1 →
    exec (r.op o) s = .next (advance (drawIf (raiseFlags (putResult s1 o.d o.tr [overLanes s1 fun l => (r.at s1 o l).1])
      (flagsOver s1 fun l => (r.at s1 o l).2)) o.rnd (s1.lanes != 0)))

/-- The uniform form: once, on scalars (08 R173). -/
def LaneRule.uniformForm (r : LaneRule) : Prop :=
  ∀ o s, WellFormed (r.op o) → o.u = true →
    exec (r.op o) s = .next (advance (drawIf (raiseFlags (putScalar s o.d (widen o.ty (r.at (asOnce s) o 0).1)) (r.at (asOnce s) o 0).2) o.rnd true))

/-- A value and flags computed on numbers, as bits. -/
def asBits (r : Nat × Flags) : W32 × Flags := (BitVec.ofNat 32 r.1, r.2)

/-- minimumNumber and maximumNumber (08 R186): a number beats a NaN, −0 stands below +0. -/
def minMax32 (max ftz : Bool) (a b : W32) : W32 × Flags :=
  let x := flush32 ftz a
  let y := flush32 ftz b
  let below := place32 x < place32 y ∨ (place32 x = place32 y ∧ x.getLsbD 31 = true)
  (if isNan32 a then (if isNan32 b then 0x7FC00000 else y) else if isNan32 b then x
   else if decide below != max then x else y, flag (isSig32 a || isSig32 b) flIV)

/-- A magnitude under a sign; a NaN is the canonical one (08 R186). -/
def copySign32 (a : W32) (neg : Bool) : W32 × Flags :=
  (if isNan32 a then 0x7FC00000 else (a &&& 0x7FFFFFFF) ||| if neg then 0x80000000 else 0, 0)

/-- The class of an encoding (08 R186). -/
def class32 (a : W32) : W32 :=
  let neg := a.getLsbD 31
  let mag := a &&& 0x7FFFFFFF
  if isNan32 a then (if isSig32 a then 0x100 else 0x200)
  else if mag = 0x7F800000 then (if neg then 0x001 else 0x080)
  else if mag = 0 then (if neg then 0x008 else 0x010)
  else if mag.ult 0x00800000 then (if neg then 0x004 else 0x020)
  else if neg then 0x002 else 0x040

/-- A float instruction: its sources take their sign operations first (02 R34, 08 R185). -/
def fltRule (mk : Op → Instr) (f : Bool → RMode → W32 → W32 → W32 → W32 × Flags) : LaneRule :=
  sameTy mk fun ftz o md a b c => f ftz md (signed32 o 0 a) (signed32 o 1 b) (signed32 o 2 c)

/-- An elementary function: rounded once with rne (08 R187). -/
def elemRule (mk : Op → Instr) (g : Fv → Fv × Flags) : LaneRule :=
  fltRule mk fun ftz _ a _ _ => asBits (roundOut f32 .rne ftz (g (f32.readIn ftz a.toNat)))

/-- FLTA and FLTB (08 Tables 08-6, 08-7): sums, products and quotients are those of the values, rounded once. -/
def fltRules : List LaneRule :=
  [ fltRule .fadd fun ftz md a b _ => asBits (fmtAdd f32 ftz md a.toNat b.toNat),
    fltRule .fsub fun ftz md a b _ => asBits (fmtAdd f32 ftz md a.toNat (b ^^^ 0x80000000).toNat),
    fltRule .fmul fun ftz md a b _ => asBits (fmtMul f32 ftz md a.toNat b.toNat),
    fltRule .ffma fun ftz md a b c => asBits (fmtFma f32 ftz md a.toNat b.toNat c.toNat),
    fltRule .fmin fun ftz _ a b _ => minMax32 false ftz a b,
    fltRule .fmax fun ftz _ a b _ => minMax32 true ftz a b,
    fltRule .fabs fun _ _ a _ _ => copySign32 a false,
    fltRule .fneg fun _ _ a _ _ => copySign32 a (!a.getLsbD 31),
    fltRule .frnd fun ftz md a _ _ => asBits (roundIntegral ftz md a.toNat),
    fltRule .ffrac fun ftz md a _ _ => asBits (fraction ftz md a.toNat),
    { fltRule .fldexp (fun _ _ a _ _ => (a, 0)) with
      tb := fun _ => .i32, f := fun ftz o md a b _ => asBits (scaleExp ftz md (signed32 o 0 a).toNat b.toNat) },
    fltRule .fclass fun _ _ a _ _ => (class32 a, 0),
    fltRule .fcopysign fun _ _ a b _ => copySign32 a (b.getLsbD 31),
    fltRule .fdiv fun ftz md a b _ => asBits (roundOut f32 md ftz (fvDiv (f32.readIn ftz a.toNat) (f32.readIn ftz b.toNat))),
    fltRule .fsqrt fun ftz md a _ _ => asBits (roundOut f32 md ftz (fvSqrt (f32.readIn ftz a.toNat))),
    elemRule .frcp fvRcp, elemRule .frsq fvRsq, elemRule .fexp2 fvExp2, elemRule .flog2 fvLog2,
    elemRule .fsinp fvSinp, elemRule .fcosp fvCosp, elemRule .ftanh fvTanh, elemRule .fsigm fvSigm ]

/-! Packed and converted elements. -/

/-- The 16-bit element at a position, and two elements joined. -/
def half16 (x : W32) (i : Nat) : BitVec 16 := x.extractLsb' (16 * i) 16
def join16 (hi lo : BitVec 16) : W32 := hi ++ lo

/-- An integer operation on both elements of a lane (08 Table 08-8). -/
def pairRule (mk : Op → Instr) (g : Bool → BitVec 16 → BitVec 16 → BitVec 16) : LaneRule :=
  sameTy mk fun _ o _ a b _ =>
    (join16 (g (tySigned o.ty) (half16 a 1) (half16 b 1)) (g (tySigned o.ty) (half16 a 0) (half16 b 0)), 0)

/-- A source element of a float format, after its sign operations. -/
def signedHalf (o : Op) (k : Nat) (x : W32) (i : Nat) : BitVec 16 :=
  let y := if o.abs.getLsbD k then half16 x i &&& 0x7FFF else half16 x i
  if o.neg.getLsbD k then y ^^^ 0x8000 else y

/-- A float operation on both elements of a lane; the flags are joined (08 Table 08-8). -/
def pairFltRule (mk : Op → Instr) (g : Bool → RMode → Nat → Nat → Nat → Nat × Flags) : LaneRule :=
  sameTy mk fun ftz o md a b c =>
    let r (i : Nat) := g ftz md (signedHalf o 0 a i).toNat (signedHalf o 1 b i).toNat (signedHalf o 2 c i).toNat
    (join16 (BitVec.ofNat 16 (r 1).1) (BitVec.ofNat 16 (r 0).1), (r 0).2 ||| (r 1).2)

/-- Nibble `i` of a lane as a signed integer. -/
def nibble (x : W32) (i : Nat) : Int := (x.extractLsb' (4 * i) 4).toInt

/-- The PKD minors (08 Table 08-8, R189). -/
def pkdRules : List LaneRule :=
  [ pairFltRule .hadd2 fun ftz md a b _ => fmtAdd f16 ftz md a b,
    pairFltRule .hmul2 fun ftz md a b _ => fmtMul f16 ftz md a b,
    pairFltRule .hfma2 fun ftz md a b c => fmtFma f16 ftz md a b c,
    pairFltRule .badd2 fun ftz md a b _ => fmtAdd bf16 ftz md a b,
    pairFltRule .bmul2 fun ftz md a b _ => fmtMul bf16 ftz md a b,
    pairFltRule .bfma2 fun ftz md a b c => fmtFma bf16 ftz md a b c,
    pairRule .padd16 fun _ a b => a + b,
    pairRule .psub16 fun _ a b => a - b,
    pairRule .pmin16 fun sg a b => if (if sg then a.sle b else a.ule b) then a else b,
    pairRule .pmax16 fun sg a b => if (if sg then a.sle b else a.ule b) then b else a,
    pairRule .padds16 fun sg a b => satInt sg 16 (asInt sg a + asInt sg b),
    { sameTy .pdot4t8 (fun ftz _ md a b c => asBits (dotT8 ftz md a.toNat b.toNat c.toNat)) with tc := fun _ => .f32 },
    { sameTy .pdot8i4 (fun _ o _ a b c =>
        let t := ((List.range 8).map fun i => nibble a i * nibble b i).sum + c.toInt
        (if o.sat then satInt true 32 t else BitVec.ofInt 32 t, 0)) with tc := fun _ => .i32 },
    sameTy .pshf fun _ _ _ a b _ =>
      let pick (i : Nat) : BitVec 8 := if b.getLsbD (8 * i + 7) then 0 else a.extractLsb' (8 * (b.extractLsb' (8 * i) 2).toNat) 8
      (pick 3 ++ pick 2 ++ pick 1 ++ pick 0, 0) ]

/-- CVT to and from types of 32 bits or fewer (08 R191), CVTSR (R192), PACK (R193) and UNPACK (R194), given STYP and SEL. -/
def cvtRules (sty : Ty) (sel : BitVec 3) : List LaneRule :=
  let typed (mk : Op → Instr) (tb : Ty) (f : Bool → Op → RMode → W32 → W32 → W32 × Flags) : LaneRule :=
    ⟨mk, fun _ => sty, fun _ => tb, fun _ => sty, fun ftz o md a b _ => f ftz o md a b⟩
  [ typed (fun o => .cvt o sty sel) sty fun ftz o md a _ => asBits (convert ftz md sty o.ty (element o sty sel.toNat a.toNat)),
    typed (fun o => .cvtsr o sty sel) .n32 fun ftz o _ a b =>
      asBits (convert ftz (.sr (b.extractLsb' 0 16).toNat) sty o.ty (element o sty sel.toNat a.toNat)),
    typed (fun o => .pack o sty sel) .n32 fun ftz o md a b =>
      let r := convert ftz md sty o.ty (element o sty 0 a.toNat)
      let at_ := tyWidth o.ty * sel.toNat
      let m : W32 := BitVec.ofNat 32 (2 ^ tyWidth o.ty - 1) <<< at_
      ((b &&& ~~~ m) ||| (BitVec.ofNat 32 r.1 <<< at_ &&& m), r.2),
    sameTy (fun o => .unpack o sel) fun _ o _ a _ _ =>
      let x := a >>> (tyWidth o.ty * sel.toNat)
      (match o.ty with
        | .i16 => (x.setWidth 16).signExtend 32
        | .n16 => (x.setWidth 16).zeroExtend 32
        | .i8 => (x.setWidth 8).signExtend 32
        | .n8 => (x.setWidth 8).zeroExtend 32
        | .i4 => (x.setWidth 4).signExtend 32
        | .f16 => BitVec.ofNat 32 (f32.round .rne false (f16.read (x.setWidth 16).toNat)).1
        | .bf16 => BitVec.ofNat 32 (f32.round .rne false (bf16.read (x.setWidth 16).toNat)).1
        | .t8 => BitVec.ofNat 32 (f32.round .rne false (readTapered 8 (x.setWidth 8).toNat)).1
        | _ => BitVec.ofNat 32 (f32.round .rne false (readTapered 6 (x.setWidth 6).toNat)).1, 0) ]

/-! Across lanes (08 R195 to R197, 11 R271). -/

/-- The value and flags that a cross-lane instruction gives lane `l`, from the sources of all lanes. -/
abbrev CrossFn := State → Op → (Nat → W32) → (Nat → W32) → Nat → W32 × Flags

/-- One combination of REDU and SCAN (08 R197). -/
def combine32 (ty : Ty) (mod : Nat) (ftz : Bool) (a b : W32) : W32 × Flags :=
  let sg := ty == .i32
  match mod with
  | 0 => if ty = .f32 then asBits (fmtAdd f32 ftz .rne a.toNat b.toNat) else (a + b, 0)
  | 1 => if ty = .f32 then minMax32 false ftz a b else (if (if sg then a.sle b else a.ule b) then a else b, 0)
  | 2 => if ty = .f32 then minMax32 true ftz a b else (if (if sg then a.sle b else a.ule b) then b else a, 0)
  | 3 => (a &&& b, 0)
  | 4 => (a ||| b, 0)
  | _ => (a ^^^ b, 0)

/-- Values combined one after another, the first entering unchanged; the flags of every combination are joined. -/
def combineAll (ty : Ty) (mod : Nat) (ftz : Bool) : List W32 → W32 × Flags
  | [] => (0, 0)
  | x :: xs => xs.foldl (fun acc y => let r := combine32 ty mod ftz acc.1 y; (r.1, acc.2 ||| r.2)) (x, 0)

/-- The identities of an exclusive scan (08 R197). -/
def scanIdentity (ty : Ty) (mod : Nat) : W32 :=
  match mod with
  | 1 => if ty = .f32 then 0x7F800000 else if ty = .i32 then 0x7FFFFFFF else 0xFFFFFFFF
  | 2 => if ty = .f32 then 0xFF800000 else if ty = .i32 then 0x80000000 else 0
  | 3 => 0xFFFFFFFF
  | _ => 0

/-- The values of the active lanes that a test selects, in ascending order, after ABS and NEG of a float. -/
def activeValues (s : State) (o : Op) (a : Nat → W32) (p : Nat → Bool) : List W32 :=
  ((maskLanes s.lanes).filter p).map fun j => if o.ty = .f32 then signed32 o 0 (a j) else a j

/-- A difference of two lanes of a quad (11 R271). -/
def quadSub (s : State) (o : Op) (a : Nat → W32) (hi lo : Nat) : W32 × Flags :=
  asBits (fmtSub f32 s.w.fp.ftz .rne (signed32 o 0 (a hi)).toNat (signed32 o 0 (a lo)).toNat)

/-- SHFL, VOTE, REDU, BCAST, QDX, QDY and QSWP (08 Table 08-11, 11 R271). -/
def crossRules : List ((Op → Instr) × CrossFn) :=
  [ (.shfl, fun _ o a b l =>
      let j : Int := match o.mod.toNat with
        | 0 => (b l).toNat % 128
        | 1 => l - (b l).toNat
        | 2 => l + (b l).toNat
        | _ => ((BitVec.ofNat 7 l) ^^^ (b l).setWidth 7).toNat
      (if 0 ≤ j ∧ j < 128 then a j.toNat else a l, 0)),
    (.vote, fun s o a _ l =>
      let act := maskLanes s.lanes
      match o.mod.toNat with
      | 0 => (if act.all (fun j => a j != 0) then 1 else 0, 0)
      | 1 => (if act.any (fun j => a j != 0) then 1 else 0, 0)
      | 2 => (if act.all (fun i => act.all fun j => a i == a j) then 1 else 0, 0)
      | _ => ((testLanes s fun j => a j != 0).extractLsb' (32 * (l % 4)) 32, 0)),
    (.redu, fun s o a _ _ => combineAll o.ty o.mod.toNat s.w.fp.ftz (activeValues s o a fun _ => true)),
    (.bcast, fun s o a b _ =>
      let act := maskLanes s.lanes
      (match o.mod.toNat with
        | 0 => a (act.headD 0)
        | 1 => a (act.getLastD 0)
        | _ => a ((b (act.headD 0)).toNat % 128), 0)),
    (.qdx, fun s o a _ l =>
      let q := l - l % 4
      if o.mod = 0 ∧ 2 ≤ l % 4 then quadSub s o a (q + 3) (q + 2) else quadSub s o a (q + 1) q),
    (.qdy, fun s o a _ l =>
      let q := l - l % 4
      if o.mod = 0 ∧ l % 2 = 1 then quadSub s o a (q + 3) (q + 1) else quadSub s o a (q + 2) q),
    (.qswp, fun _ o a _ l => (a (l ^^^ (o.mod.toNat + 1)), 0)) ]

/-- SCAN (08 R197): the combination over the active lanes up to `l`, or below it. -/
def scanFn (excl : Bool) : CrossFn := fun s o a _ l =>
  let vs := activeValues s o a fun j => if excl then decide (j < l) else decide (j ≤ l)
  if vs = [] then (scanIdentity o.ty o.mod.toNat, 0) else combineAll o.ty o.mod.toNat s.w.fp.ftz vs

/-- What a cross-lane instruction does: its sources are read as they stand in all 128 lanes, the lanes that issue get their
values, and the flags are joined. -/
def crossForm (mk : Op → Instr) (f : CrossFn) : Prop :=
  ∀ o s s1, WellFormed (mk o) → prep s [(o.a, 1), (o.b, 1)] [(o.d, 1)] = .go s1 →
    exec (mk o) s = .next (advance
      (let r := f s1 o (srcBits 32 s1 o.ty o.lit o.a) (srcBits 32 s1 o.ty o.lit o.b)
       raiseFlags (putResult s1 o.d o.tr [overLanes s1 fun l => (r l).1]) (flagsOver s1 fun l => (r l).2)))

/-! Masks (08 R198, R199). -/

/-- A mask operand. -/
def maskSrc (s : State) (x : Src) : Mask :=
  match x with
  | .msk k => s.w.mreg k.toNat
  | _ => 0

/-- The pure mask operations (08 Table 08-12). -/
def maskRules : List ((Op → Instr) × (Mask → Mask → Mask)) :=
  [ (.mand, fun a b => a &&& b), (.mor, fun a b => a ||| b), (.mxor, fun a b => a ^^^ b), (.mandn, fun a b => a &&& ~~~ b),
    (.mnot, fun a _ => ~~~ a) ]

/-- The operations that deliver a mask to lanes (08 Table 08-12). -/
def maskToLaneRules : List ((Op → Instr) × (Mask → Nat → W32)) :=
  [ (.mget, fun m l => if m.getLsbD l then 1 else 0),
    (.mpop, fun m _ => BitVec.ofNat 32 ((List.range 128).filter fun l => m.getLsbD l).length),
    (.mfirst, fun m _ => BitVec.ofNat 32 ((List.range 128).takeWhile fun l => !m.getLsbD l).length) ]

/-! What stays as it was. -/

/-- The warp in focus maps no channel and no port of one is mapped to it. -/
def noChannels (s : State) : Prop := s.w.ports = [] ∧ ∀ n, consumerChan s n = none ∧ hiddenReg s n = false

/-- Nothing outside the warp in focus changed. -/
def onlyWarp (s t : State) : Prop := t = { s with w := t.w }

/-- A register of a warp that holds a slot of a channel of the workgroup in focus (07 R168). -/
def holdsSlot (s : State) (w : Warp) (n : Nat) : Prop :=
  ∃ g, s.group = some g ∧ ∃ c ∈ g.chans, c.2.consumer = some w.home.index ∧ c.2.port ≤ n ∧ n < c.2.port + c.2.depth

/-- Every warp stands under its own key, and no channel of the workgroup in focus has depth zero. -/
def channelsOk (s : State) : Prop :=
  (∀ p ∈ s.warps, p.2.id = p.1) ∧ ∀ g, s.group = some g → ∀ c ∈ g.chans, 0 < c.2.depth

/-- Nothing outside the warp in focus changed but the channels of its workgroup, and in the warps that consume from them the registers
that hold slots; every byte of memory reads as before. -/
def onlyWarpAndChannels (s t : State) : Prop :=
  t = { s with w := t.w, groups := t.groups, warps := t.warps } ∧ (∀ a, mread t.mem a = mread s.mem a) ∧
  (s.w.ports = [] → t.warps = s.warps) ∧
  (channelsOk s → ∀ k w, k ≠ s.w.id → getWarp s k = some w →
    ∃ w', getWarp t k = some w' ∧ w' = { w with v := w'.v } ∧ ∀ n, ¬ holdsSlot s w n → w'.vreg n = w.vreg n)

/-- The warp whose registers hold the slots of a channel of the workgroup in focus (07 R168). -/
def slotHolder (s : State) (ch : Channel) : Option Warp := s.group.bind fun g => ch.consumer.bind (warpOfIndex s g)

/-- The registers that a slot names. -/
def slotRegs : Slot → Nat
  | .pair => 2
  | _ => 1

/-- The operands of an arithmetic instruction with the registers that each names (08 R178). -/
def aluSources (x : Alu) : List (Src × Nat) :=
  match sigOf x.maj x.mn x.op.mod.toNat with
  | some g => [(x.op.a, slotRegs g.a), (x.op.b, slotRegs g.b), (x.op.c, slotRegs g.c)]
  | none => []
def aluDests (x : Alu) : List (Dst × Nat) :=
  match sigOf x.maj x.mn x.op.mod.toNat with
  | some g => [(x.op.d, if g.d = .pair then 2 else 1)]
  | none => []

/-- The scalars that a destination names. -/
def dstScalars : Dst → List Nat
  | .sca n => [n.toNat]
  | .msk k => [2 * k.toNat, 2 * k.toNat + 1]
  | _ => []

/-- What an instruction that delivers to registers leaves of the warp in focus: every register but those of its destinations, and the
slots of channels that it fills itself; the masks, the planes, the stack, the special registers but %fpflags and the draw index, and
what it waits for. -/
def registersKept (s t : State) (vecs scalars : List Nat) : Prop :=
  let w := s.w
  let w' := t.w
  w' = { w with queue := w'.queue, hqueue := w'.hqueue, v := w'.v, s := w'.s, fp := { w.fp with flags := w'.fp.flags },
                seed := { w.seed with draw := w'.seed.draw }, o := w'.o, iss := w'.iss } ∧
  (∀ n, n ∉ vecs → w.ports = [] ∨ channelsOk s ∧ ¬ holdsSlot s w n → w'.vreg n = w.vreg n) ∧ w'.v.length = w.v.length ∧ (∀ n, n ∉ scalars → w'.sreg n = w.sreg n) ∧
  w.fp.flags &&& w'.fp.flags = w.fp.flags

/-! Control flow and traps. -/

/-- The target of a branch (02 R27). -/
def branchTo (s : State) (off : BitVec 19) : W32 := s.w.o + 4 * off.signExtend 32

/-- A stack entry that is no TRAP entry holds no cause, and a TRAP entry no loop (13 Table 13-1, 15 Table 15-2). -/
def SEntry.canonical (e : SEntry) : Prop :=
  if e.kind = .trap then e.inc = false ∧ e.sb = 0 ∧ e.sc = 0 ∧ e.count = 0 else e.cause = 0 ∧ e.log = 0 ∧ e.mode = 0

/-- A handler's queue at its beginning (15 R363): eight entries, the values that the cause states and zero elsewhere. -/
def startsHandlerQueue (q : List QEntry) (hq : List (List W32)) : Prop :=
  q.length = 8 ∧ ∀ k < 8, ((q.getD k ⟨Vec.zero, true⟩).tr = false) ∧
    ∀ l < 128, (q.getD k ⟨Vec.zero, true⟩).v.lane l = (hq.getD k []).getD l 0

/-- The TRAP entry of a trap (15 R363, Table 15-2). -/
def trapEntry (s : State) (t : Trap) : SEntry := ⟨s.w.exec, t.rpc, t.resume, .trap, false, 0, 0, 0, t.cause, t.log, t.mode⟩

/-- A warp that can enter a handler of its context at `h` without spilling. -/
def handlerReady (s : State) (h : W64) : Prop :=
  s.w.isSeq = false ∧ s.w.handler = false ∧ s.w.stack.length < 16 ∧ h ≠ 0 ∧ ∃ c, getCtx s s.ctx = some c ∧ c.trap.handler = h

/-- A translation or a stack cause, after which RTT does more (15 R374). -/
def plainCause (c : BitVec 8) : Prop := c ≠ 0x10 ∧ c ≠ 0x11 ∧ c ≠ 0x12 ∧ c ≠ 0x31 ∧ c ≠ 0x32

/-- Nothing is popped where the warp stands (13 R325). -/
def noPop (w : Warp) (o : W32) : Prop := ∀ e ∈ w.stack.head?, e.kind = .trap ∨ o ≠ e.rpc

/-- The units that a lease still has, a part of one counting as one (14 Table 14-3). -/
def unitsLeft (l : Lease) : Nat := (1024 * l.rem - l.ran + 1023) / 1024

/-- The special registers of 64 bits or fewer that do not depend on lanes, with their values (07 Table 07-1). -/
def specialReads : List (BitVec 5 × (State → W64)) :=
  [ (2, fun s => s.w.role.zeroExtend 64),
    (5, fun s => BitVec.ofNat 64 (s.w.home.index % 16 + 16 * (s.w.home.slot % 64))),
    (6, fun s => BitVec.ofNat 64 s.w.coreNo),
    (7, fun s => BitVec.ofNat 64 s.w.cluster),
    (8, fun s => BitVec.ofNat 64 (s.w.cluster / 20)),
    (9, fun s => s.w.fp.flags.zeroExtend 64),
    (10, fun s => s.w.fp.rm.zeroExtend 64 ||| (if s.w.fp.ftz then 8 else 0)),
    (11, fun s => BitVec.ofNat 64 s.w.slen),
    (12, fun s => s.w.seed.draw ++ s.w.seed.ibase ++ s.w.seed.b ++ s.w.seed.a),
    (13, fun s => s.w.trapcause.zeroExtend 64),
    (14, fun s => s.w.trapaddr),
    (16, fun s => s.w.link),
    (17, fun s => s.w.frameVA),
    (18, fun s => if (getCluster s s.w.cluster).owner = some s.ctx then (getCluster s s.w.cluster).batch.zeroExtend 64 else 0),
    (19, fun s => if (getCluster s s.w.cluster).owner = some s.ctx then (getCluster s s.w.cluster).feed.zeroExtend 64 else 0),
    (20, fun s => (getCore s s.w.coreNo).gen.zeroExtend 64),
    (21, fun s => BitVec.ofNat 64 s.clock),
    (22, fun s => s.w.slip.zeroExtend 64),
    (23, fun s => let left := unitsLeft s.w.lease
      if left = 0 then 0 else BitVec.ofNat 64 (left % 2048 + 2048 * (s.w.lease.level % 4) + 8192 * (if s.w.lease.paused then 1 else 0))) ]

/-- A write of a special register of 64 bits or fewer by a warp (07 R165, 04 Table 04-9): what each changes. -/
def specialWrites : List (BitVec 5 × (Warp → W64 → Warp)) :=
  [ (9, fun w x => { w with fp := { w.fp with flags := x.extractLsb' 0 5 } }),
    (10, fun w x => { w with fp := { w.fp with ftz := x.getLsbD 3, rm := if x.extractLsb' 0 3 < 5 then x.extractLsb' 0 3 else w.fp.rm } }),
    (16, fun w x => { w with link := x }),
    (22, fun w x => { w with slip := x.extractLsb' 0 32 }) ]

/-- The lowest lane of a mask. -/
def isLowest (m : Mask) (l : Nat) : Prop := m.getLsbD l = true ∧ ∀ i < l, m.getLsbD i = false

/-! Memory accesses (chapter 06). -/

/-- The copy of a line that the core of the warp in focus holds for the warp's context. -/
def lineHeld (s : State) (a : Nat) : Option Line := (getCore s s.core).line? s.ctx (a / 128 * 128)

/-- A byte of a held line that is clean and as it was fetched in this generation (05 R111). -/
def cleanByte (s : State) (l : Line) (i : Nat) : Prop :=
  l.dirty.getLsbD i = false ∧ l.gen = (getCore s s.core).gen ∧ l.valid.getLsbD i = true

/-- A byte of regions 0 to 2 as the warp in focus reads it: its own pending non-temporal byte (06 R131), else its core's dirty or
valid byte of a line that it holds (05 R110, R111), else the byte at its home; a sequencer reads at the home (12 Table 12-7, log 8). -/
def seen (s : State) (a : Nat) : Byte :=
  if s.w.isSeq then physByte s s.ctx a
  else
    match s.w.ntst.find? fun q => q.1.toNat == a with
    | some q => q.2
    | none =>
      if 2 ≤ region a then physByte s s.ctx a
      else
        match lineHeld s a with
        | some l =>
          if l.dirty.getLsbD (a % 128) ∨ (l.gen = (getCore s s.core).gen ∧ l.valid.getLsbD (a % 128)) then l.bytes.getD (a % 128) 0
          else mread s.mem a
        | none => mread s.mem a

/-- A byte of regions 0 and 1 as its home has it once the core's own dirty byte has gone there (06 R134, R136). -/
def atHome (s : State) (a : Nat) : Byte :=
  match lineHeld s a with
  | some l => if l.dirty.getLsbD (a % 128) then l.bytes.getD (a % 128) 0 else mread s.mem a
  | none => mread s.mem a

/-- The clean bytes that the core holds of the line of an address are what the home has: no other agent has written there since. -/
def inStep (s : State) (a : Nat) : Prop :=
  ∀ l, lineHeld s a = some l → ∀ i < 128, cleanByte s l i → l.bytes.getD i 0 = mread s.mem (a / 128 * 128 + i)

/-- The L1 of the warp's core has room for so many more lines, so that none has to leave (05 R109, R110). -/
def roomFor (s : State) (n : Nat) : Prop := (getCore s s.core).lines.length + n ≤ l1Lines s s.core

/-- Only caches, translation caches and the messages and requests for remote bytes differ, and every byte reads as before. -/
def onlyCaches (s t : State) : Prop :=
  t = { s with cores := t.cores, towers := t.towers, link := t.link, remotes := t.remotes } ∧ ∀ a, seen t a = seen s a

/-- The core holds at most one copy of each line of the warp's context. -/
def oneCopy (s : State) (pa : Nat) : Prop :=
  ((getCore s s.core).lines.filter fun l => l.ctx == s.ctx && l.pa == pa / 128 * 128).length ≤ 1

/-- What a logged instruction notes (15 R365): its operation, lanes, place and destination, and the channel slots that it reserves. -/
def reqOf (s : State) (op : MemOp) (d : Dst) (pushes tr : Bool) : Req :=
  mkReq (noted s op d pushes tr).1 op d pushes (noted s op d pushes tr).2

/-- A logged instruction as its access begins: the entry that it pushes stands zero, its slots are reserved, and it is in the log. -/
def asNoted (s : State) (op : MemOp) (d : Dst) (pushes tr : Bool) : State :=
  (noted s op d pushes tr).1.modW fun w => { w with iss := { w.iss with reqs := w.iss.reqs ++ [reqOf s op d pushes tr] } }

/-- The logged accesses of the present issue are performed with it: they are not held for an issue of several planes (15 R367). -/
def performs (s : State) : Prop := s.w.iss.hold = false

/-- A trap of the present issue is taken at once: the offset does not issue in several planes, whose traps are joined (03 R70). -/
def alone (s : State) : Prop := s.w.iss.many = false

/-- The address of lane `l` of a vector access: a base and a scaled register, or a register pair (06 R120). -/
def laneAddr (s : State) (lit : Option W64) (adr : Src) (base : BitVec 4) (scale l : Nat) : W64 :=
  s.w.sreg base.toNat + (srcBits 32 s .n32 none adr l).zeroExtend 64 * BitVec.ofNat 64 scale + lit.getD 0
def pairAddr (s : State) (lit : Option W64) (adr : Src) (l : Nat) : W64 := srcBits 64 s .n64 none adr l + lit.getD 0

/-- The checks of the lanes of an access of `n` bytes each, in ascending order (06 R121, R123). -/
def laneChecks (k : Access) (n : Nat) (va : List W64) (lanes : Mask) (s : State) :
    State × List (Nat × Xlat) × List (Nat × LFault) :=
  checkLanes (fun s l => checkAligned k n (va.getD l 0).toNat s) (maskLanes lanes) s [] []

/-- The vector loads (06 Table 06-1): registers that an address names, and the address. -/
def loadRules : List ((Load → Instr) × Nat × (State → Load → Nat → W64)) :=
  [ (.ld, 1, fun s m l => laneAddr s m.lit m.adr m.base (sizeBytes m.size) l),
    (.ld64, 2, fun s m l => pairAddr s m.lit m.adr l) ]

/-- The vector stores: registers that an address names, the address, and whether it is non-temporal. -/
def storeRules : List ((Store → Instr) × Nat × Bool × (State → Store → Nat → W64)) :=
  [ (.st, 1, false, fun s m l => laneAddr s m.lit m.adr m.base (sizeBytes m.size) l),
    (.st64, 2, false, fun s m l => pairAddr s m.lit m.adr l),
    (.ntst, 1, true, fun s m l => laneAddr s m.lit m.adr m.base (sizeBytes m.size) l) ]

/-- A list of writes over one byte: the last that holds it. -/
def lastWrite (ws : List (Nat × List Byte)) (a : Nat) (old : Byte) : Byte :=
  ws.foldl (fun b w => if w.1 ≤ a ∧ a < w.1 + w.2.length then w.2.getD (a - w.1) 0 else b) old

/-- The data of a store in lane `l`: of 1, 2 or 4 bytes the low bytes of its source, else its registers, the lowest first (06 R125). -/
def storeBytes (s : State) (m : Store) (l : Nat) : List Byte :=
  match m.src with
  | .vec n => (List.range (sizeBytes m.size)).map fun i => ((s.w.srcV (n.toNat + i / 4)).lane l).extractLsb' (8 * (i % 4)) 8
  | x => (List.range (sizeBytes m.size)).map fun i => (srcBits 32 s .b32 none x l).extractLsb' (8 * i) 8

/-- Atomics (06 Table 06-3): the operation and the new value, from the old one, the operand and the compare value. -/
abbrev AtomFn := (n : Nat) → Bool → BitVec n → BitVec n → BitVec n → BitVec n
def atomicRules : List ((Atom → Instr) × AOp × AtomFn) :=
  [ (.aadd, .add, fun _ _ old d _ => old + d),
    (.amin, .min, fun _ sg old d _ => if (if sg then old.sle d else old.ule d) then old else d),
    (.amax, .max, fun _ sg old d _ => if (if sg then old.sle d else old.ule d) then d else old),
    (.aand, .and, fun _ _ old d _ => old &&& d), (.aor, .or, fun _ _ old d _ => old ||| d), (.axor, .xor, fun _ _ old d _ => old ^^^ d),
    (.axch, .xch, fun _ _ _ d _ => d), (.acas, .cas, fun _ _ old d c => if old = c then d else old),
    (.afadd, .fadd, fun n _ old d _ => BitVec.ofNat n (fmtAdd f32 false .rne old.toNat d.toNat).1),
    (.ainc, .inc, fun _ _ old d _ => if d.ule old then 0 else old + 1) ]

/-- What an atomic's access is: its size, sign, operands, ordering and what it delivers to (06 R135). -/
structure AtomParts where
  n    : Nat
  adr  : Src
  lit  : Option W64
  sb   : BitVec 4
  sgn  : Bool
  ord  : BitVec 2
  srcs : List (Src × Nat)
  dst  : Dst
  tr   : Bool
  d    : State → Nat → Nat
  c    : State → Nat → Nat

def atomParts : Atom → AtomParts
  | .base lit adr src double sb ord =>
    let n := if double then 8 else 4
    ⟨n, adr, lit, sb, true, ord, [(adr, 1), (src, n / 4)], .discard, false, fun s => dataOf s.w src (n / 4), fun _ _ => 0⟩
  | .ext a b c d ty sb ord tr =>
    let n := if tyWide ty then 8 else 4
    let val (x : Src) (s : State) (l : Nat) : Nat := s.w.opnd ty (tyWide ty) none l x
    ⟨n, a, none, sb, ty = .i32 ∨ ty = .i64, ord, [(a, 1), (b, n / 4), (c, n / 4)], d, tr, val b, val c⟩

/-- The access that an atomic notes. -/
def AtomParts.op (x : AtomParts) (k : AOp) (s : State) : MemOp :=
  .atomic k (perLane (laneAddr s x.lit x.adr x.sb x.n)) x.n x.sgn (perLane (x.d s)) (perLane (x.c s)) x.ord (x.dst != .discard)

/-- A source of all lanes. -/
def srcList (s : State) (ty : Ty) (lit : Option W64) (x : Src) : List W32 := (List.range 128).map (srcBits 32 s ty lit x)

/-- The lanes that write: helper lanes write nothing (11 R268). -/
def writers (s : State) : Mask := s.lanes &&& ~~~ s.w.helpers

/-- 04 Table 04-5 (R88): the width of an element, the elements of a plain sector and of a scaled first sector, and the first bit of
the latter. -/
def sectorTable : Nat → Nat × Nat × Nat × Nat
  | 1 => (8, 32, 31, 8) | 5 => (8, 32, 31, 8) | 2 => (6, 42, 41, 8) | 6 => (4, 64, 62, 8) | 3 => (16, 16, 15, 16) | 4 => (16, 16, 15, 16)
  | _ => (32, 8, 8, 0)

/-- 04 R88: the sectors of a block. -/
def sectorsOf : Nat → Nat
  | 0 => 1 | 1 => 1 | 2 => 2 | _ => 4

/-- 04 R89: the sector of element `e`, counted in sectors from B0, its lowest bit there, and the sector of its scale. -/
def located (fmt geom e : Nat) : Nat × Nat × Nat :=
  let (w, n0, n1, first) := sectorTable fmt
  let S := sectorsOf geom
  if geom = 0 then (e / n0, w * (e % n0), e / n0)
  else
    let nb := n1 + (S - 1) * n0
    let n := e % nb
    if n < n1 then (S * (e / nb), first + w * n, S * (e / nb))
    else (S * (e / nb) + 1 + (n - n1) / n0, w * ((n - n1) % n0), S * (e / nb))

/-- The formats and geometries that an element path can use (04 R87, R93, 03 R58). -/
def elementPages : List (Nat × Nat) :=
  [(1, 0), (2, 0), (3, 0), (4, 0), (5, 0), (6, 0), (7, 0)] ++
    [1, 2, 3, 4, 5, 6].flatMap fun f => [1, 2, 3].map fun g => (f, g)

/-- What the trap of an access says (06 R123, 03 R70): the cause of the lowest faulting lane, the faulting lanes, and their values in
handler q1 to q3; the access stays in the log, to be issued again. -/
def trapOfAccess (s : State) (bad : List (Nat × LFault)) (t : Trap) : Prop :=
  (∀ p ∈ bad.head?, t.cause = BitVec.ofNat 8 p.2.cause) ∧ t.addr = s.w.iss.pc ∧ t.resume = s.w.o ∧ t.rpc = s.w.iss.next ∧
  t.mode = 1 ∧ t.log = 1 ∧ (∀ l < 128, t.mask.getLsbD l = bad.any fun p => p.1 == l) ∧
  ∀ p ∈ bad, p.1 < 128 → (∀ q ∈ bad, q.1 = p.1 → q = p) →
    (t.hq.map fun x => x.getD p.1 0) = [p.2.q1, p.2.q2, p.2.q3].map (BitVec.ofNat 32)

/-- The bytes of an entry's word at home, little-endian. -/
def word64 (s : State) (a : Nat) : Nat := mreadLE s.mem a 8

/-- What translations alone change (03 R62 to R66): translation caches, the A and D bits of leaf entries, and free choices. -/
def onlyTranslation (s t : State) : Prop :=
  t = { s with cores := t.cores, engines := t.engines, towers := t.towers, mem := t.mem, free := t.free } ∧
  (∀ a, mread t.mem a = mread s.mem a ∨ mread t.mem a = mread s.mem a ||| 0x40 ∨ mread t.mem a = mread s.mem a ||| 0xC0) ∧
  ∀ k, ∃ x, getCore t k = { getCore s k with tlbs := x }

/-! Small instructions (chapters 07, 13, 14). -/

/-- A warp that runs EXIT has gathered its NTSTs and written its core's bytes back, and its lanes count as exited (13 R339). -/
def exiting (s : State) : State :=
  let m := s.w.iss.all
  let s := performNt s fun _ => true
  let s := writeBackCtx s s.core s.ctx
  (noteExit s s.w.frame m).modW fun w => { w with exited := w.exited ||| m, exec := w.exec &&& ~~~ m, o := w.iss.next }

/-- CLAIM with and without its limit (07 R166). -/
def claimForms (sd : BitVec 6) (n : BitVec 7) (limit : Option W32) : Instr :=
  match limit with
  | none => .claim sd n
  | some x => .claimLit sd n (x.zeroExtend 64)

/-- A warp of a workgroup, with its lane group's pool and the CLAIMs that wait there before it. -/
def inGroup (s : State) (gid : Nat) (g : Group) : Prop := s.w.kind = .group gid ∧ getGroup s gid = some g

/-! Engines and the matrix set (chapters 06 and 09). -/

/-- A scalar operand as 64 bits: a scalar register, a literal or a small integer (06 R122). -/
def scalarOf (s : State) (lit : Option W64) (x : Src) : W64 := onceBits 64 s .n64 lit x

/-- The engine that ENG names to a warp (06 Table 06-6), and the commands it can hold where the manual says (06 R146, 09 R205). -/
def engineTable (s : State) : List (BitVec 4 × Engine × Option Nat) :=
  let c := s.w.cluster
  let t := c / 20
  [ (0, .copy c 0, some 64), (1, .copy c 1, some 64), (2, .dma t, some 256), (3, .raster t 0, none), (4, .classify c, none), (5, .attr c, none),
    (6, .traverse c, none), (7, .blend t, none), (8, .matrix c, some 16), (9, .host, none), (10, .peer, none) ]

/-- The commands of the copy and DMA engines (06 Table 06-8) and the event that performs each. -/
def copyRules : List ((Engine → Instr) × Nat) := [(.copyCmd, 0), (.copy2d, 1), (.fill, 2), (.convert, 3), (.decomp, 4)]

/-- The copy and DMA engines. -/
def copies : Engine → Prop
  | .copy .. => True
  | .dma _ => True
  | _ => False

/-- The matrix operations of the MTX major with their descriptor (09 Tables 09-4, 09-5). -/
def matrixOps (s : State) (lit : Option W64) (a : Src) : List (Instr × MOp) :=
  let d := scalarOf s lit a
  [ (.mmul lit a, .mul d), (.mlutb lit a, .lutb d), (.mzero lit a, .zero d), (.mlut 1 lit a, .lut 1 d), (.mlut 2 lit a, .lut 2 d), (.mlut 3 lit a, .lut 4 d) ] ++
    [Ty.f32, .f16, .bf16, .t8, .t6, .i8].flatMap (fun ty => [(.mldb 0 ty lit a, .ldb 0 ty d), (.mlda ty lit a, .lda ty d)]) ++
    [(1 : BitVec 2), 2, 3].map (fun m => (.mldb m .i8 lit a, .ldb m.toNat .i8 d)) ++
    [Ty.f32, .f16, .bf16].map fun ty => (.mdrain ty lit a none, .drain ty d none)

/-- A counter that wraps has reached a value (09 R222, R223). -/
def hasReached (count b : W32) : Prop := 0 ≤ (count - b).toInt

/-- A weight of `w` bits from its bit-planes (09 R214): one bit is +1 or −1, more are two's complement. -/
def weightOf (w : Nat) (bit : Nat → Bool) : Int :=
  if w = 1 then (if bit 0 then 1 else -1)
  else ((List.range (w - 1)).map fun j => if bit j then (2 : Int) ^ j else 0).sum - if bit (w - 1) then 2 ^ (w - 1) else 0

/-- A word of an accumulator (09 Table 09-1, 05 Table 05-4). -/
def accWord (k : Cluster) (a row c : Nat) : Nat := mreadLE k.acc (0x4000 * a + 256 * row + 4 * c) 4

/-- What a warp of a node needs of a core (12 Table 12-3, R296). -/
def nodeNeeds (ctx : Nat) (e : BitVec 512) : Needs :=
  ⟨ctx, [8 * nodeField e 192 7], nodeField e 192 7, 0, nodeField e 199 4, nodeField e 203 2, nodeField e 205 1 = 1⟩
/-- Where a pixel of an uncompressed image lies (11 R272). -/
def pixelVa (d : ImgDesc) (n x y : Nat) : Nat :=
  if d.fmt = 1 then d.base + y * d.pitch + 4 * x
  else
    let rows (k : Nat) : Nat := (max 1 (d.h / 2 ^ k) + 7) / 8
    let cols (k : Nat) : Nat := (max 1 (d.w / 2 ^ k) + 7) / 8
    d.base + 256 * (((List.range n).map fun k => cols k * rows k).sum + y / 8 * cols n + x / 8) + 4 * (8 * (y % 8) + x % 8)

/-- Where an access finds a pixel, and its word as the warp reads it. -/
def pixelPa (s : State) (k : Access) (d : ImgDesc) (n x y : Nat) : Nat :=
  match (xlateBy (.engine (.sampler s.core)) s k k (pixelVa d n x y) 4).2 with
  | .ok t => t.pa
  | .error _ => 0
def pixelOf (s : State) (d : ImgDesc) (n : Nat) (x y : Int) : Nat :=
  if inLevel d n x y then leNat ((List.range 4).map fun i => seen s (pixelPa s .read d n x.toNat y.toNat + i)) else 0

/-- An uncompressed image whose every pixel can be accessed, with its translations in the sampler's cache. -/
def imageReady (s : State) (k : Access) (d : ImgDesc) : Prop :=
  d.meta_ = 0 ∧ (d.fmt = 0 ∨ d.fmt = 1) ∧ ∀ n x y, n ≤ d.last → x < levelW d n → y < levelH d n →
    ∃ t, (∀ u, onlyCaches s u → xlateBy (.engine (.sampler s.core)) u k k (pixelVa d n x y) 4 = (u, .ok t)) ∧ t.pa / 2 ^ 48 < 2 ∧
      t.pa % 128 + 4 ≤ 128 ∧ poisoned s s.ctx t.pa 4 = false

/-- A slope of a quad (11 R271): j is 0 and 1 for u and v along x, 2 and 3 along y; FTZ does not apply. -/
def quadSlope (us vs : List W32) (l j : Nat) : Fv :=
  let q := l - l % 4
  let (hi, lo) := if j < 2 then (if l % 4 < 2 then (q + 1, q) else (q + 3, q + 2)) else if l % 2 = 0 then (q + 2, q) else (q + 3, q + 1)
  let xs := if j % 2 = 0 then us else vs
  f32.read (fmtSub f32 false .rne (xs.getD hi 0).toNat (xs.getD lo 0).toNat).1

/-- The three SAMPLE minors (11 Table 11-6): their form, the sources that they add, and what those give. -/
def sampleForms (m : Samp) (lod : Src) (vg : BitVec 9) : List (Instr × Nat × List (Src × Nat) × (State → Nat → List W32)) :=
  [ (.sample m, 0, [], fun _ _ => []), (.samplel m lod, 1, [(lod, 1)], fun s k => if k = 0 then srcList s .f32 m.lit lod else []),
    (.sampleg m vg, 2, [(.vec vg, 4)], fun s k => (s.w.srcV (vg.toNat + k)).l) ]

/-- What a lane of a SAMPLE minor receives, its four words joined (11 R274). -/
def sampleOf (s : State) (d : ImgDesc) (addr : BitVec 2) (near : Bool) (lod : Nat) (u v : Fv) : Nat :=
  joinBits ((channels d ((texels d addr near lod u v).map fun t => match t.2.1 with
    | some (x, y) => (pixelOf s d t.1 x y, t.2.2, inLevel d t.1 x y)
    | none => (0, t.2.2, false))).map fun c => (32, c))
/-! Streams (chapter 10). -/

/-- Point `i` of class `k` under the key of lane `l` (10 R235). -/
def drizzleBits (sd : Seed) (k : BitVec 4) (i : BitVec 16) (l : Nat) : BitVec 16 :=
  let g : BitVec 16 := ([0, 0, 0x9E35, 0x7F4B, 0xC2B3, 0x5A2D, 0xE6A1, 0x3C6F, 0xB58B, 0x47E9, 0xD2C5, 0x6B17, 0xF0D3, 0x2E8D, 0x8F61, 0x1D9B]).getD k.toNat 0
  let parity (h : Nat) : Bool := ((List.range 16).filter fun j => j &&& h = h ∧ i.getLsbD j).length % 2 = 1
  let point : BitVec 16 :=
    if k = 0 then i.reverse
    else if k = 1 then (List.range 16).foldl (fun y h => if parity h then y ||| 1#16 <<< (15 - h) else y) 0
    else (i * g).reverse
  point ^^^ ((sd.a + k.zeroExtend 16 * (sd.b ||| 1)) * BitVec.ofNat 16 (2 * l + 1))

/-- The ones of a stream. -/
def countOnes (x : BitVec 1024) : Nat := ((List.range 1024).filter fun j => x.getLsbD j).length

/-- The stream of class `k` and probability `p16` in lane `l` (10 R236). -/
def streamOf (w : Warp) (k : BitVec 4) (p16 l : Nat) : ZLane :=
  let bit (j : Nat) : Bool := (drizzleBits w.seed k (w.seed.ibase * BitVec.ofNat 16 w.slen + BitVec.ofNat 16 j) l).toNat < p16
  ⟨(List.range w.slen).foldl (fun x j => if bit j then x ||| 1#1024 <<< j else x) 0, 1#16 <<< k.toNat, false⟩

/-- A stream register takes a value in the lanes that issue; nothing else changes but the offset, and the poison of what is written. -/
def streamWritten (s t : State) (zd : BitVec 3) (f : Nat → ZLane) : Prop :=
  t = { s with w := { s.w with o := s.w.iss.next, z := t.w.z }, poison := t.poison } ∧
  ∀ z l, l < 128 → t.w.zlane z l = if z = zd.toNat ∧ hasLane s.lanes l then f l else s.w.zlane z l

/-- The minors that combine streams (10 R244, Table 10-8): the sources in the order of their checks, the bits and classes of the result, and
the value that a correlated lane reports. -/
def streamGates (zd za zb zc : BitVec 3) :
    List (Instr × List (BitVec 3) × (ZLane → ZLane → ZLane → BitVec 1024 × BitVec 16) × (ZLane → ZLane → ZLane → Option Nat)) :=
  let meet (x y : BitVec 16) : Option Nat := if x &&& y = 0 then none else some (x &&& y).toNat
  let differ (x y : BitVec 16) : Option Nat := if x = y then none else some ((x ^^^ y).toNat + 0x80000000)
  [ (.sand zd za zb, [za, zb], fun a b _ => (a.bits &&& b.bits, a.cls ||| b.cls), fun a b _ => meet a.cls b.cls),
    (.sor zd za zb, [za, zb], fun a b _ => (a.bits ||| b.bits, a.cls ||| b.cls), fun a b _ => meet a.cls b.cls),
    (.sandc zd za zb, [za, zb], fun a b _ => (a.bits &&& b.bits, a.cls), fun a b _ => differ a.cls b.cls),
    (.sorc zd za zb, [za, zb], fun a b _ => (a.bits ||| b.bits, a.cls), fun a b _ => differ a.cls b.cls),
    (.snot zd za, [za], fun a _ _ => (~~~ a.bits, a.cls), fun _ _ _ => none),
    (.smux zd zc za zb, [za, zb, zc], fun a b c => ((c.bits &&& a.bits) ||| (~~~ c.bits &&& b.bits), c.cls ||| a.cls ||| b.cls),
      fun a b c => meet c.cls (a.cls ||| b.cls)) ]

/-- The minors that push what they read of a stream (10 R244): their other sources, and the value of a lane. -/
def streamReads (za : BitVec 3) (lit : Option W64) (w : Src) (d : Dst) (tr : Bool) :
    List (Instr × List (Src × Nat) × (State → ZLane → Nat → W32)) :=
  [ (.scnt za d tr, [], fun _ x _ => BitVec.ofNat 32 (countOnes x.bits)),
    (.scvtVal za d tr, [], fun s x _ =>
      let m : Int := if s.w.slen = 256 then 8 else if s.w.slen = 512 then 9 else 10
      BitVec.ofNat 32 (f32.round .rne false ((intVal (countOnes x.bits)).scale (-m))).1),
    (.scvtWord za lit w d tr, [(w, 1)], fun s x l => x.bits.extractLsb' (32 * ((srcBits 32 s .b32 lit w l).toNat % (s.w.slen / 32))) 32) ]

/-- The ID and depth of a pixel of a resident tile (11 R264). -/
def pixelId (t : VTile) (m : Mem) (p : Nat) : Nat := mreadLE m (t.at_ (8 * p)) 8
def pixelDepth (t : VTile) (m : Mem) (p : Nat) : Nat := mreadLE m (t.at_ (512 + 4 * p)) 4

/-- The bytes of a pixel's ID and depth, which lie apart. -/
def pixelBytes (t : VTile) (p a : Nat) : Prop := t.at_ (8 * p) ≤ a ∧ a < t.at_ (8 * p) + 8 ∨ t.at_ (512 + 4 * p) ≤ a ∧ a < t.at_ (512 + 4 * p) + 4
def pixelApart (t : VTile) (p : Nat) : Prop := t.at_ (8 * p) + 8 ≤ t.at_ (512 + 4 * p) ∨ t.at_ (512 + 4 * p) + 4 ≤ t.at_ (8 * p)

/-- A fragment replaces what a pixel holds: its depth is less, or equal with a lesser ID; NaN never does (11 R264). -/
def closerThan (z n d id : Nat) : Prop :=
  let x := BitVec.ofNat 32 z
  let y := BitVec.ofNat 32 d
  isNan32 x = false ∧ isNan32 y = false ∧ (place32 x < place32 y ∨ place32 x = place32 y ∧ n < id)

/-- What keeps a cluster's matrix set with its context: a marked workgroup that is resident there, a MATRIX command, or its sequencer's
run (09 R202, R231). -/
def setInUse (s : State) (cl ctx : Nat) : Prop :=
  (∃ p ∈ s.groups, p.2.ctx = ctx ∧ p.2.resident = true ∧ p.2.matrix = true ∧ clusterOfCore p.2.core = cl) ∨ tgetD (getCluster s cl).queues 8 [] ≠ [] ∨
    (∃ w, getWarp s cl = some w ∧ w.live = true) ∨ (getCluster s cl).ops ≠ [] ∨ (getCluster s cl).done ≠ (getCluster s cl).batch

/-- A queue of a context is in the resident set. -/
def hasResident (s : State) (ctx : Nat) : Prop := ∃ c, getCtx s ctx = some c ∧ ∃ q ∈ c.queues, q.2.resident = true

/-- A queue of a context has a packet in hand; `t` is the state with its priority taken over by the queue (14 R343). -/
def packetIs (s : State) (ctx qi : Nat) (p : Packet) (t : State) : Prop :=
  ∃ s1, packetHead s ctx qi = (s1, .ready p) ∧ t = modQueue s1 ctx qi fun q => { q with prio := if p.fresh then p.prio else q.prio }

/-- The same of a CONFIG item whose common fields are in order (16 R394, R395). -/
def itemIs (s : State) (ctx qi item : Nat) (device : Bool) (bits : Nat) (p : Packet) (t : State) : Prop :=
  packetIs s ctx qi p t ∧ p.ty = 6 ∧ p.item = item ∧ p.fresh = true ∧ p.at_ 17 7 = 0 ∧ (device = true → ctx = 0 ∧ qi = 0) ∧
    p.value bits (448 - bits) = 0

/-- A message in a session: undamaged, with no reserved value, of a type (16 R387). -/
def soundMsg (s : State) (ty : Nat) (m : Msg) : Prop :=
  m.ty.toNat = ty ∧ msgFieldsOk m = true ∧ m.crc.toNat = msgCrc m ∧ s.link.open_ = true ∧ s.link.lost = false ∧ s.link.asked = false ∧
    s.mgmt.state ≠ .booting

/-- One in sequence. -/
def inSequence (s : State) (ty : Nat) (m : Msg) : Prop := soundMsg s ty m ∧ m.seq = s.link.expect

/-- The link once a message in sequence is accepted: what it acknowledges is dropped, the next SEQ is expected, and an ACK is due
within 10 microseconds. -/
def acceptMsg (s : State) (m : Msg) : State :=
  { s with link := { s.link with
      unacked := s.link.unacked.filter fun x => 2 ^ 31 ≤ (m.ackn - x.msg.seq).toNat
      expect := s.link.expect + 1
      ackDue := some (s.link.ackDue.getD (s.clock + 20000)) } }

/-- What a message that went out last says: type, RESP, context, address, payload. -/
def lastOut (s : State) : Option (BitVec 8 × Bool × BitVec 12 × W64 × List Byte) :=
  s.link.out.head?.map fun m => (m.ty, m.resp, m.ctx, m.addr, m.payload)

/-- Word 0 put together from its fields: bits [31:13], MIN, U, MAJ, LEN (02 Table 02-1). -/
def word0 (hi : BitVec 19) (mn : BitVec 4) (u : BitVec 1) (maj : BitVec 6) (len : BitVec 2) : W32 := hi ++ mn ++ u ++ maj ++ len

/-- Bits [31:13] in format A: MOD, T, DS, SB, SA (02 Table 02-3). -/
def formA (mod : BitVec 3) (t : BitVec 1) (ds sb sa : BitVec 5) : BitVec 19 := mod ++ t ++ ds ++ sb ++ sa

/-- The two words of E: X5, TYP, T, ABS, NEG, SAT, RND, OPD, OPC, OPB, OPA (02 Table 02-4). -/
def extWords (x5 : BitVec 5) (typ : BitVec 4) (t : BitVec 1) (abs neg : BitVec 3) (sat : BitVec 1) (rnd : BitVec 3)
    (opd opc opb opa : BitVec 11) : List W32 :=
  let e : W64 := x5 ++ typ ++ t ++ abs ++ neg ++ sat ++ rnd ++ opd ++ opc ++ opb ++ opa
  [e.extractLsb' 0 32, e.extractLsb' 32 32]

/-- The operand specifiers of Table 02-5: named registers, queue entries by age − 1, scalars, special codes. -/
def specV (n : BitVec 9) : BitVec 11 := 0#2 ++ n
def specQ (n : BitVec 4) : BitVec 11 := 1#2 ++ 0#5 ++ n
def specS (n : BitVec 6) : BitVec 11 := 2#2 ++ 0#3 ++ n
def specC (n : BitVec 9) : BitVec 11 := 3#2 ++ n

/-- What fetches an instruction of some word 0: a sequencer an MTX instruction, a handler RTT, else a warp. -/
def fetchedBy (w0 : W32) : Where :=
  if w0.extractLsb' 2 6 = 0x15 then .sequencer else if w0.extractLsb' 2 6 = 0 ∧ w0.extractLsb' 9 4 = 4 then .handler else .warp

/-- An operand record of a base form on vectors, to be changed where a word differs. -/
def plainOp (ty : Ty) (a b : Src) (d : Dst) : Op := ⟨false, none, false, ty, .rne, false, 0, 0, false, 0, a, b, .unused, d⟩

end Sys2Proof.Machine
end

