-- ==== Sys2Proof/Certificates/Slice0/Obligations.lean ====
section
/-! DEFINITION. The statements about the UC640 for the provers. Each names in its docstring the rules of spec/ it rests on. -/

open Sys2Proof Sys2Proof.Machine

/-! Arithmetic. -/

/-- 08 R172, R173, R177 to R180: INTA and INTB. Over lanes: once the operands pass the checks of `prep`, each lane that issues gets the
operation of its 32-bit sources, delivered to the destination; no flag changes, no draw is taken, and the offset moves past the
instruction. Once, on scalars, at 32 or 64 bits: a 32-bit result is sign-extended for i32, else zero-extended. LEA, IADD64 and ISUB64 work on
register pairs, low words and high words delivered, and on scalars. -/
def Obligations.IntegerArithmetic : Prop :=
  ((∀ r ∈ intaRules, bitForms r.1 r.2) ∧
   (∀ r ∈ intbRules, bitForms r.1 r.2)) ∧
  (∀ r ∈ pairRules,
     (∀ o s s1, WellFormed (r.1 o) → o.u = false →
       prep s [(o.a, 2), (o.b, if r.2.1 then 2 else 1), (o.c, 1)] [(o.d, 2)] = .go s1 →
       let x (l : Nat) : W64 := r.2.2 o (pairBits s1 o o.a l) (pairSecond r.2.1 s1 o l)
       exec (r.1 o) s = .next (advance (putResult s1 o.d o.tr
         [overLanes s1 fun l => (x l).extractLsb' 0 32, overLanes s1 fun l => (x l).extractLsb' 32 32]))) ∧
     (∀ o s, WellFormed (r.1 o) → o.u = true →
       exec (r.1 o) s = .next (advance (putScalar s o.d (r.2.2 o (onceBits 64 s .n64 o.lit o.a) (pairSecond r.2.1 (asOnce s) o 0))))))

/-- 08 R174, R181, R182: the immediate forms push their result, or write the scalar that SA names; ICMPI writes its comparison. -/
def Obligations.ImmediateForms : Prop :=
  (∀ r ∈ immRules,
     (∀ i s s1, WellFormed (r.1 i) → i.u = false → prep s [(i.a, 1)] [] = .go s1 →
       exec (r.1 i) s = .next (advance (pushQ s1 (overLanes s1 fun l => r.2 i 32 (srcBits 32 s1 .i32 none i.a l)) i.tr))) ∧
     (∀ i n s, WellFormed (r.1 i) → i.u = true → i.a = .sca n →
       exec (r.1 i) s = .next (advance (setS s n.toNat (r.2 i 64 (s.w.sreg n.toNat)))))) ∧
  ((∀ i s s1, WellFormed (.icmpi i) → i.u = false → prep s [(i.a, 1)] [] = .go s1 →
     exec (.icmpi i) s = .next (advance (writeMask s1 0 (testLanes s1 fun l =>
       immHolds i.mod.toNat (srcBits 32 s1 .i32 none i.a l) (i.imm.signExtend 32))))) ∧
   (∀ i s, WellFormed (.icmpi i) → i.u = true →
     ∃ t, exec (.icmpi i) s = .next t ∧
       t = advance (setS s 0 (if immHolds i.mod.toNat (srcBits 64 s .i64 none i.a 0) (i.imm.signExtend 64) then 1 else 0)) ∧
       t.w.sreg 1 = s.w.sreg 1))

/-- 08 R182, R183, 04 R81: integer compares write a mask of the lanes that issue, or 0 or 1 in a scalar; no flag changes. Float compares
order the encodings by value, −0 equal to +0; a NaN is unordered, and raises IV where it signals or where FCMP tests an order. -/
def Obligations.IntegerCompares : Prop :=
  (∀ r ∈ [(Instr.icmp, true), (Instr.icmpn, false)],
     (∀ o s s1, WellFormed (r.1 o) → o.u = false → prep s (sources o) [] = .go s1 →
       exec (r.1 o) s = .next (advance (putTest s1 o fun l =>
         intHolds r.2 o.mod.toNat (srcBits 32 s1 o.ty o.lit o.a l) (srcBits 32 s1 o.ty o.lit o.b l)))) ∧
     (∀ o s, WellFormed (r.1 o) → o.u = true →
       exec (r.1 o) s = .next (advance (putTest s o fun _ =>
         if tyWide o.ty then intHolds r.2 o.mod.toNat (onceBits 64 s o.ty o.lit o.a) (onceBits 64 s o.ty o.lit o.b)
         else intHolds r.2 o.mod.toNat (onceBits 32 s o.ty o.lit o.a) (onceBits 32 s o.ty o.lit o.b))))) ∧
  (∀ r ∈ [(Instr.fcmp, false), (Instr.fcmpx, true)],
     let holds (s : State) (o : Op) (l : Nat) : Bool × Bool :=
       fltHolds r.2 o.mod.toNat (flush32 s.w.fp.ftz (fltBits s o 0 o.a l)) (flush32 s.w.fp.ftz (fltBits s o 1 o.b l))
     (∀ o s s1, WellFormed (r.1 o) → o.u = false → prep s (sources o) [] = .go s1 →
       exec (r.1 o) s = .next (advance (raiseFlags (putTest s1 o fun l => (holds s1 o l).1)
         (flagsOver s1 fun l => flag (holds s1 o l).2 flIV)))) ∧
     (∀ o s, WellFormed (r.1 o) → o.u = true →
       exec (r.1 o) s = .next (advance (raiseFlags (putTest s o fun _ => (holds (asOnce s) o 0).1) (flag (holds (asOnce s) o 0).2 flIV)))))

/-- 08 R183, R198, R199, 07 R160: the mask operations; a mask written is what its pair of scalars holds, and reads back; a test writes
zero in the lanes that do not issue. -/
def Obligations.MaskRegisters : Prop :=
  (∀ o s s1, WellFormed (.mset o) → prep s (sources o) [] = .go s1 →
    exec (.mset o) s = .next (advance (putTest s1 o fun l => srcBits 32 s1 o.ty o.lit o.a l != 0))) ∧
  (∀ r ∈ maskRules, ∀ o k s, WellFormed (r.1 o) → o.d = .msk k →
    exec (r.1 o) s = .next (advance (setM s k.toNat (r.2 (maskSrc s o.a) (maskSrc s o.b))))) ∧
  (∀ r ∈ maskToLaneRules, ∀ o s s1, WellFormed (r.1 o) → prep s (sources o) [(o.d, 1)] = .go s1 →
    exec (r.1 o) s = .next (advance (putResult s1 o.d o.tr [overLanes s1 fun l => r.2 (maskSrc s1 o.a) l]))) ∧
  (∀ lit half d s, WellFormed (.mlit lit half d) →
    ∃ t, exec (.mlit lit half d) s = .next t ∧ t.w.o = s.w.iss.next ∧
      t.w.mreg d.toNat = (if half = 1 then (s.w.mreg d.toNat).extractLsb' 0 64 else lit).zeroExtend 128 |||
        (if half = 0 then (s.w.mreg d.toNat).extractLsb' 64 64 else lit).zeroExtend 128 <<< 64 ∧
      (∀ n, n ≠ 2 * d.toNat → n ≠ 2 * d.toNat + 1 → t.w.sreg n = s.w.sreg n) ∧ t.mem = s.mem) ∧
  (∀ s k m, (setM s k m).w.mreg k = m ∧ (setM s k m).w.sreg (2 * k) = m.extractLsb' 0 64 ∧
    (setM s k m).w.sreg (2 * k + 1) = m.extractLsb' 64 64 ∧
    ∀ n, n ≠ 2 * k → n ≠ 2 * k + 1 → (setM s k m).w.sreg n = s.w.sreg n) ∧
  (∀ s k m, s.w.iss.masks = [] → (writeMask s k m).w.mreg k = m &&& s.lanes ∧
    ∀ n, n ≠ 2 * k → n ≠ 2 * k + 1 → (writeMask s k m).w.sreg n = s.w.sreg n)

/-- 08 R185 to R194, 02 R34, 04 R102, 10 R240: FLTA and FLTB over lanes and on scalars, and PKD over lanes; the conversions over lanes, and
CVT on scalars of 32 and 64 bits. -/
def Obligations.FloatLanes : Prop :=
  (∀ r ∈ fltRules, r.vectorForm ∧ r.uniformForm) ∧
  (∀ r ∈ pkdRules, r.vectorForm) ∧
  (∀ sty sel, ∀ r ∈ cvtRules sty sel, r.vectorForm) ∧
  (∀ o sty sel s, WellFormed (.cvt o sty sel) → o.u = true →
    let r := convert s.w.fp.ftz (s.w.mode o.rnd 0) sty o.ty (element o sty sel.toNat ((asOnce s).w.opnd sty (tyWide sty) o.lit 0 o.a))
    exec (.cvt o sty sel) s = .next (advance (drawIf (raiseFlags
      (putScalar s o.d (if tyWide o.ty then BitVec.ofNat 64 r.1 else widen o.ty (BitVec.ofNat 32 r.1))) r.2) o.rnd true)))

/-- 08 R195 to R197, 11 R271: the cross-lane instructions. -/
def Obligations.CrossLane : Prop :=
  (∀ r ∈ crossRules, crossForm r.1 r.2) ∧ ∀ excl, crossForm (fun o => .scan o excl) (scanFn excl)

/-- 07 R154, R157: the checks before an instruction's effect, in a warp without channels: a register beyond the allotment raises
REG_RANGE naming it, then a transient entry of age 9 or more raises QUEUE_TRANSIENT with its age; else the instruction goes on. With no
active lane none of them is raised (13 R341). -/
def Obligations.OperandsAreCheckedFirst : Prop :=
  ∀ s srcs dsts, noChannels s →
    let regs := srcs.flatMap srcRegs ++ dsts.flatMap dstRegs
    let late (n : BitVec 4) : Prop := 8 ≤ n.toNat ∧ (s.w.activeQueue.getD n.toNat ⟨Vec.zero, false⟩).tr = true
    (s.allLanes = 0 → prep s srcs dsts = .go s) ∧
    (s.allLanes ≠ 0 → (∃ n ∈ regs, s.w.v.length ≤ n) → ∃ n ∈ regs, s.w.v.length ≤ n ∧ prep s srcs dsts = .stop (raise0 s REG_RANGE [n])) ∧
    (s.allLanes ≠ 0 → (∀ n ∈ regs, n < s.w.v.length) → (∃ n k, (Src.queue n, k) ∈ srcs ∧ late n) →
      ∃ n k, (Src.queue n, k) ∈ srcs ∧ late n ∧ prep s srcs dsts = .stop (raise0 s QUEUE_TRANSIENT [n.toNat + 1])) ∧
    ((∀ n ∈ regs, n < s.w.v.length) → (∀ n k, (Src.queue n, k) ∈ srcs → ¬ late n) → prep s srcs dsts = .go s)

/-- 07 R153, R155, R157, 02 R31, 06 R125, 15 R367: delivering a vector result. The queue takes a new youngest entry, the value in the
lanes that issue and zero elsewhere, and its oldest entry leaves; a named register takes the value in those lanes; nothing else changes.
A load or an atomic delivers, word by word, to the lanes of its issue: its named registers, its scalar, and the low words to the queue
entry that it pushed. -/
def Obligations.ResultsAreDelivered : Prop :=
  (∀ s d tr x, s.w.isSeq = false → (∀ n, producerChan s.w n = none) → (d = .queue ∨ ∃ n, d = .vec n ∧ n.toNat < s.w.v.length) →
     let t := putResult s d tr [x]
     (∃ e, t.w.activeQueue = e :: s.w.activeQueue.take (s.w.activeQueue.length - 1) ∧ e.tr = tr ∧
       ∀ l < 128, e.v.lane l = if hasLane s.lanes l then x.lane l else 0) ∧
     (∀ n, d = .vec n → ∀ l < 128, (t.w.vreg n.toNat).lane l = if hasLane s.lanes l then x.lane l else (s.w.vreg n.toNat).lane l) ∧
     (∀ k, (∀ n, d = .vec n → k ≠ n.toNat) → t.w.vreg k = s.w.vreg k) ∧ t.w.v.length = s.w.v.length ∧
     onlyWarp s t ∧
     t.w = { s.w with queue := t.w.queue, hqueue := t.w.hqueue, v := t.w.v, iss := { s.w.iss with pushed := true } } ∧
     (if s.w.handler then t.w.queue = s.w.queue else t.w.hqueue = s.w.hqueue)) ∧
  (∀ s (r : Req) words val, s.w.isSeq = false → r.slots = [] →
     let t := deliver s r words val
     let word (i l : Nat) : W32 := BitVec.ofNat 32 (val l / 2 ^ (32 * i))
     (∀ n, r.dst = .vec n → n.toNat + words ≤ s.w.v.length → ∀ i < words, ∀ l < 128,
       (t.w.vreg (n.toNat + i)).lane l = if hasLane r.lanes l then word i l else (s.w.vreg (n.toNat + i)).lane l) ∧
     (∀ k, (∀ n, r.dst = .vec n → k < n.toNat ∨ n.toNat + words ≤ k) → t.w.vreg k = s.w.vreg k) ∧
     (∀ k, t.w.sreg k = if r.dst = .sca (BitVec.ofNat 6 k) ∧ k < 64 then BitVec.ofNat 64 (val 0) else s.w.sreg k) ∧
     (∀ e rest, s.w.activeQueue = e :: rest → ∃ e', t.w.activeQueue = e' :: rest ∧ e'.tr = e.tr ∧
       ∀ l < 128, e'.v.lane l = if r.pushes ∧ hasLane r.lanes l then word 0 l else e.v.lane l) ∧
     onlyWarp s t ∧
     t.w = { s.w with queue := t.w.queue, hqueue := t.w.hqueue, v := t.w.v, s := t.w.s } ∧
     (if s.w.handler then t.w.queue = s.w.queue else t.w.hqueue = s.w.hqueue) ∧ t.w.v.length = s.w.v.length)

/-- The frame of the arithmetic majors (08 R172 to R200, 07 R153 to R160): once the operands pass the checks, no instruction of them
changes memory, another warp, a register that is no destination, %exec, the planes, the stack or a special register but %fpflags
and the draw index; MASK, INTA, INTB and INTI change no flag. -/
def Obligations.ArithmeticFrame : Prop :=
  (∀ i x s s1 t, aluOf i = some x → WellFormed i →
    (if x.op.u then s1 = s else prep s (aluSources x) (aluDests x) = .go s1) → exec i s = .next t →
    onlyWarpAndChannels s t ∧ registersKept s t ((aluDests x).flatMap dstRegs) (dstScalars x.op.d) ∧
    (x.maj = 2 ∨ x.maj = 4 ∨ x.maj = 5 → t.w.fp = s.w.fp) ∧ t.w.o = s.w.iss.next) ∧
  (∀ i mn m s s1 t, immOf i = some (mn, m) → WellFormed i →
    (if m.u then s1 = s else prep s [(m.a, 1)] [] = .go s1) → exec i s = .next t →
    onlyWarpAndChannels s t ∧
    registersKept s t [] (if mn = 8 then (if m.u then [0] else [0, 1]) else match m.a with | .sca n => [n.toNat] | _ => []) ∧
    t.w.fp = s.w.fp ∧ t.w.o = s.w.iss.next)

/-! Control flow. -/

/-- 13 R331, R332, R334, 02 R27: BRA, BRS, BRANY and BRALL set the offset and nothing else; CALL and RET, and RET after a write of
%link by SWR. -/
def Obligations.UniformBranches : Prop :=
  (∀ s, (∀ o, jump s o = (s.modW fun w => { w with o := o })) ∧
     (∀ off, exec (.bra off) s = .next (jump s (branchTo s off))) ∧
     (∀ z a off, exec (.brs z a off) s = .next (jump s (if (s.w.sreg a.toNat = 0 ↔ z = true) then branchTo s off else s.w.iss.next))) ∧
     (∀ m off, s.w.iss.all = s.w.exec →
       exec (.brany m off) s = .next (jump s (if s.w.exec &&& s.w.mreg m.toNat ≠ 0 then branchTo s off else s.w.iss.next))) ∧
     (∀ m off, s.w.iss.all = s.w.exec →
       exec (.brall m off) s = .next (jump s (if s.w.exec &&& ~~~ s.w.mreg m.toNat = 0 then branchTo s off else s.w.iss.next)))) ∧
  ((∀ off s, exec (.call off) s = .next (s.modW fun w => { w with link := (s.w.o + 4).zeroExtend 64, o := branchTo s off })) ∧
   (∀ s, exec .ret s = .next (s.modW fun w => { w with o := s.w.link.extractLsb' 0 32 &&& ~~~ 3 })) ∧
   (∀ ss s, ∃ t, exec (.swr 0 16 ss) s = .next t ∧
     exec .ret t = .next (s.modW fun w => { w with link := s.w.sreg ss.toNat, o := (s.w.sreg ss.toNat).extractLsb' 0 32 &&& ~~~ 3 })))

/-- 13 R327, R333, R335 to R337: BRM and CALLM divide the lanes that are active, or send all of them one way; where the two entries of a
division find no room, STACK_EXHAUSTED is raised and nothing else happens. LOOP and LOOPX. -/
def Obligations.DivergentBranches : Prop :=
  (∀ s m off, let a := s.w.iss.all; let t := a &&& s.w.mreg m.toNat; let n := a &&& ~~~ s.w.mreg m.toNat
     let target := branchTo s off
     let ret := s.w.o + 12
     let noRoom := s.w.isSeq = true ∨ s.w.spillLimit < 32 * (s.w.spilled + 1) + s.w.raySpill
     let full := raise0 s STACK_EXHAUSTED [s.w.stack.length + s.w.spilled, s.w.raySpill, 32]
     (∀ join, let j := s.w.o + join
       (a = 0 → exec (.brm m off join) s = .next (jump s j)) ∧
       (a ≠ 0 → n = 0 → exec (.brm m off join) s = .next (jump s target)) ∧
       (a ≠ 0 → t = 0 → exec (.brm m off join) s = .next (jump s s.w.iss.next)) ∧
       (t ≠ 0 → n ≠ 0 → s.w.stack.length ≤ 14 → exec (.brm m off join) s = .next (s.modW fun w => { w with
         exec := n &&& ~~~ s.w.exited, o := s.w.iss.next
         stack := plainEntry .path t j target :: plainEntry .reconv a j 0 :: s.w.stack })) ∧
       (t ≠ 0 → n ≠ 0 → 14 < s.w.stack.length → noRoom → exec (.brm m off join) s = .next full)) ∧
     (t = 0 → exec (.callm m off) s = .next (jump s s.w.iss.next)) ∧
     (t ≠ 0 → n = 0 → exec (.callm m off) s = .next (s.modW fun w => { w with
       link := ret.zeroExtend 64, exec := t &&& ~~~ s.w.exited, o := target })) ∧
     (t ≠ 0 → n ≠ 0 → s.w.stack.length < 16 → exec (.callm m off) s = .next (s.modW fun w => { w with
       link := ret.zeroExtend 64, exec := t &&& ~~~ s.w.exited, o := target, stack := plainEntry .call n ret 0 :: s.w.stack })) ∧
     (t ≠ 0 → n ≠ 0 → 16 ≤ s.w.stack.length → noRoom → exec (.callm m off) s = .next full)) ∧
  ((∀ lit n off step s, WellFormed (.loop lit n off step) →
     let count := srcBits 32 s .n32 lit n 0
     let stop := branchTo s off
     (count = 0 → exec (.loop lit n off step) s = .next (jump s stop)) ∧
     (count ≠ 0 → s.w.stack.length < 16 → ∃ e, e.mask = s.w.iss.all ∧ e.rpc = stop ∧ e.resume = s.w.iss.next ∧ e.kind = .loop ∧
       e.count = count ∧ (step = none → e.inc = false) ∧ (∀ p, step = some p → e.inc = true ∧ e.sb = p.1 ∧ e.sc = p.2) ∧ e.canonical ∧
       exec (.loop lit n off step) s = .next (s.modW fun w => { w with stack := e :: s.w.stack, o := s.w.iss.next }))) ∧
   (∀ z a s, ¬ (s.w.sreg a.toNat = 0 ↔ z = true) → exec (.loopx z a) s = .next (jump s s.w.iss.next)) ∧
   (∀ z a s e rest, (s.w.sreg a.toNat = 0 ↔ z = true) → s.w.stack = e :: rest → s.w.spilled = 0 →
     (e.kind = .loop → exec (.loopx z a) s =
       .next (s.modW fun w => { w with stack := rest, exec := e.mask &&& ~~~ s.w.exited, o := e.rpc })) ∧
     (e.kind ≠ .loop → exec (.loopx z a) s = .next (raise s ILLEGAL_INSTRUCTION s.w.iss.all []))))

/-- 13 R325, R333: what one pop does to a stack whose entries are all in the warp; lanes that BRM divides rejoin. The lanes not taken run
first; when they reach join the taken lanes start at the target; when those reach join, every lane of the division that has not exited
is active again and the stack is as it was. -/
def Obligations.EntriesPop : Prop :=
  (∀ s e rest, s.w.stack = e :: rest → s.w.spilled = 0 →
     (e.kind = .path → popEntry s e = (s.modW fun w => { w with stack := rest, exec := e.mask &&& ~~~ s.w.exited, o := e.resume })) ∧
     (e.kind = .reconv → popEntry s e = (s.modW fun w => { w with stack := rest, exec := e.mask &&& ~~~ s.w.exited, o := e.rpc })) ∧
     (e.kind = .call → popEntry s e = (s.modW fun w => { w with stack := rest, exec := (s.w.exec ||| e.mask) &&& ~~~ s.w.exited, o := e.rpc })) ∧
     (e.kind = .loop →
       let x : State := if e.inc then setS s e.sb.toNat (s.w.sreg e.sb.toNat + s.w.sreg e.sc.toNat) else s
       (e.count ≠ 1 → popEntry s e = (x.modW fun w => { w with stack := { e with count := e.count - 1 } :: rest, o := e.resume })) ∧
       (e.count = 1 → popEntry s e = (x.modW fun w => { w with stack := rest, exec := e.mask &&& ~~~ x.w.exited, o := e.rpc }))) ∧
     (∀ n, popCheck (n + 1) s = if e.kind ≠ .trap ∧ s.w.o = e.rpc then popCheck n (popEntry s e) else s)) ∧
  (∀ s m off join, let a := s.w.iss.all; let t := a &&& s.w.mreg m.toNat; let j := s.w.o + join
     t ≠ 0 → a &&& ~~~ s.w.mreg m.toNat ≠ 0 → s.w.stack.length ≤ 14 → s.w.spilled = 0 → branchTo s off ≠ j → noPop s.w j →
     ∃ s1, exec (.brm m off join) s = .next s1 ∧
       let s2 := popAll (jump s1 j)
       s2.w.exec = t &&& ~~~ s.w.exited ∧ s2.w.o = branchTo s off ∧
       popAll (jump s2 j) = (s.modW fun w => { w with exec := a &&& ~~~ s.w.exited, o := j }))

/-- 13 R338: PLSET and PLSW give planes to lanes, or to none when a lane names a plane that the kernel has not. -/
def Obligations.PlaneSelection : Prop :=
  (∀ m p s, let on := s.w.iss.all &&& s.w.mreg m.toNat
    (on = 0 ∨ p.toNat ≤ s.w.code.planes → ∃ t, exec (.plset m p) s = .next t ∧
      (∀ l < 128, t.w.planes.getD l 0 = if hasLane on l then p else s.w.planes.getD l 0) ∧
      t = (s.modW fun w => { w with planes := t.w.planes, o := s.w.iss.next })) ∧
    (on ≠ 0 → s.w.code.planes < p.toNat → exec (.plset m p) s = .next (raise s PLANE_MISALIGNED on [laneVals on fun _ => p.toNat]))) ∧
  (∀ lit a s, s.allLanes = 0 → exec (.plsw lit a) s = .next (jump s s.w.iss.next)) ∧
  (∀ lit a s s1, WellFormed (.plsw lit a) → s.allLanes ≠ 0 → prep s [(a, 1)] [] = .go s1 →
    let want (l : Nat) : W32 := srcBits 32 s1 .n32 lit a l
    let bad := maskOf fun l => hasLane s1.w.iss.all l && decide (s1.w.code.planes < (want l).toNat)
    (bad = 0 → s1.w.code.planes ≤ 3 → ∃ t, exec (.plsw lit a) s = .next t ∧
      (∀ l < 128, t.w.planes.getD l 0 = if hasLane s1.w.iss.all l then (want l).extractLsb' 0 2 else s1.w.planes.getD l 0) ∧
      t = (s1.modW fun w => { w with planes := t.w.planes, o := s1.w.iss.next })) ∧
    (bad ≠ 0 → exec (.plsw lit a) s = .next (raise s1 PLANE_MISALIGNED bad [laneVals bad fun l => (want l).toNat])))

/-- 13 Table 13-1, 15 Table 15-2, 00 R4: an entry of the reconvergence stack survives its way to the stack area and back. -/
def Obligations.StackEntriesRoundTrip : Prop :=
  ∀ e : SEntry, e.canonical → SEntry.ofBits (leNat (leBytes 32 e.bits)) = e

/-! Traps. -/

/-- 15 R362, R363, R370, R372, R373, 09 R207: taking a trap: what is saved, what the handler finds, and where it begins; without a handler the
context stops, in a handler it is killed, and a sequencer halts; of an offset that issues in several planes the trap is noted, to be
joined with the others' (03 R70). BRK and TRAP: their words, and the traps they take; BRK with no active
lane does nothing; TRAP_ENTRY is that operation by itself. -/
def Obligations.TrapsAreTaken : Prop :=
  (∀ s t, s.w.iss.many = true → takeTrap s t = s.modW fun w => { w with iss := { w.iss with trapped := some t } }) ∧
  (∀ s t, alone s →
     (∀ h, handlerReady s h → ∃ s', takeTrap s t = s' ∧ startsHandlerQueue s'.w.hqueue t.hq ∧
       s' = (s.modW fun w => { w with
         trapcause := t.cause, trapaddr := t.addr, trapmask := t.mask, trapExec := s.w.exec, handler := true, hbase := h
         exec := ~~~ s.w.exited, o := 0, stack := trapEntry s t :: s.w.stack
         hqueue := s'.w.hqueue, faultVAs := s'.w.faultVAs, iss := { s.w.iss with trapped := some t } })) ∧
     (∀ c, s.w.isSeq = false → s.w.handler = false → s.w.stack.length < 16 → getCtx s s.ctx = some c → c.trap.handler = 0 →
       c.running = .running → ∃ c', getCtx (takeTrap s t) s.ctx = some c' ∧ c'.running = .stopping ∧
         c'.report.take 2 = [t.cause.zeroExtend 64, t.addr] ∧ (takeTrap s t).w.stack = trapEntry s t :: s.w.stack) ∧
     (∀ c, s.w.isSeq = false → s.w.handler = true → getCtx s s.ctx = some c →
       ∃ c', getCtx (takeTrap s t) s.ctx = some c' ∧ c'.running = .killed) ∧
     (∀ c, s.w.isSeq = true → getCtx s s.ctx = some c → c.running = .running →
       (takeTrap s t).w = { s.w with halted := true, trapcause := t.cause, trapaddr := t.addr, iss := { s.w.iss with trapped := some t } } ∧
       ∃ c', getCtx (takeTrap s t) s.ctx = some c' ∧ c'.running = .stopping)) ∧
  (∀ code s, let t (cause : BitVec 8) : Trap := ⟨cause, s.w.iss.pc, s.w.iss.all, s.w.o, s.w.iss.next, 2, 0, [[code.zeroExtend 32]]⟩
     encode (.brk code) = some [0x400 + code.zeroExtend 32 <<< 13] ∧ encode (.trap code) = some [0x600 + code.zeroExtend 32 <<< 13] ∧
     (s.w.iss.all = 0 → exec (.brk code) s = .next (jump s s.w.iss.next)) ∧
     (s.w.iss.all ≠ 0 → exec (.brk code) s = .next (takeTrap s (t 0x40))) ∧
     exec (.trap code) s = .next (takeTrap s (t 0x41))) ∧
  (∀ s t, exec (.trapEntry t) s = .next (takeTrap s t))

/-- 15 R363, R374: RTT from a handler whose cause is no fault of a logged access: entries the handler pushed go, %exec is the MASK of the
TRAP entry, the handler queue is discarded, and the warp goes on at RESUME, or at RPC. A trap taken and returned from leaves the warp as it
was, its queue frozen in between: only the trap's record and the offset differ. -/
def Obligations.TrapsComeBack : Prop :=
  (∀ s pushed e rest skip, s.w.stack = pushed ++ e :: rest → (∀ x ∈ pushed, x.kind ≠ .trap) → e.kind = .trap → s.w.spilled = 0 →
    plainCause e.cause → e.mode ≠ 1 →
    exec (.rtt skip) s = .next (popAll (s.modW fun w => { w with
      stack := rest, handler := false, hqueue := [], exec := s.w.trapExec &&& ~~~ s.w.exited
      o := if e.mode = 0 ∧ skip = false then e.resume else e.rpc }))) ∧
  (∀ s t h skip, alone s → handlerReady s h → s.w.spilled = 0 → plainCause t.cause → t.mode ≠ 1 → s.w.exec &&& s.w.exited = 0 → s.w.hqueue = [] →
    let o := if t.mode = 0 ∧ skip = false then t.resume else t.rpc
    noPop s.w o →
    exec (.rtt skip) (takeTrap s t) = .next (s.modW fun w => { w with
      trapcause := t.cause, trapaddr := t.addr, trapmask := t.mask, trapExec := s.w.exec, hbase := h, o := o
      faultVAs := [], iss := { s.w.iss with trapped := some t } }))

/-! Special registers and small instructions. -/

/-- 07 R163 to R165, Table 07-1, 04 R101, R102: SRD of every special register, %exec and %trapmask whole or by halves; SWR from a scalar
and of a literal: the writable registers change and nothing else does, a read-only register ignores it, and every write of %exec is ANDed
with the lanes that have not exited. -/
def Obligations.SpecialRegistersRead : Prop :=
  ((∀ r ∈ specialReads, ∀ sd s, exec (.srd 0 r.1 sd) s = .next (advance (setS s sd.toNat (r.2 s)))) ∧
   (∀ sd s, s.w.isSeq = false → ∀ r ∈ [((0 : BitVec 5), if s.w.handler then s.w.trapExec &&& ~~~ s.w.exited else s.w.exec), (15, s.w.trapmask)],
     exec (.srd 0 r.1 sd) s = .next (advance (setS (setS s sd.toNat (r.2.extractLsb' 0 64)) (sd.toNat + 1) (r.2.extractLsb' 64 64))) ∧
     exec (.srd 1 r.1 sd) s = .next (advance (setS s sd.toNat (r.2.extractLsb' 0 64))) ∧
     exec (.srd 2 r.1 sd) s = .next (advance (setS s sd.toNat (r.2.extractLsb' 64 64)))) ∧
   (∀ sd s l, s.w.isSeq = false → s.w.handler = false → isLowest s.w.exec l → l < 128 →
     exec (.srd 0 1 sd) s = .next (advance (setS s sd.toNat (s.w.wid + BitVec.ofNat 64 l))) ∧
     exec (.srd 0 3 sd) s = .next (advance (setS s sd.toNat (BitVec.ofNat 64 l)))) ∧
   (∀ sd s, s.w.isSeq = false → s.w.handler = false → s.w.exec = 0 →
     exec (.srd 0 1 sd) s = .next (advance (setS s sd.toNat s.w.wid)) ∧
     exec (.srd 0 3 sd) s = .next (advance (setS s sd.toNat 128))) ∧
   (∀ sd s, s.w.isSeq = false → s.w.handler = false →
     exec (.srd 0 4 sd) s = .next (advance (setS s sd.toNat (BitVec.ofNat 64 s.w.iss.plane)))) ∧
   (∀ half sd s, ∀ r ∈ [(0 : BitVec 5), 3, 4, 15], s.w.isSeq = true → half ≠ 0 ∨ r = 3 ∨ r = 4 →
     exec (.srd half r sd) s = .next (advance (setS s sd.toNat 0)))) ∧
  ((∀ r ∈ specialWrites, ∀ ss lit s,
     exec (.swr 0 r.1 ss) s = .next (advance { s with w := r.2 s.w (s.w.sreg ss.toNat) }) ∧
     exec (.swrLit 0 r.1 lit) s = .next (advance { s with w := r.2 s.w lit })) ∧
   (∀ (n : BitVec 5) half ss lit s, n ∉ [(0 : BitVec 5), 9, 10, 16, 22] →
     exec (.swr half n ss) s = .next (advance s) ∧ exec (.swrLit half n lit) s = .next (advance s)) ∧
   (∀ ss lit s, s.w.isSeq = false → s.w.handler = false →
     let to_ (m : Mask) : Out := .next (advance (s.modW fun w => { w with exec := m &&& ~~~ s.w.exited }))
     let lo := s.w.sreg ss.toNat
     let hi := s.w.sreg (ss.toNat + 1)
     let low (x : W64) : Mask := s.w.exec.extractLsb' 64 64 ++ x
     let high (x : W64) : Mask := x ++ s.w.exec.extractLsb' 0 64
     exec (.swr 0 0 ss) s = to_ (hi ++ lo) ∧ exec (.swr 1 0 ss) s = to_ (low lo) ∧ exec (.swr 2 0 ss) s = to_ (high lo) ∧
     exec (.swrLit 1 0 lit) s = to_ (low lit) ∧ exec (.swrLit 2 0 lit) s = to_ (high lit)) ∧
   (∀ ss s, s.w.isSeq = false → s.w.handler = true →
     ∃ t, exec (.swr 0 0 ss) s = .next t ∧ t.w.exec = s.w.exec ∧
       t.w.trapExec = (s.w.sreg (ss.toNat + 1) ++ s.w.sreg ss.toNat) &&& ~~~ s.w.exited))

/-- 02 R40, 13 R339, R340, 14 R349, R355 to R357, 06 R132, 09 R205: NOP, YIELD, ICPF, NTDRAIN, EXIT and LEASE. -/
def Obligations.SystemInstructions : Prop :=
  (∀ s, exec .nop s = .next (jump s s.w.iss.next)) ∧
  (∀ (cyc : BitVec 10) s, ∃ t, exec (.yield cyc) s = .next t ∧ t.w.o = s.w.iss.next ∧ t.w.readyFor = 0 ∧ (cyc = 0 → t.w.yieldLeft = 0) ∧
    (cyc ≠ 0 → 5 * cyc.toNat < t.w.yieldLeft) ∧
    t = { s with uses := s.uses + 1, w := { s.w with o := t.w.o, readyFor := t.w.readyFor, yieldLeft := t.w.yieldLeft, stamp := s.uses + 1 } }) ∧
  (∀ (lines : BitVec 4) d s, let va := (s.w.iss.pc + 4 * d.signExtend 64).toNat
    ∃ t, exec (.icpf lines d) s = .next t ∧ t = { s with w := { s.w with o := s.w.iss.next }, cores := t.cores, clusters := t.clusters, towers := t.towers, free := t.free } ∧
      (∀ c x, (getCluster s c).icache.length + lines.toNat < 2048 → x ∈ (getCluster s c).icache → x ∈ (getCluster t c).icache) ∧
      (∀ c x, x ∈ (getCluster t c).icache → x ∉ (getCluster s c).icache →
        c = s.w.cluster ∧ x.1 = s.ctx ∧ va / 128 ≤ x.2 ∧ x.2 ≤ va / 128 + lines.toNat) ∧
      (∀ s1 x, lines = 0 → translatePrefetch s s.walker s.ctx .fetch (va / 128 * 128) = (s1, .ok x) → (s.ctx, va / 128) ∈ (getCluster t s.w.cluster).icache)) ∧
  (∀ s, s.memOk → (∀ q ∈ s.w.ntst, region q.1.toNat < 2) →
    ∃ t, exec .ntdrain s = .next t ∧ t.w = { s.w with o := s.w.iss.next, ntst := [] } ∧
      t = { s with w := t.w, mem := t.mem, cores := t.cores, towers := t.towers, poison := t.poison } ∧
      ∀ a, mread t.mem a = ((s.w.ntst.find? fun q => q.1.toNat == a).elim (mread s.mem a) fun q => q.2)) ∧
  (∀ s, s.w.isSeq = true → exec .exit s = .next (s.modW fun w => { w with o := s.w.iss.next, exited := ~~~ 0 })) ∧
  (∀ s, s.w.isSeq = false → let m := s.w.iss.all; let x := exiting s
    (m = 0 → exec .exit s = .next (jump s s.w.iss.next)) ∧
    (m ≠ 0 → x.w.exec &&& ~~~ x.w.exited ≠ 0 → exec .exit s = .next (popAll (x.modW fun w => { w with exiting := false }))) ∧
    (∀ e rest, m ≠ 0 → x.w.exec &&& ~~~ x.w.exited = 0 → x.w.stack = e :: rest → e.kind = .path ∨ e.kind = .reconv → x.w.spilled = 0 →
      e.mask &&& ~~~ x.w.exited ≠ 0 →
      exec .exit s = .next (popAll (x.modW fun w => { w with
        stack := rest, exec := e.mask &&& ~~~ w.exited, o := if e.kind = .path then e.resume else e.rpc, exiting := false }))) ∧
    (m ≠ 0 → x.w.exec &&& ~~~ x.w.exited = 0 → x.w.stack = [] → x.w.spilled ≠ 0 →
      exec .exit s = .next (x.modW fun w => { w with exiting := true })) ∧
    (m ≠ 0 → x.w.exec &&& ~~~ x.w.exited = 0 → x.w.stack = [] → x.w.spilled = 0 → ∃ t, exec .exit s = .next t ∧ t.w = Warp.idle s.w.id .none ∧
      (∀ f, getFrame x x.w.frame = some f → ∃ f', getFrame t x.w.frame = some f' ∧ f'.exited = ~~~ 0) ∧
      (getCluster t x.w.cluster).pool = min 2047 ((getCluster x x.w.cluster).pool + unitsLeft x.w.lease))) ∧
  (∀ (units : BitVec 11) (level : BitVec 2) (sd : BitVec 6) s, WellFormed (.lease units level sd) →
    let cl := s.w.cluster; let k := getCluster s cl; let rem := unitsLeft s.w.lease
    let runs : Bool := s.w.live && s.w.home.resident && !(island k s.w.home.group).near
    let boosts := (getTower s (cl / 20)).thermal = 0 ∧ k.lastSum < 256 * k.power.soft
    let to_ (pool : Nat) (l : Lease) (status : W64) : State :=
      jump (setS ((modCluster s cl fun k => { k with pool := pool }).modW fun w => { w with lease := l }) sd.toNat status) s.w.iss.next
    (level = 0 → exec (.lease units level sd) s = .next (to_ (min 2047 (k.pool + rem)) ⟨0, 0, false, 0⟩ 3)) ∧
    (level ≠ 0 → ¬ boosts ∨ k.power.leasemax < level.toNat → exec (.lease units level sd) s = .next (jump (setS s sd.toNat 1) s.w.iss.next)) ∧
    (level ≠ 0 → boosts → level.toNat ≤ k.power.leasemax → k.pool + rem < units.toNat →
      exec (.lease units level sd) s = .next (jump (setS s sd.toNat 2) s.w.iss.next)) ∧
    (level ≠ 0 → boosts → level.toNat ≤ k.power.leasemax → units.toNat ≤ k.pool + rem →
      exec (.lease units level sd) s = .next (to_ (k.pool + rem - units.toNat) ⟨units.toNat, level.toNat, !runs, 0⟩ 0)))

/-- 07 R157, R158, R166, R167: CLAIM, its wait limit, and GIVEBACK. -/
def Obligations.RegisterClaims : Prop :=
  (∀ sd n limit s gid g, WellFormed (claimForms sd n limit) → inGroup s gid g →
    let lg := s.w.home.group; let k := 8 * n.toNat
    let pool := tgetD g.pool lg 0
    let never := 512 < s.w.v.length + k ∨ tgetD g.reserve lg 0 < k
    let free := claimsOf s g lg = [] ∧ k ≤ pool
    let noWait := s.w.handler = true ∨ limit = some 0
    (never → exec (claimForms sd n limit) s = .next (jump (setS s sd.toNat 2) s.w.iss.next)) ∧
    (¬ never → free → ∃ t g', exec (claimForms sd n limit) s = .next t ∧ t.w.sreg sd.toNat = 0 ∧ t.w.v = s.w.v ++ List.replicate k Vec.zero ∧
      t.w = { s.w with o := s.w.iss.next, v := t.w.v, s := t.w.s } ∧ (∀ i, i ≠ sd.toNat → t.w.sreg i = s.w.sreg i) ∧
      t = { s with w := t.w, groups := t.groups } ∧ getGroup t gid = some g' ∧ g' = { g with pool := g'.pool } ∧
      ∀ i, tgetD g'.pool i 0 = if i = lg then pool - k else tgetD g.pool i 0) ∧
    (¬ never → ¬ free → noWait → exec (claimForms sd n limit) s = .next (jump (setS s sd.toNat 1) s.w.iss.next)) ∧
    (¬ never → ¬ free → ¬ noWait → exec (claimForms sd n limit) s = .next (jump ((setGroup s gid { g with claims := g.claims ++ [s.w.home.index] }).modW
      fun w => { w with wake := .claim n.toNat sd (limit.map fun x => s.clock + x.toNat) }) s.w.iss.next))) ∧
  (∀ s gid g n sd limit, inGroup s gid g → s.w.wake = .claim n sd (some limit) → limit ≤ s.clock →
    exec (.claimWaitLimit s.w.id) s = .next ((setGroup s gid { g with claims := g.claims.filter (· != s.w.home.index) }).modW
      fun w => { w with s := (w.setS sd.toNat 1).s, wake := .ready })) ∧
  (∀ (n : BitVec 7) s gid g, inGroup s gid g → (∀ c ∈ g.chans, 0 < c.2.depth) → let a := s.w.v.length; let k := 8 * n.toNat; let lg := s.w.home.group
    let mapped (r : Nat) : Prop := ∃ c ∈ g.chans, c.2.consumer = some s.w.home.index ∧ c.2.port ≤ r ∧ r < c.2.port + c.2.depth
    (a < k → exec (.giveback n) s = .next (raise0 s REG_RANGE [a, k, 0xFFFFFFFF])) ∧
    (∀ r, k ≤ a → a - k ≤ r → r < a → mapped r → (∀ i, a - k ≤ i → i < r → ¬ mapped i) →
      exec (.giveback n) s = .next (raise0 s REG_RANGE [a, k, r])) ∧
    (k ≤ a → (∀ i, a - k ≤ i → ¬ mapped i) → exec (.giveback n) s = .next (jump ((setGroup s gid
      { g with pool := tput g.pool lg (tgetD g.pool lg 0 + k) }).modW fun w => { w with v := w.v.take (a - k) }) s.w.iss.next)))

/-- 07 R168 to R170: mapping a channel's two ends; a consumer's read takes the oldest slot once it is full, or waits; a producer's write adds
the youngest, a producer's load reserves it at issue and fills it when its data come, and neither goes on while the channel is full; a
waiting consumer wakes when its slot is full. -/
def Obligations.Channels : Prop :=
  (∀ (role : BitVec 2) (dm1 : BitVec 4) (ch : BitVec 3) (n : BitVec 9) s gid g, inGroup s gid g → let d := dm1.toNat + 1
    let overlaps := ∃ c ∈ g.chans, c.1 ≠ ch.toNat ∧ c.2.consumer = some s.w.home.index ∧ n.toNat < c.2.port + c.2.depth ∧ c.2.port < n.toNat + d
    let held := ∃ c j, tget g.chans ch.toNat = some c ∧ c.gone = false ∧ c.consumer = some j ∧ j ≠ s.w.home.index
    (s.w.v.length < n.toNat + d → exec (.chmapC role dm1 ch n) s = .next (raise0 s REG_RANGE [max n.toNat s.w.v.length])) ∧
    (n.toNat + d ≤ s.w.v.length → overlaps ∨ held → exec (.chmapC role dm1 ch n) s = .next (raise0 s REG_RANGE [n.toNat])) ∧
    (n.toNat + d ≤ s.w.v.length → ¬ overlaps → ¬ held → exec (.chmapC role dm1 ch n) s = .next (jump (setGroup s gid
      { g with chans := tput g.chans ch.toNat ⟨some s.w.home.index, n.toNat, d, role.toNat, 0, [],
        (tget g.chans ch.toNat).elim 1 (·.tag), false⟩ }) s.w.iss.next))) ∧
  (∀ (ch : BitVec 3) (n : BitVec 9) s, (s.w.v.length ≤ n.toNat → exec (.chmapP ch n) s = .next (raise0 s REG_RANGE [n.toNat])) ∧
    (n.toNat < s.w.v.length → ∃ t, exec (.chmapP ch n) s = .next t ∧ tget t.w.ports ch.toNat = some n.toNat ∧
      (∀ c, c ≠ ch.toNat → tabWf 0 s.w.ports = true → tget t.w.ports c = tget s.w.ports c) ∧
      t = (s.modW fun w => { w with o := s.w.iss.next, ports := t.w.ports }))) ∧
  (∀ s n c ch, consumerChan s n = some (c, ch) → chanOf s c = some ch → s.w.iss.took = [] →
    (∀ m, producerChan s.w m = none) → n < s.w.v.length → hiddenReg s n = false → (h : n < 512) →
    let x : Src := .vec (BitVec.ofNat 9 n)
    (∀ rest, ch.slots = .full :: rest → ∃ t, prep s [(x, 1)] [] = .go t ∧ t.w.srcV n = s.w.vreg (ch.reg 0) ∧
      chanOf t c = some { ch with head := (ch.head + 1) % ch.depth, slots := rest } ∧ t.w.v = s.w.v ∧ onlyWarpAndChannels s t) ∧
    (s.allLanes ≠ 0 → ch.slots = [] → orphaned s ch = true → prep s [(x, 1)] [] = .stop (raise0 s CHANNEL_ORPHAN [c])) ∧
    (ch.slots.head? ≠ some .full → ch.slots ≠ [] ∨ orphaned s ch = false →
      prep s [(x, 1)] [] = .stop (if s.w.handler then stall s else block s (.channel c)))) ∧
  (∀ s n c ch x, producerChan s.w n = some c → chanOf s c = some ch → s.w.iss.gave = [] → ch.gone = false →
    (ch.consumer ≠ none → ch.slots.length < ch.depth → portFull s n = false ∧
      (let t := writeV s n x
       chanOf t c = some { ch with slots := ch.slots ++ [.full] } ∧ t.mem = s.mem ∧ (channelsOk s → ∀ w, slotHolder s ch = some w →
         ∃ w', slotHolder t ch = some w' ∧ w'.vreg (ch.reg ch.slots.length) = (if ch.reg ch.slots.length < w.v.length then
             Vec.select s.lanes x Vec.zero else w.vreg (ch.reg ch.slots.length)) ∧
           ∀ k, k ≠ ch.reg ch.slots.length → w'.vreg k = w.vreg k)) ∧
      (∀ r : Req, let t := reserveSlots s [n] []
       t.2 = [(n, c, ch.tag)] ∧ chanOf t.1 c = some { ch with slots := ch.slots ++ [.due ch.tag 1], tag := ch.tag + 1 } ∧
       ((∀ q ∈ ch.slots, ∀ k, q ≠ .due ch.tag k) → r.slots = t.2 → let u := putWord t.1 r n x
        chanOf u c = some { ch with slots := ch.slots ++ [.full], tag := ch.tag + 1 } ∧ u.mem = s.mem))) ∧
    (ch.consumer = none ∨ ch.depth ≤ ch.slots.length → portFull s n = true)) ∧
  (∀ s srcs d n, noChannels { s with w := { s.w with ports := [] } } → d = .vec n → n.toNat < s.w.v.length → portFull s n.toNat = true →
    (∀ r ∈ srcs.flatMap srcRegs, r < s.w.v.length ∧ producerChan s.w r = none) → transientFault s.w srcs = none →
    (∀ c ch, producerChan s.w n.toNat = some c → chanOf s c = some ch → s.w.role.toNat = ch.role) →
    prep s srcs [(d, 1)] = .stop (stall s)) ∧
  (∀ s c ch, s.w.wake = .channel c → chanOf s c = some ch →
    (ch.slots.head? = some .full ∨ ch.slots = [] ∧ orphaned s ch = true → exec (.channelDequeueWake s.w.id) s = .next (s.modW fun w => { w with wake := .ready })) ∧
    (ch.slots.head? ≠ some .full → ch.slots ≠ [] ∨ orphaned s ch = false → exec (.channelDequeueWake s.w.id) s = .next s))

/-! Memory. -/

/-- 06 R120, R121, R126: LD, LD64, LDU and LDS. Once the lanes pass alignment and translation in ascending order, the bytes of each are
read and delivered; a lane of LDS out of range reads zero. Bytes that the host or a peer owes make the warp wait. -/
def Obligations.Loads : Prop :=
  (∀ r ∈ loadRules, ∀ m s s1 s2 oks bad, WellFormed (r.1 m) → prep s [(m.adr, r.2.1)] [(m.dst, sizeRegs m.size)] = .go s1 → performs s1 →
    let n := sizeBytes m.size
    let va := perLane (r.2.2 s1 m)
    let op := MemOp.load va n m.hint
    laneChecks .read n va s1.lanes (asNoted s1 op m.dst true false) = (s2, oks, bad) → raisedOnly s2 bad = [] →
    (∀ s3 rs, readPieces m.hint (oks.map fun p => (p.1, p.2.pa, n)) s2 [] false = (s3, .ok rs) →
      exec (r.1 m) s = .next (advance (deliver (dropRemotes s3 s3.w.id) (reqOf s1 op m.dst true false) (max 1 (n / 4)) (laneValue rs)))) ∧
    (∀ s3, readPieces m.hint (oks.map fun p => (p.1, p.2.pa, n)) s2 [] false = (s3, .wait) →
      exec (r.1 m) s = .next (advance (waitRemote s3 (reqOf s1 op m.dst true false))))) ∧
  (∀ m s s2 s3 x bs, WellFormed (.ldu m) → performs s →
    let n := sizeBytes m.size
    let va := s.w.sreg m.base.toNat + onceBits 64 s .n64 none m.adr + m.lit.getD 0
    let op := MemOp.uload va n
    checkAligned .read n va.toNat (asNoted s op m.dst false false) = (s2, .ok x) → readPiece s2 .default x.pa n = (s3, .ok bs) →
    exec (.ldu m) s = .next (advance (deliver (dropRemotes s3 s3.w.id) (reqOf s op m.dst false false) 1 fun _ => leNat bs))) ∧
  (∀ m s s1, WellFormed (.lds m) → prep s [(m.adr, 1)] [(m.dst, sizeRegs m.size)] = .go s1 → performs s1 →
    let n := sizeBytes m.size
    let off := perLane (laneAddr s1 m.lit m.adr m.base n)
    let op := MemOp.scratchLoad off n
    (∀ l < 128, hasLane (s1.lanes &&& ~~~ s1.w.helpers) l → (off.getD l 0).toNat % n = 0) →
    exec (.lds m) s = .next (advance (deliver (asNoted s1 op m.dst true false) (reqOf s1 op m.dst true false) (max 1 (n / 4)) fun l =>
      if (off.getD l 0).toNat + n ≤ scratchSize s1 ∧ (off.getD l 0).toNat % n = 0 then mreadLE (scratchMem s1) (off.getD l 0).toNat n else 0))) ∧
  (∀ s rs, s.w.wake = .remote rs → (∃ r ∈ rs, (∃ x, performReq s r = .done (.wait x)) ∨ performReq s r = .stall) →
    exec (.loadReturn s.w.id) s = .next s) ∧
  (∀ s r t, s.w.wake = .remote [r] → (∀ x, performReq s r ≠ .done (.wait x)) → performReq s r ≠ .stall →
    performReq (s.modW fun w => { w with wake := .ready, iss := { Issue.idle with next := w.o } }) r = .done (.ok t) →
    t.w.iss.poison = none → t.w.iss.stalled = false → exec (.loadReturn s.w.id) s = .next (popAll t))

/-- 06 R124, R130, R131, 05 R110, R111: a read by a warp of this device's own memory returns what `seen` says, its own writes included,
and changes only caches, so that every byte reads afterwards as before, while the core's L1 has room; PRF changes nothing that a read
returns and never traps. A line that leaves L1 takes its dirty bytes home, and changes no other byte there. -/
def Obligations.ReadsReturnWhatIsSeen : Prop :=
  (∀ s hint pa n, region pa < 3 → poisoned s s.ctx pa n = false → s.w.isSeq = true ∨ roomFor s 1 →
    ∃ t bs, readPiece s hint pa n = (t, .ok bs) ∧ bs.length = n ∧ onlyCaches s t ∧
      ∀ i < n, pa % 128 + i < 128 → bs.getD i 0 = seen s (pa + i)) ∧
  (∀ s hint (ps : List (Nat × Nat × Nat)), (∀ p ∈ ps, region p.2.1 < 3 ∧ poisoned s s.ctx p.2.1 p.2.2 = false) →
    s.w.isSeq = true ∨ roomFor s ps.length →
    ∃ t rs, readPieces hint ps s [] false = (t, .ok rs) ∧ onlyCaches s t ∧ rs.map (·.1) = ps.map (·.1) ∧
      ∀ k < ps.length, ∀ i < (ps.getD k (0, 0, 0)).2.2, (ps.getD k (0, 0, 0)).2.1 % 128 + i < 128 →
        (rs.getD k (0, [])).2.getD i 0 = seen s ((ps.getD k (0, 0, 0)).2.1 + i)) ∧
  (∀ lit adr base hint s s1, WellFormed (.prf lit adr base hint) → prep s [(adr, 1)] [] = .go s1 →
    ∃ t, exec (.prf lit adr base hint) s = .next t ∧ t.w = { s1.w with o := s1.w.iss.next } ∧
      t = { s1 with w := t.w, cores := t.cores, towers := t.towers, free := t.free, mem := t.mem, poison := t.poison } ∧
      (roomFor s1 (maskLanes s1.lanes).length → t.mem = s1.mem ∧ t.poison = s1.poison ∧ ∀ a, seen t a = seen s1 a) ∧
      ∀ l s2 x, maskLanes s1.lanes = [l] →
        translatePrefetch s1 s1.walker s1.ctx .read (laneAddr s1 lit adr base 1 l).toNat = (s2, .ok x) →
        region x.pa < 2 → ∃ k ∈ (getCore t s1.core).lines, k.ctx = s1.ctx ∧ k.pa = x.pa / 128 * 128 ∧ k.gen = (getCore t s1.core).gen) ∧
  (∀ s c l, s.memOk → let t := evictLine s c l
    t.memOk ∧ (∀ a, mread t.mem a =
      if l.pa ≤ a ∧ a < l.pa + 128 ∧ l.dirty.getLsbD (a - l.pa) = true then l.bytes.getD (a - l.pa) 0 else mread s.mem a) ∧
    (∀ x, x ∈ (getCore t c).lines ↔ x ∈ (getCore s c).lines ∧ ¬ (x.ctx = l.ctx ∧ x.pa = l.pa)) ∧
    t = { s with cores := t.cores, towers := t.towers, mem := t.mem, poison := t.poison })

/-- 06 R120, R124, R126, R127, R131: ST, ST64, NTST, STU and STS. Once the lanes pass, each lane's bytes are stored at its address,
in ascending order of lanes, so that the highest lane's stand; STS out of range writes nothing. -/
def Obligations.Stores : Prop :=
  (∀ r ∈ storeRules, ∀ m s s1 s2 oks, WellFormed (r.1 m) → prep s [(m.adr, r.2.1), (m.src, sizeRegs m.size)] [] = .go s1 → performs s1 →
    let n := sizeBytes m.size
    let va := perLane (r.2.2.2 s1 m)
    let op := MemOp.store va n (perLane (dataOf s1.w m.src (sizeRegs m.size))) m.hint r.2.2.1
    laneChecks .write n va (s1.lanes &&& ~~~ s1.w.helpers) (asNoted s1 op .discard false false) = (s2, oks, []) →
    exec (r.1 m) s = .next (advance (oks.foldl (fun s p =>
      if r.2.2.1 then writeNt s p.2.pa (storeBytes s1 m p.1) else writePiece s m.hint p.2.pa (storeBytes s1 m p.1)) s2))) ∧
  (∀ m s s2 x, WellFormed (.stu m) → performs s →
    let n := sizeBytes m.size
    let va := s.w.sreg m.base.toNat + onceBits 64 s .n64 none m.adr + m.lit.getD 0
    let v := onceBits 64 s .n64 none m.src
    checkAligned .write n va.toNat (asNoted s (.ustore va n v.toNat) .discard false false) = (s2, .ok x) →
    exec (.stu m) s = .next (advance (writePiece s2 .default x.pa ((List.range n).map fun i => v.extractLsb' (8 * i) 8)))) ∧
  (∀ m s s1 g, WellFormed (.sts m) → prep s [(m.adr, 1), (m.src, sizeRegs m.size)] [] = .go s1 → s1.group = some g → performs s1 →
    let n := sizeBytes m.size
    let off := perLane (laneAddr s1 m.lit m.adr m.base n)
    let lanes := maskLanes (s1.lanes &&& ~~~ s1.w.helpers)
    (∀ l ∈ lanes, (off.getD l 0).toNat % n = 0) →
    ∃ t g', exec (.sts m) s = .next t ∧ t.group = some g' ∧ g' = { g with mem := g'.mem } ∧
      t = { s1 with w := t.w, groups := t.groups } ∧ t.w = { s1.w with o := s1.w.iss.next, iss := t.w.iss, logQueue := t.w.logQueue } ∧
      (g.mem.wf = true → g'.mem.wf = true ∧ ∀ a, mread g'.mem a = lastWrite ((lanes.filter fun l => decide ((off.getD l 0).toNat + n ≤ g.scratch * 1024)).map fun l =>
        ((off.getD l 0).toNat, storeBytes s1 m l)) a (mread g.mem a)))

/-- 05 R110, R111, 06 R124, R131, R132: what one store changes. In regions 0 and 1 the stored bytes read as stored, by the warp, and
every other byte as before; an ordinary store changes no byte at its home, and an NTST waits until NTDRAIN performs it there. Region 2
is written at the storage, and regions 3 and 4 by a message or a request. -/
def Obligations.StoresAreSeen : Prop :=
  ∀ s hint pa bs, s.memOk →
    (pa / 2 ^ 48 < 2 → pa % 128 + bs.length ≤ 128 → s.w.isSeq = false → inStep s pa →
      (roomFor s 1 →
       let t := writePiece s hint pa bs
       (∀ a, seen t a = if pa ≤ a ∧ a < pa + bs.length then bs.getD (a - pa) 0 else seen s a) ∧
       t = { s with w := { s.w with ntst := t.w.ntst }, cores := t.cores, towers := t.towers, mem := t.mem, poison := t.poison } ∧
       (s.w.ntst = [] → t.w = s.w ∧ t.mem = s.mem ∧ t.poison = s.poison)) ∧
      (oneCopy s pa →
       let t := writeNt s pa bs
       (∀ a, seen t a = if pa ≤ a ∧ a < pa + bs.length then bs.getD (a - pa) 0 else seen s a) ∧
       t = { s with w := { s.w with ntst := t.w.ntst }, cores := t.cores, towers := t.towers, mem := t.mem, poison := t.poison } ∧
       (∀ a, a / 128 ≠ pa / 128 → mread t.mem a = mread s.mem a) ∧
       ((∀ q ∈ s.w.ntst, region q.1.toNat < 2) → ∃ u, exec .ntdrain t = .next u ∧ u.w.ntst = [] ∧ u.w.o = s.w.iss.next ∧
         ∀ i < bs.length, mread u.mem (pa + i) = bs.getD i 0))) ∧
    (s.w.isSeq = true → region pa < 3 → writePiece s hint pa bs = physWrite s s.ctx s.w.home.cls pa bs) ∧
    (region pa = 2 → s.w.ntst = [] → writePiece s hint pa bs = physWrite s s.ctx s.w.home.cls pa bs) ∧
    (3 ≤ region pa → writePiece s hint pa bs = remoteWrite s s.w.id pa bs ∧ writeNt s pa bs = remoteWrite s s.w.id pa bs)

/-- 06 R120, R135 to R137: the atomics in both forms. Each lane that writes has its read-modify-write performed at the home, in ascending
order; .rel writes the core's bytes of the context back before, .acq advances its generation after; the old values are delivered, or
discarded. One lane's atomic returns the bytes at the home, the warp's own stores included, its new value stands at the home and is what
the warp reads next, and no byte of another line changes at its home. -/
def Obligations.Atomics : Prop :=
  ((∀ r ∈ atomicRules, ∀ a s s1 s2 oks, WellFormed (r.1 a) →
     let x := atomParts a
     prep s x.srcs [(x.dst, x.n / 4)] = .go s1 → performs s1 →
     let op := x.op r.2.1 s1
     let returns := x.dst != .discard
     let va := perLane (laneAddr s1 x.lit x.adr x.sb x.n)
     checkLanes (fun s l => checkAtomic x.n (va.getD l 0).toNat s) (maskLanes (writers s1)) (asNoted s1 op x.dst returns x.tr) [] []
       = (s2, oks, []) →
     ∀ sh, (homePieces (oks.map fun p => (p.1, p.2.pa, x.n)) s2 false = (sh, .wait) →
       exec (r.1 a) s = .next (advance (waitRemote sh (reqOf s1 op x.dst returns x.tr)))) ∧
     (homePieces (oks.map fun p => (p.1, p.2.pa, x.n)) s2 false = (sh, .ok ()) →
     let s3 := if x.ord.getLsbD 1 ∧ oks ≠ [] then writeBackCtx sh sh.core sh.ctx else sh
     ∀ s4 out, atomicLanes r.2.1 x.sgn x.n (perLane (x.d s1)) (perLane (x.c s1)) oks s3 [] [] = (s4, out) →
       let s5 := if x.ord.getLsbD 0 ∧ oks ≠ [] then genBump s4 s4.core else s4
       exec (r.1 a) s = .next (advance (deliver (dropRemotes s5 s5.w.id) (reqOf s1 op x.dst returns x.tr) (x.n / 4) (laneValue out))))) ∧
   (∀ r ∈ atomicRules, ∀ sg n (old d c : BitVec n), (n = 32 ∨ n = 64 ∧ r.2.1 ≠ .fadd) →
     BitVec.ofNat n (atomicNew r.2.1 sg n old.toNat d.toNat c.toNat) = r.2.2 n sg old d c)) ∧
  (∀ s op sgn n d c l (x : Xlat), s.memOk → n = 4 ∨ n = 8 → x.pa / 2 ^ 48 < 2 → x.pa % 128 + n ≤ 128 → oneCopy s x.pa → inStep s x.pa →
     s.w.isSeq = false → s.w.ntst = [] →
     ∃ t old, atomicLanes op sgn n d c [(l, x)] s [] [] = (t, [(l, old)]) ∧
       old = (List.range n).map (fun i => atHome s (x.pa + i)) ∧
       let new := leBytes n (atomicNew op sgn (8 * n) (leNat old) (d.getD l 0) (c.getD l 0))
       (∀ i < n, mread t.mem (x.pa + i) = new.getD i 0) ∧ (∀ a, a / 128 ≠ x.pa / 128 → mread t.mem a = mread s.mem a) ∧
       (∀ a, seen t a = if x.pa ≤ a ∧ a < x.pa + n then new.getD (a - x.pa) 0 else seen s a) ∧
       t = { s with cores := t.cores, towers := t.towers, mem := t.mem, poison := t.poison })

/-- 06 R128, R141, R142, 04 R91 to R95: LDE, STE, LDT and STT. Once every lane's element, and for LDT and STT its record and bounds,
pass the checks, loads deliver decoded elements, or PAD, and stores encode each lane's value into its element. -/
def Obligations.ElementAccesses : Prop :=
  (∀ m s s1 s2 s3 oks bad rs, WellFormed (.lde m) → prep s [(m.adr, 1)] [(m.dst, 1)] = .go s1 → performs s1 →
    let b0 := s1.w.sreg m.base.toNat + m.lit.getD 0
    let e := srcList s1 .n32 none m.adr
    let op := MemOp.loadElem b0 e m.hint
    checkLanes (fun s l => elemCheck s .read b0.toNat (e.getD l 0).toNat none) (maskLanes s1.lanes) (asNoted s1 op m.dst true false) [] []
      = (s2, oks, bad) → raisedOnly s2 bad = [] → readPieces m.hint (oks.flatMap elemReads) s2 [] false = (s3, .ok rs) →
    exec (.lde m) s = .next (advance (deliver (dropRemotes s3 s3.w.id) (reqOf s1 op m.dst true false) 1 fun l =>
      ((oks.find? fun p => p.1 == l).elim 0 fun p => (elemDecoded rs p).toNat)))) ∧
  (∀ lit h c d tr s s1 s2 s3 oks bad rs, WellFormed (.ldt lit h c d tr) → prep s ((h, 1) :: coordSrcs s.w c) [(d, 1)] = .go s1 → performs s1 →
    let hs := srcList s1 .b32 lit h
    let op := MemOp.ldt hs (coords s1.w c)
    let returns := d != .discard
    checkLanes (fun s l => layoutCheck .read (hs.getD l 0) (coords s1.w c) l s) (maskLanes s1.lanes) (asNoted s1 op d returns tr) [] []
      = (s2, oks, bad) → raisedOnly s2 bad = [] → layoutStop oks = (none, false) →
    readPieces .default ((layoutElems oks).flatMap elemReads) s2 [] false = (s3, .ok rs) →
    exec (.ldt lit h c d tr) s = .next (advance (deliver (dropRemotes s3 s3.w.id) (reqOf s1 op d returns tr) 1 fun l =>
      (((layoutElems oks).find? fun p => p.1 == l).elim (layoutPad oks l) fun p => (elemDecoded rs p).toNat)))) ∧
  (∀ m s s1 s2 s3 s4 oks rs f, WellFormed (.ste m) → prep s [(m.adr, 1), (m.src, 1)] [] = .go s1 → performs s1 →
    let b0 := s1.w.sreg m.base.toNat + m.lit.getD 0
    let e := srcList s1 .n32 none m.adr
    let x := srcList s1 .b32 none m.src
    checkLanes (fun s l => elemCheck s .write b0.toNat (e.getD l 0).toNat none) (maskLanes (writers s1))
      (asNoted s1 (.storeElem b0 e x m.hint) .discard false false) [] [] = (s2, oks, []) →
    readPieces m.hint (oks.flatMap storeReads) s2 [] false = (s3, .ok rs) → storeElems m.hint (fun _ => .rne) x rs oks s3 [] 0 = (s4, f) →
    exec (.ste m) s = .next (advance (raiseFlags (dropRemotes s4 s4.w.id) f))) ∧
  (∀ lit h c src rnd tr s s1 s2 s3 s4 oks rs f, WellFormed (.stt lit h c src rnd tr) →
    prep s ((h, 1) :: (src, 1) :: coordSrcs s.w c) [] = .go s1 → performs s1 →
    let hs := srcList s1 .b32 lit h
    let x := srcList s1 .b32 lit src
    let op := MemOp.stt hs (coords s1.w c) x (fixedRnd s1.w rnd) { s1.w.seed with draw := s1.w.drawIndex }
    checkLanes (fun s l => layoutCheck .write (hs.getD l 0) (coords s1.w c) l s) (maskLanes (writers s1))
      (asNoted (drawIf s1 rnd (s1.lanes != 0)) op .discard false false) [] [] = (s2, oks, []) → layoutStop oks = (none, false) →
    readPieces .default ((layoutElems oks).flatMap storeReads) s2 [] false = (s3, .ok rs) →
    storeElems .default (fun l => s1.w.mode rnd l) x rs (layoutElems oks) s3 [] 0 = (s4, f) →
    exec (.stt lit h c src rnd tr) s = .next (advance (raiseFlags (dropRemotes s4 s4.w.id) f)))

/-- 04 R88, R89, R91, R96: elements lie where Table 04-5 and R89 say, wholly within their sectors, clear of the scale and of each
other; writing one changes its bits alone, for t6 and i4 at the home. -/
def Obligations.ElementsHaveTheirPlaces : Prop :=
  (∀ p ∈ elementPages, ∀ e, let x := located p.1 p.2 e
    locate p.1 p.2 e = (32 * x.1, x.2.1, 32 * x.2.2) ∧ x.2.1 + (sectorTable p.1).1 ≤ 256 ∧
    (p.2 ≠ 0 → x.1 = x.2.2 → 8 ≤ x.2.1) ∧
    ∀ e', e ≠ e' → let y := located p.1 p.2 e'
      x.1 ≠ y.1 ∨ x.2.1 + (sectorTable p.1).1 ≤ y.2.1 ∨ y.2.1 + (sectorTable p.1).1 ≤ x.2.1) ∧
  (∀ s k b0 e s' p, elemCheck s k b0 e none = (s', .ok p) →
    b0 % (32 * sectorsOf p.geom) = 0 ∧ 1 ≤ p.fmt ∧ p.fmt ≤ 7 ∧ p.lo = (locate p.fmt p.geom e).2.1 ∧ p.pa % 32 = 0 ∧ (p.scale.isSome ↔ p.geom ≠ 0)) ∧
  (∀ s hint (p : ElemAt) v, s.memOk → s.w.isSeq = false → roomFor s 1 → inStep s p.pa → (p.fmt, p.geom) ∈ elementPages → p.pa / 2 ^ 48 < 2 → p.pa % 32 = 0 → p.lo + elemWidth p.fmt ≤ 256 →
    (p.fmt ≠ 2 ∧ p.fmt ≠ 6 → p.lo % 8 = 0) → oneCopy s p.pa → s.w.ntst = [] →
    let t := (writeElem s hint p [] v).1
    let whole := p.fmt ≠ 2 ∧ p.fmt ≠ 6
    let held (i : Nat) : Prop := p.lo ≤ i ∧ i < p.lo + elemWidth p.fmt
    (∀ i < 256, held i → (seen t (p.pa + i / 8)).getLsbD (i % 8) = v.testBit (i - p.lo)) ∧
    (∀ i < 256, ¬ held i → ¬ whole → (∃ j, held j ∧ j / 8 = i / 8) →
      (seen t (p.pa + i / 8)).getLsbD (i % 8) = (atHome s (p.pa + i / 8)).getLsbD (i % 8)) ∧
    (∀ a, (∀ j, held j → a ≠ p.pa + j / 8) → seen t a = seen s a) ∧
    (¬ whole → ∀ i < 256, held i → (mread t.mem (p.pa + i / 8)).getLsbD (i % 8) = v.testBit (i - p.lo)))

/-- 06 R139, R140, R142: LHBIND, LHINV and LHQ. -/
def Obligations.LayoutHandles : Prop :=
  (∀ lit h tr s, WellFormed (.lhinv lit h tr) → performs s →
    let n := onceBits 32 s .b32 lit h
    let s0 := asNoted s (.lhinv n) .discard false false
    handleOk s n = true → ∀ s1 x, xlateLane s0 .read .read (recordVA s n) 64 = (s1, .ok x) →
    exec (.lhinv lit h tr) s = .next (advance (invalidateRecord s1 n x.pa))) ∧
  (∀ lit h src tr s, WellFormed (.lhbind lit h src tr) → performs s →
    let n := onceBits 32 s .b32 lit h
    let va := onceBits 64 s .n64 lit src
    let s0 := asNoted s (.lhbind n va) .discard false false
    handleOk s n = true → ∀ s1 bs s2 x, vaLoadN (performNt s0 fun _ => true) va.toNat 64 = (s1, .ok bs) →
      xlateLane s1 .write .write (recordVA s n) 64 = (s2, .ok x) →
      exec (.lhbind lit h src tr) s = .next (advance (invalidateRecord (writePiece (dropRemotes s2 s2.w.id) .default x.pa bs) n x.pa))) ∧
  (∀ s h pa, let t := invalidateRecord s h pa
    (∀ c ∈ t.cores, ∀ x ∈ c.2.records, ¬ (x.1 = s.ctx ∧ x.2.1 = h.toNat)) ∧
    (∀ k x, x ∈ (getCore t k).records ↔ x ∈ (getCore s k).records ∧ ¬ (x.1 = s.ctx ∧ x.2.1 = h.toNat)) ∧
    t.w = { s.w with ntst := t.w.ntst }) ∧
  (∀ s h s1 x bs, (getCore s s.core).records.find? (fun x => x.1 == s.ctx && x.2.1 == h.toNat) = none →
    xlateLane s .read .read (recordVA s h) 64 = (s1, .ok x) →
    (readPiece (staleBytes s1 s1.core s1.ctx x.pa 64) .default x.pa 64).2 = .ok bs →
    ∃ t, readRecord s h = (t, .ok (BitVec.ofNat 512 (leNat bs))) ∧ readRecord t h = (t, .ok (BitVec.ofNat 512 (leNat bs)))) ∧
  (∀ s h, handleOk s h = true ↔ ∃ c, getCtx s s.ctx = some c ∧ h.toNat < 2 ^ 20 ∧ h.toNat < c.ltcount) ∧
  (∀ lit h k d tr s s1, WellFormed (.lhq lit h k d tr) → prep s [(h, 1), (k, 1)] [(d, 1)] = .go s1 → performs s1 →
    let hs := srcList s1 .b32 lit h
    let ks := srcList s1 .b32 lit k
    let op := MemOp.lhq hs ks
    let returns := d != .discard
    (∀ rec_ : Nat → BitVec 512, (∀ l < 128, hasLane s1.lanes l → handleOk s1 (hs.getD l 0) = true ∧
        (getCore s1 s1.core).records.find? (fun x => x.1 == s1.ctx && x.2.1 == (hs.getD l 0).toNat) = some (s1.ctx, (hs.getD l 0).toNat, rec_ l)) →
      exec (.lhq lit h k d tr) s = .next (advance (deliver (dropRemotes (asNoted s1 op d returns tr) s1.w.id) (reqOf s1 op d returns tr) 1 fun l =>
        if hasLane s1.lanes l then (rec_ l >>> (32 * ((ks.getD l 0).toNat % 16))).toNat % 2 ^ 32 else 0))))

/-- 06 R133, R134, R137: WAITMEM reads the word at its home, the core's own bytes written back first; met, the warp goes on, and with ACQ
the core's generation advances; not met, it waits and looks again. -/
def Obligations.MemoryWaits : Prop :=
  (∀ (lit : Bool) (sv : W64) (w64 acq : Bool) cond sa s, let n := if w64 then 8 else 4
    let i := if lit then Instr.waitmemLit sv w64 acq cond sa else .waitmem (sv.setWidth 6) w64 acq cond sa
    let v := if lit then sv else s.w.sreg (sv.setWidth 6).toNat
    let a := s.w.sreg sa.toNat
    let op := MemOp.waitmem a n cond v acq
    let r := reqOf s op .discard false false
    WellFormed i → performs s → ∀ s1, (pollMem (asNoted s op .discard false false) a n cond v = .met s1 →
        exec i s = .next (advance (if acq then genBump s1 s1.core else s1))) ∧
      (pollMem (asNoted s op .discard false false) a n cond v = .unmet s1 →
        exec i s = .next (advance (s1.modW fun w => { w with wake := .waitmem r (s1.clock + 2048) })))) ∧
  (∀ s r a n cond v acq again s1, s.w.wake = .waitmem r again → r.op = .waitmem a n cond v acq →
    (pollMem s a n cond v = .met s1 →
      exec (.waitmemRecheck s.w.id) s = .next ((if acq then genBump s1 s1.core else s1).modW fun w => { w with wake := .ready })) ∧
    (pollMem s a n cond v = .unmet s1 → again ≤ s.clock →
      exec (.waitmemRecheck s.w.id) s = .next (s1.modW fun w => { w with wake := .waitmem r (s1.clock + 2048) }))) ∧
  (∀ s a n cond v s1 x, n = 4 ∨ n = 8 → s1.memOk → checkAligned .read n a.toNat s = (s1, .ok x) → x.pa / 2 ^ 48 < 2 → x.pa % 128 + n ≤ 128 → s1.w.ntst = [] →
    s1.w.isSeq = false → oneCopy s1 x.pa → inStep s1 x.pa → poisoned s1 s1.ctx x.pa n = false →
    let word := leNat ((List.range n).map fun i => atHome s1 (x.pa + i))
    ∃ t, pollMem s a n cond v = (if waitCond (8 * n) cond word (v.toNat % 2 ^ (8 * n)) then .met t else .unmet t) ∧
      (∀ i < n, mread t.mem (x.pa + i) = atHome s1 (x.pa + i)) ∧ (∀ b, seen t b = seen s1 b) ∧ t.w = s1.w) ∧
  (∀ n (x y : BitVec n), waitCond n 0 x.toNat y.toNat = (x == y) ∧ waitCond n 1 x.toNat y.toNat = (x != y) ∧
    waitCond n 2 x.toNat y.toNat = y.ule x ∧ waitCond n 3 x.toNat y.toNat = x.ult y ∧
    (0 < n → waitCond n 4 x.toNat y.toNat = y.sle x ∧ waitCond n 5 x.toNat y.toNat = x.slt y))

/-- 06 R123, 03 R70, 15 R365: a vector access of which a lane faults performs no part of itself; its trap names the lanes and causes, and
the access stays in the log to be issued again. -/
def Obligations.AccessesFault : Prop :=
  (∀ r ∈ loadRules, ∀ m s s1 s2 oks bad, WellFormed (r.1 m) → prep s [(m.adr, r.2.1)] [(m.dst, sizeRegs m.size)] = .go s1 → performs s1 →
    let va := perLane (r.2.2 s1 m)
    let op := MemOp.load va (sizeBytes m.size) m.hint
    laneChecks .read (sizeBytes m.size) va s1.lanes (asNoted s1 op m.dst true false) = (s2, oks, bad) → raisedOnly s2 bad ≠ [] →
    (∀ p ∈ raisedOnly s2 bad, p.2.cause ≠ 0) →
    ∃ t, trapOfAccess s1 (raisedOnly s2 bad) t ∧
      exec (r.1 m) s = .next (takeTrap (s2.modW fun w => { w with log := [[reqOf s1 op m.dst true false]] }) t)) ∧
  (∀ r ∈ storeRules, ∀ m s s1 s2 oks bad, WellFormed (r.1 m) → prep s [(m.adr, r.2.1), (m.src, sizeRegs m.size)] [] = .go s1 → performs s1 →
    let va := perLane (r.2.2.2 s1 m)
    let op := MemOp.store va (sizeBytes m.size) (perLane (dataOf s1.w m.src (sizeRegs m.size))) m.hint r.2.2.1
    laneChecks .write (sizeBytes m.size) va (writers s1) (asNoted s1 op .discard false false) = (s2, oks, bad) → bad ≠ [] →
    (∀ p ∈ bad, p.2.cause ≠ 0) →
    ∃ t, trapOfAccess s1 bad t ∧ exec (r.1 m) s = .next (takeTrap (s2.modW fun w => { w with log := [[reqOf s1 op .discard false false]] }) t)) ∧
  (∀ k n va lanes s s2 oks bad, laneChecks k n va lanes s = (s2, oks, bad) →
    (∀ l, (∃ f, (l, f) ∈ bad) ∨ (∃ x, (l, x) ∈ oks) ↔ l ∈ maskLanes lanes) ∧
    (∀ p ∈ bad, (va.getD p.1 0).toNat % n ≠ 0 →
      p.2 = ⟨0x14, 0, (va.getD p.1 0).toNat / 2 ^ 32 % 2 ^ 25, (va.getD p.1 0).toNat % 2 ^ 32⟩) ∧
    (∀ p ∈ oks, (va.getD p.1 0).toNat % n = 0) ∧ onlyTranslation s s2)

/-- 03 R53, R56, R60 to R66: translation. An address of 2^57 or more faults; with nothing cached, five entries lead to the frame of a page,
whose A bit is set, and D for a write; a permitted access takes its address and attributes from the leaf; and translation changes nothing else.
PAGE_WALK walks an address below 2^57. -/
def Obligations.Translations : Prop :=
  (∀ s u ctx k va n, 2 ^ 57 ≤ va → translate s u ctx k va n = (s, .error (pfault 0x10 5 k false va))) ∧
  (∀ s u ctx k va n c e0 e1 e2 e3 e, va < 2 ^ 57 → getCtx s ctx = some c → (∀ i, u ≠ .control i) → (getTlbs s u).find (walkerGroup u) ctx va = none →
    (getTlbs s u).walks = [] →
    let at_ (table level : Nat) : Nat := table + 8 * (va / 2 ^ (48 - 9 * level) % 512)
    e0 = word64 s (at_ c.root 0) → e1 = word64 s (at_ (entPa e0) 1) → e2 = word64 s (at_ (entPa e1) 2) →
    e3 = word64 s (at_ (entPa e2) 3) → e = word64 s (at_ (entPa e3) 4) →
    (∀ p ∈ [(e0, 0), (e1, 1), (e2, 2), (e3, 3)], p.1 % 2 = 1 ∧ p.1 / 2 % 2 = 0 ∧ entryReserved false p.1 p.2 = false) →
    (∀ a ∈ [at_ c.root 0, at_ (entPa e0) 1, at_ (entPa e1) 2, at_ (entPa e2) 3, at_ (entPa e3) 4], poisoned s ctx a 8 = false) →
    e % 2 = 1 → e / 2 % 2 = 1 → entryReserved false e 4 = false →
    (k = .write ∨ k = .atomic → e / 4 % 2 = 1) → (k = .fetch → e / 8 % 2 = 1) → entPa e / 2 ^ 48 < 3 →
    ∃ t, translate s u ctx k va n = (t, .ok ⟨entPa e + va % 4096, e / 2 ^ 8 % 16, e / 2 ^ 12 % 4, e / 2 ^ 14 % 4⟩) ∧
      mread t.mem (at_ (entPa e3) 4) = BitVec.ofNat 8 e ||| (if k = .write ∨ k = .atomic then 0xC0 else 0x40) ∧
      ∀ a, a ≠ at_ (entPa e3) 4 → mread t.mem a = mread s.mem a) ∧
  (∀ s u ctx k va n, onlyTranslation s (translate s u ctx k va n).1) ∧
  (∀ u ctx (va : W64) k s, (2 ^ 57 ≤ va.toNat → exec (.pageWalk u ctx va k) s = .next s) ∧
    (va.toNat < 2 ^ 57 → exec (.pageWalk u ctx va k) s = .next (walk s u ctx k false va.toNat 1).1 ∧
      onlyTranslation s (walk s u ctx k false va.toNat 1).1))

/-! Engines, tiles and the matrix sequencer. -/

/-- 06 R146, R150 to R152: PUSH queues a command and counts it, or answers 1 and does nothing; YLDC and CWAIT go on once few enough of the
warp's commands are outstanding, and else wait; CTEST reads the count and takes the error bit. An engine that does not exist raises ENGINE_ID. -/
def Obligations.EngineInstructions : Prop :=
  ∀ s, ∀ r ∈ engineTable s,
    let eng := r.1; let e := r.2.1
    let count := tgetD s.w.counts eng.toNat 0
    let full := (∃ n, r.2.2 = some n ∧ n ≤ (engineQueue s e).length) ∨ 65535 ≤ count
    (∀ (sd : BitVec 6) (cb : BitVec 3), (full → exec (.push sd cb eng) s = .next (jump (setS s sd.toNat 1) s.w.iss.next)) ∧
      (¬ full → ∃ t c, exec (.push sd cb eng) s = .next t ∧ engineQueue t e = engineQueue s e ++ [c] ∧
        c.words = (List.range 8).map (fun i => s.w.sreg (8 * cb.toNat + i)) ∧ c.ctx = s.ctx ∧ c.issuer = some s.w.id ∧
        t.w = { s.w with o := s.w.iss.next, s := t.w.s, counts := t.w.counts } ∧
        (∀ i, t.w.sreg i = if i = sd.toNat then 0 else s.w.sreg i) ∧
        (∀ i, tgetD t.w.counts i 0 = if i = eng.toNat then count + 1 else tgetD s.w.counts i 0))) ∧
    (∀ k (off : W32), WellFormed (.yldc eng k off) →
      ((count ≤ (scalarOf s none k).toNat → exec (.yldc eng k off) s = .next (jump (genBump s s.core) (s.w.o + off))) ∧
       ((scalarOf s none k).toNat < count → exec (.yldc eng k off) s = .next (block s (.yldc eng.toNat (scalarOf s none k).toNat (s.w.o + off)))))) ∧
    (∀ k : BitVec 5, (count ≤ k.toNat → exec (.cwait k eng) s = .next (jump (genBump s s.core) s.w.iss.next)) ∧
      (k.toNat < count → ∃ t, exec (.cwait k eng) s = .next t ∧ t.w.parked = true ∧ t.w.o = s.w.o ∧ t.w.iss.stalled = true ∧ onlyWarp s t)) ∧
    (∀ sd : BitVec 6, ∃ t, exec (.ctest sd eng) s = .next t ∧
      t.w.sreg sd.toNat = BitVec.ofNat 64 (count + (if tgetD s.w.errors eng.toNat false then 65536 else 0)) ∧
      (tabWf 0 s.w.errors = true → tgetD t.w.errors eng.toNat false = false) ∧ (∀ i, i ≠ sd.toNat → t.w.sreg i = s.w.sreg i) ∧
      t.w = { s.w with o := s.w.iss.next, s := t.w.s, errors := t.w.errors } ∧ (getCore t s.core).gen = (getCore s s.core).gen + 1) ∧
    (∀ (bad : BitVec 4) sd cb k (kk : BitVec 5) off, 11 ≤ bad.toNat → let stop : Out := .next (raise0 s ENGINE_ID [])
      exec (.push sd cb bad) s = stop ∧ exec (.yldc bad k off) s = stop ∧ exec (.cwait kk bad) s = stop ∧ exec (.ctest sd bad) s = stop)

/-- 06 R147 to R150, 16 R393: the head command of a copy or DMA engine runs and completes; a fault, a wrong field or an unknown operation
completes it with its status; poison stops its context. NOTIFY sends event 6. Completion lowers the issuer's count, notes an error, and
leaves the record. FILL writes its pattern, and COPY the bytes of its source. -/
def Obligations.EngineCommands : Prop :=
  (∀ r ∈ copyRules, ∀ e s c rest, copies e → engineQueue s e = c :: rest → cmdOp c = r.2 → engineRuns s c.ctx = true →
    (∀ t n f, runCmd s ⟨e, c.ctx⟩ c = (t, n, f, none) → exec (r.1 e) s = .next (finishHead t e c ⟨0, f.toNat, n, 0, 0⟩)) ∧
    (∀ t n f k fva fw, runCmd s ⟨e, c.ctx⟩ c = (t, n, f, some (.status k fva fw)) →
      exec (r.1 e) s = .next (finishHead t e c ⟨k, f.toNat, if k = 1 ∨ k = 5 then 0 else n, fva, fw⟩)) ∧
    (∀ t n f pa, runCmd s ⟨e, c.ctx⟩ c = (t, n, f, some (.poison pa)) → exec (r.1 e) s = .next (poisonStop t c.ctx pa 0)) ∧
    (copyFieldsOk c = false → runCmd s ⟨e, c.ctx⟩ c = (s, 0, 0, some (.status 1 0 0)))) ∧
  (∀ e s c rest, copies e → engineQueue s e = c :: rest → 5 ≤ cmdOp c → engineRuns s c.ctx = true →
    exec (.copyCmd e) s = .next (finishHead s e c (Report.plain 1))) ∧
  (∀ s c rest, engineQueue s .host = c :: rest → cmdOp c = 16 → engineRuns s c.ctx = true → cmdPlain c = true →
    exec .notify s = .next (finishHead (sendEvent s c.ctx 6 [cmdTag c, cmdWord c 1]) .host c (Report.plain 0))) ∧
  (∀ s u who c r, c.issuer = some s.w.id → s.w.home.resident = true → c.packet = none → cmdRec c = false →
    let t := finishCmd s u who c r
    t.w = { s.w with counts := t.w.counts, errors := t.w.errors } ∧
    (∀ i, tgetD t.w.counts i 0 = if i = c.eng then tgetD s.w.counts i 0 - 1 else tgetD s.w.counts i 0) ∧
    (∀ i, tgetD t.w.errors i false = (tgetD s.w.errors i false || (i == c.eng && r.status != 0))) ∧ t.mem = s.mem) ∧
  (∀ s e c r s1 x, cmdRec c = true → cmdWord c 7 % 32 = 0 → c.issuer = none → c.packet = none → s.memOk →
    translate (pulse s c.ctx) (.engine e) c.ctx .write (cmdWord c 7 % 2 ^ 64) 32 = (s1, .ok x) → region x.pa < 2 →
    mreadN (finishCmd s (.engine e) (engineKey e) c r).mem x.pa 32 = reportBytes r (cmdTag c)) ∧
  (∀ s g c s1 x, opTaken g.e 2 = true → cmdOp c = 2 → copyFieldsOk c = true → piecesOf (cmdWord c 2) (cmdWord c 3) = [(cmdWord c 2, cmdWord c 3)] →
    translate s (.engine g.e) g.ctx .write (cmdWord c 2 % 2 ^ 64) (cmdWord c 3) = (s1, .ok x) → region x.pa < 2 → s.memOk →
    ∃ t, runCmd s g c = (t, cmdWord c 3, 0, none) ∧ (∀ i < cmdWord c 3, mread t.mem (x.pa + i) = BitVec.ofNat 8 (cmdWord c 6 / 2 ^ (8 * (i % 4)))) ∧
      ∀ a, ¬ (x.pa ≤ a ∧ a < x.pa + cmdWord c 3) → mread t.mem a = mread s1.mem a) ∧
  (∀ s g c s1 s2 x bs, opTaken g.e 0 = true → cmdOp c = 0 → copyFieldsOk c = true →
    vaMeet (cmdWord c 1) (cmdWord c 3) (cmdWord c 2) (cmdWord c 3) = false →
    piecesOf (cmdWord c 2) (cmdWord c 3) = [(cmdWord c 2, cmdWord c 3)] →
    engReadAll s g .read (piecesOf (cmdWord c 1) (cmdWord c 3)) [] = (s1, .ok bs) →
    (engReadAll (withStorage s s1) g .read (piecesOf (cmdWord c 1) (cmdWord c 3)) []).2 = .ok bs →
    bs.length = cmdWord c 3 →
    translate s1 (.engine g.e) g.ctx .write (cmdWord c 2 % 2 ^ 64) (cmdWord c 3) = (s2, .ok x) → region x.pa < 2 → s2.memOk →
    ∃ t, runCmd s g c = (t, cmdWord c 3, 0, none) ∧ (∀ i < cmdWord c 3, mread t.mem (x.pa + i) = bs.getD i 0) ∧
      ∀ a, ¬ (x.pa ≤ a ∧ a < x.pa + cmdWord c 3) → mread t.mem a = mread s2.mem a)

/-- 09 R203, R223 to R226, 06 R143 to R145: TLDV, TSTV, MWAIT, MTEST, and the issue and completion of TLDG and TSTG; a tile that the warp may
not name raises TILE_OWNERSHIP. -/
def Obligations.TileInstructions : Prop :=
  (∀ lit tile slice d tr s s1, WellFormed (.tldv lit tile slice d tr) → tileDenied s ((scalarOf s lit tile).toNat % 128) = false →
    prep s [] [(d, 1)] = .go s1 → s1.poison = [] →
    let a := 8192 * ((scalarOf s lit tile).toNat % 128) + 512 * ((scalarOf s lit slice).toNat % 16)
    exec (.tldv lit tile slice d tr) s = .next (advance (putResult s1 d tr [overLanes s1 fun l =>
      BitVec.ofNat 32 (mreadLE (getCluster s s.w.cluster).tile (a + 4 * l) 4)]))) ∧
  (∀ p lit tile slice src tr s s1, WellFormed (.tstv p lit tile slice src tr) → tileDenied s ((scalarOf s lit tile).toNat % 128) = false →
    prep s [(src, 1)] [] = .go s1 → (getCluster s s.w.cluster).tile.wf = true → (s1.w.iss.all = s1.lanes) →
    let a := 8192 * ((scalarOf s lit tile).toNat % 128) + 512 * ((scalarOf s lit slice).toNat % 16)
    let k := getCluster s s.w.cluster
    ∃ t, exec (.tstv p lit tile slice src tr) s = .next t ∧ t = { s1 with w := { s1.w with o := s1.w.iss.next }, clusters := t.clusters, poison := t.poison } ∧
      let k' := getCluster t s.w.cluster
      k' = { k with tile := k'.tile, feed := if p then k.feed + 1 else k.feed } ∧
      (∀ l < 128, ∀ b < 4, mread k'.tile (a + 4 * l + b) =
        if hasLane (writers s1) l then (srcBits 32 s1 .b32 lit src l).extractLsb' (8 * b) 8 else mread k.tile (a + 4 * l + b)) ∧
      ∀ x, ¬ (a ≤ x ∧ x < a + 512) → mread k'.tile x = mread k.tile x) ∧
  (∀ lit b tr s, WellFormed (.mwait lit b tr) → marked s = true → let x := (scalarOf s lit b).setWidth 32
    (hasReached (getCluster s s.w.cluster).done x → exec (.mwait lit b tr) s = .next (jump (genBump s s.core) s.w.iss.next)) ∧
    (¬ hasReached (getCluster s s.w.cluster).done x →
      exec (.mwait lit b tr) s = .next (s.modW fun w => { w with o := s.w.iss.next, wake := .mwait x }))) ∧
  (∀ sd lit b tr s, WellFormed (.mtest sd lit b tr) → marked s = true → let x := (scalarOf s lit b).setWidth 32
    (hasReached (getCluster s s.w.cluster).done x → exec (.mtest sd lit b tr) s = .next (jump (setS (genBump s s.core) sd.toNat 1) s.w.iss.next)) ∧
    (¬ hasReached (getCluster s s.w.cluster).done x → exec (.mtest sd lit b tr) s = .next (jump (setS s sd.toNat 0) s.w.iss.next))) ∧
  (∀ r ∈ [(Instr.tldg, false), (Instr.tstg, true)], ∀ (t : TileRun) s, WellFormed (r.1 t) → tileDenied s t.tile.toNat = false →
    let n := (scalarOf s t.lit t.n).toNat
    let size := if t.ty = .f16 ∨ t.ty = .bf16 then 2 else 4
    let b0 := scalarOf s t.lit t.b0
    let op := MemOp.tile r.2 t.tile.toNat t.ofs.toNat t.ty (fixedRnd s.w t.rnd) b0 (scalarOf s t.lit t.e0) (scalarOf s t.lit t.n) 0 0
    let q := reqOf s op .discard false false
    let s1 := asNoted s op .discard false false
    performs s → (32 * t.ofs.toNat + n * size ≤ 8192 → b0.toNat % 32 = 0 →
      exec (r.1 t) s = .next (s1.modW fun w => { w with o := s.w.iss.next, xfers := w.xfers ++ [q] })) ∧
    (8192 < 32 * t.ofs.toNat + n * size → ∃ x, x.cause = 0x15 ∧ x.mask = 1 ∧ x.mode = 1 ∧
      x.hq.map (fun v => v.getD 0 0) = [BitVec.ofNat 32 n, BitVec.ofNat 32 t.ofs.toNat, BitVec.ofNat 32 t.tile.toNat] ∧
      exec (r.1 t) s = .next (takeTrap (s1.modW fun w => { w with log := [[q]] }) x))) ∧
  (∀ s q rest st tile ofs ty rnd b0 e0 n done f0 t f, s.w.xfers = q :: rest → q.op = .tile st tile ofs ty rnd b0 e0 n done f0 →
    moveTile s st tile ofs ty rnd b0.toNat e0.toNat n.toNat done f0 = .ok t f →
    exec (.tileTransferComplete s.w.id) s = .next ((raiseFlags (dropRemotes t s.w.id) f).modW fun w => { w with xfers := rest })) ∧
  (∀ s tile ofs ty r b0 e0 s1 p sc bs, elemFind s .read b0 (e0 % 2 ^ 64) sc.1 sc.2 false = (s1, .ok p) → p.scale = none →
    (homePiece (homeFirst s1 p.pa 32) p.pa 32).2 = .ok bs → ty = .f32 ∨ ty = .i32 → (getCluster s1 s1.w.cluster).tile.wf = true → s1.w.ntst = [] →
    ∃ t, loadRunAll tile ofs ty r b0 e0 sc 1 0 s 0 = .ok t 0 ∧
      mreadLE (getCluster t t.w.cluster).tile (8192 * tile + 32 * ofs) 4 = (decodeElem p.fmt none (bitsAt (leNat bs) p.lo (elemWidth p.fmt))).toNat) ∧
  (∀ s tile, tileDenied s tile = false ↔ (∃ g, s.group = some g ∧ g.matrix = true) ∧ (tile = 127 ↔ s.w.handler = true)) ∧
  (∀ lit tile slice d src p tr s, let n := (scalarOf s lit tile).toNat % 128
    tileDenied s n = true → exec (.tldv lit tile slice d tr) s = .next (raise0 s TILE_OWNERSHIP [n]) ∧
      exec (.tstv p lit tile slice src tr) s = .next (raise0 s TILE_OWNERSHIP [n]))

/-- 09 R206, R208, R221, R222, R205: the sequencer hands a matrix operation to the datapath's queue, or stalls while 32 wait there; MBATCH closes
a batch; MWAITB and MWAITF wait for a counter (the sequencer reads at the homes, so that no copy of its own is made stale); a RUN command starts the idle sequencer, and a finished run completes it. -/
def Obligations.MatrixIssue : Prop :=
  (∀ lit a s, mtxOk lit a = true → ∀ r ∈ matrixOps s lit a, let k := getCluster s s.w.cluster
    (k.ops.length < 32 → exec r.1 s = .next (jump (setCluster s s.w.cluster { k with ops := k.ops ++ [(r.2, none)] }) s.w.iss.next)) ∧
    (32 ≤ k.ops.length → exec r.1 s = .next (stall s))) ∧
  (∀ ty lit a sd s, WellFormed (.mdrain ty lit a (some sd)) → (getCluster s s.w.cluster).ops.length < 32 →
    let k := getCluster s s.w.cluster
    exec (.mdrain ty lit a (some sd)) s = .next ((setCluster s s.w.cluster { k with ops := k.ops ++ [(.drain ty (scalarOf s lit a) (some sd), none)] }).modW
      fun w => { w with o := s.w.iss.next, scalars := sd.toNat :: w.scalars })) ∧
  (∀ d s, let k := getCluster s s.w.cluster
    ∃ t, exec (.mbatch d) s = .next t ∧ (getCluster t s.w.cluster).batch = k.batch + 1 ∧
      (getCluster t s.w.cluster).ops.map (·.1) = k.ops.map (·.1) ∧
      (∀ i < k.ops.length, ((getCluster t s.w.cluster).ops.getD i (.zero 0, none)).2 = some (((k.ops.getD i (.zero 0, none)).2).getD (k.batch + 1))) ∧
      t.w.o = s.w.iss.next ∧ (∀ i, t.w.sreg i = if d = some (BitVec.ofNat 6 i) ∧ i < 64 then (k.batch + 1).zeroExtend 64 else s.w.sreg i)) ∧
  (∀ lit a s, mtxOk lit a = true → let x := (scalarOf s lit a).setWidth 32; let k := getCluster s s.w.cluster
    (∀ r ∈ [(Instr.mwaitb lit a, k.done), (Instr.mwaitf lit a, k.feed)],
      (hasReached r.2 x → exec r.1 s = .next (jump s s.w.iss.next)) ∧ (¬ hasReached r.2 x → exec r.1 s = .next (stall s)))) ∧
  (∀ cl s c rest, s.w.id = cl → s.w.kind = .seq cl → s.w.live = false → engineQueue s (.matrix cl) = c :: rest → engineRuns s c.ctx = true →
    (runRefused s cl c = true → exec (.run cl) s = .next (finishHead s (.matrix cl) c (Report.plain 1))) ∧
    (runRefused s cl c = false → tabWf 0 (getCluster s cl).queues = true → ∃ t, exec (.run cl) s = .next t ∧ engineQueue t (.matrix cl) = rest ∧ t.w.live = true ∧
      t.w.iss.next = 0 ∧ t.w.o = 0 ∧ t.w.code.base = c.words.getD 1 0 ∧ t.w.sreg 0 = BitVec.ofNat 64 (cmdTag c) ∧
      (∀ i < 5, t.w.sreg (i + 1) = c.words.getD (i + 2) 0) ∧ (∀ i, 6 ≤ i → t.w.sreg i = 0) ∧ t.w.fp = ⟨0, false, 0⟩ ∧ t.w.seed = ⟨0, 0, 0, 0⟩ ∧
      t.w.slip = s.w.slip ∧ t.w.link = s.w.link)) ∧
  (∀ cl s, s.w.id = cl → s.w.kind = .seq cl → s.w.live = true → s.w.exited ≠ 0 → (getCluster s cl).ops = [] →
    let c := runCommand s.w
    exec (.runComplete cl) s = .next (finishCmd (s.modW fun w => { w with live := false, exited := 0 })
      (.engine (.matrix cl)) (engineKey (.matrix cl)) c (Report.plain 0)) ∧
    c.issuer = s.w.issuer ∧ cmdTag c = s.w.tag.toNat ∧ cmdRec c = s.w.recVA.isSome ∧ cmdWord c 7 = ((s.w.recVA).getD 0).toNat)

/-- 09 R206, R209 to R221, R229, R230: the datapath performs its oldest operation on the set; what MZERO, MDRAIN, MMUL and MLUT leave; a lookup sum is
the dot product with the weights of the bit-planes; integer sums are exact; batches complete in order; Isobar counts slips. -/
def Obligations.MatrixDatapath : Prop :=
  (∀ cl s op b rest ctx, (getCluster s cl).ops = (op, b) :: rest → (getCluster s cl).owner = some ctx → s.clock < (getCluster s cl).isobarAt →
    ((getCluster s cl).delayed = true → exec (.matrixOperationPerformed cl) s = .next s) ∧
    ((getCluster s cl).delayed = false → s.poison = [] → (getCluster s cl).badExp = [] → ∃ t, exec (.matrixOperationPerformed cl) s = .next t ∧ t.mem = s.mem ∧ t.poison = [] ∧
      let k' := getCluster t cl; let x := (performMop (getCluster s cl) op).1
      k'.ops = rest ∧ k'.tile = x.tile ∧ k'.acc = x.acc ∧ k'.cells = x.cells ∧ k'.segExp = x.segExp ∧ k'.abuf = x.abuf ∧ k'.lut = x.lut ∧
      k'.accFlags = x.accFlags ∧ k'.batch = (getCluster s cl).batch ∧ k'.done = (getCluster s cl).done ∧
      k'.activity = (getCluster s cl).activity + (performMop (getCluster s cl) op).2)) ∧
  (∀ k d, k.acc.wf = true → let x := (performMop k (.zero d)).1
    let named (a : Nat) : Prop := ∃ i ≤ fld d 5 5, a = (fld d 0 5 + i) % 32
    (∀ a, named a → tgetD x.accFlags a 0 = 0 ∨ tabWf 0 k.accFlags = false) ∧
    (∀ a < 32, ∀ i < 0x4000, mread x.acc (0x4000 * a + i) = if named a then 0 else mread k.acc (0x4000 * a + i)) ∧ x.tile = k.tile ∧ x.cells = k.cells) ∧
  (∀ k d sd, k.tile.wf = true → let x := (performMop k (.drain .f32 d sd)).1
    x.acc = k.acc ∧ x.accFlags = tput k.accFlags (fld d 0 5) (tgetD k.accFlags (fld d 0 5) 0) ∧
    ∀ a, mread x.tile a = if 8192 * fld d 5 7 ≤ a ∧ a < 8192 * fld d 5 7 + 8192 then
      mread k.acc (0x4000 * fld d 0 5 + 8192 * fld d 12 1 + (a - 8192 * fld d 5 7)) else mread k.tile a) ∧
  (∀ k d, k.acc.wf = true → let x := (performMop k (.mul d)).1
    (∀ i ≤ fld d 17 5, ∀ j ≤ fld d 6 6, ∀ c < 64,
      let m := (fld d 12 5 + i) % 32; let a := (fld d 22 5 + i) % 32; let row := (fld d 0 6 + j) % 64
      accWord x a row c = (accSteps (dotSeg k m row c) (segsOf (fld d 27 3) (fld d 30 3 + 1)) (accWord k a row c) 0).1 % 2 ^ 32) ∧
    (∀ a row c, a < 32 → row < 64 → c < 64 →
      (∀ i ≤ fld d 17 5, ∀ j ≤ fld d 6 6, ¬ (a = (fld d 22 5 + i) % 32 ∧ row = (fld d 0 6 + j) % 64)) → accWord x a row c = accWord k a row c) ∧
    x.tile = k.tile ∧ x.cells = k.cells ∧ x.abuf = k.abuf) ∧
  (∀ k m row c s, (dotSeg k m row c s).1 = ((List.range 32).map fun i =>
    (arowOf k row).q.getD (32 * s + i) 0 * (mread k.cells (0x4000 * m + 64 * (32 * s + i) + c)).toInt).sum) ∧
  (∀ k slot w m c s a, w = 1 ∨ w = 2 ∨ w = 4 → s < 8 → (slotOf k slot).sums = subsetSums a →
    (lutSeg k slot w m c s).1 = ((List.range 32).map fun i => a.q.getD (32 * s + i) 0 *
      weightOf w fun j => (mread k.cells (0x4000 * m + 64 * (32 * s + 4 * j + i / 4 / 2) + c)).getLsbD (4 * (i / 4 % 2) + i % 4)).sum) ∧
  (∀ k (mode : Nat) base c j g i, 1 ≤ mode → mode ≤ 3 → j < 2 ^ (mode - 1) → g < 8 → i < 4 →
    ((panelColumn k mode .i8 base c).1.getD (4 * j + g / 2) 0).testBit (4 * (g % 2) + i) = (mread k.tile (base + 64 * (4 * g + i) + c)).getLsbD j) ∧
  (∀ xs p q e, (∀ n m i, Fv.num n m i true ∉ xs) → alignSeg xs p = some (q, e) → q = xs.map (mantissa e) ∧ ∀ x ∈ xs, x.isNan = false ∧ x.isInf = false) ∧
  (∀ acc x : Int, acc.natAbs ≤ 2 ^ 24 → (acc + x).natAbs ≤ 2 ^ 24 → x.natAbs ≤ 2 ^ 23 →
    accStep (f32.round .rne true (intVal acc)).1 x (some 0) = ((f32.round .rne true (intVal (acc + x))).1, 0)) ∧
  (∀ acc x, accStep acc x none = (0x7FC00000, flIV)) ∧
  (∀ cl s, let k := getCluster s cl
    (k.done ≠ k.batch → (∀ x ∈ k.ops, x.2 ≠ some (k.done + 1)) → exec (.batchComplete cl) s = .next (setCluster s cl { k with done := k.done + 1 })) ∧
    (k.done = k.batch ∨ (∃ x ∈ k.ops, x.2 = some (k.done + 1)) → exec (.batchComplete cl) s = .next s)) ∧
  (∀ cl s, s.w.id = cl → let k := getCluster s cl
    let limit := k.lastAct + k.power.istep
    let want := min k.activity 2048
    let took := min want limit
    let after (slow : Bool) : Cluster := { k with
      activity := k.activity - took, lastAct := took, delayed := slow, isobarAt := (s.clock / 80 + 1) * 80
      charge := k.charge + (tgetD k.weights 0x15 16).toNat * took }
    (s.clock < k.isobarAt → exec (.isobarWindow cl) s = .next s) ∧
    (k.isobarAt ≤ s.clock → s.clock < k.isobarAt + 80 →
      (want ≤ limit → exec (.isobarWindow cl) s = .next (setCluster s cl (after false))) ∧
      (limit < want → ∃ t, exec (.isobarWindow cl) s = .next t ∧ t.w = { s.w with slip := s.w.slip + 1 } ∧ getCluster t cl = after true))) ∧
  (∀ cl s, exec (.cimScrub cl) s = .next (setCluster s cl { getCluster s cl with scrub := s.clock }))

/-! Threads, frames and barriers. -/

/-- 12 R294, R297, R298, R303 to R306, R310, R311: SPAWN and SPAWNU send their records, all of an issue or none; a record joins its bin
in order and counts in its parent's frame; NODEQ and FRAMEQ read bins and counters. A raster record goes to every raster unit, each of which
draws the tiles that it serves; that a unit without one of its tiles sees it too is the model's form (log 12). -/
def Obligations.SpawningThreads : Prop :=
  (∀ lit h n s s1 dest s2, WellFormed (.spawn lit h n) → let hv := scalarOf s lit h
    spawnNode s hv = (s1, dest) → (∀ x, dest ≠ .stop x) → prep s1 [(.vec n, dest.words)] [] = .go s2 →
    let ls := maskLanes (writers s2)
    let recs := ls.map fun l => (l, (List.range dest.words).map fun i => (s2.w.srcV (n.toNat + i)).lane l)
    let room := spawnRoom s2 hv.toNat dest ls && fragRoom s2 hv.toNat (recs.map (·.2))
    (ls = [] → exec (.spawn lit h n) s = .next (advance s2)) ∧
    (ls ≠ [] → room = false → exec (.spawn lit h n) s = .next (stall s2)) ∧
    (ls ≠ [] → room = true → exec (.spawn lit h n) s = .next (advance (emitRecords hv.toNat dest recs (writeBackCtx s2 s2.core s2.ctx))))) ∧
  (∀ lit h n s s1 dest, WellFormed (.spawnu lit h n) → let hv := scalarOf s lit h
    spawnNode s hv = (s1, dest) → (∀ x, dest ≠ .stop x) → let last := n.toNat + (dest.words + 1) / 2 - 1
    (63 < last → exec (.spawnu lit h n) s = .next (raise0 s1 REG_RANGE [0x200 + n.toNat])) ∧
    (last ≤ 63 → ∃ ws, ws.length = dest.words ∧
      (∀ i < dest.words, ws.getD i 0 = (s1.w.sreg (n.toNat + i / 2)).extractLsb' (32 * (i % 2)) 32) ∧
      let room := spawnRoom s1 hv.toNat dest [128] && fragRoom s1 hv.toNat [ws]
      exec (.spawnu lit h n) s = .next (if room then advance (emitRecord (writeBackCtx s1 s1.core s1.ctx) hv.toNat dest 128 ws) else stall s1))) ∧
  (∀ s h recs, h ≠ 0xFF01 → fragRoom s h recs = true) ∧
  (∀ s (h : W64), (2 ^ 16 ≤ h.toNat → spawnNode s h = (s, .stop (raise0 s ENGINE_ID [h.toNat % 2 ^ 32]))) ∧
    (h = 0xFF00 → spawnNode s h = (s, .unit 4)) ∧ (h = 0xFF01 → spawnNode s h = (s, .unit 8)) ∧
    (h.toNat < 2 ^ 16 → (0xFF02 ≤ h.toNat ∨ h.toNat < 0xFF00 ∧ ∀ c, getCtx s s.ctx = some c → c.ntcount ≤ h.toNat) →
      ∃ s1, (s1 = s ∨ s1 = writeBackCtx s s.core s.ctx) ∧ (spawnNode s h).2 = .stop (raise0 s1 ENGINE_ID [h.toNat]))) ∧
  (∀ s h dest slot ws f, getFrame s s.w.frame = some f → slot ≤ 128 → let t := emitRecord s h dest slot ws
    t.w = s.w ∧ t.mem = s.mem ∧
    (∃ f', getFrame t s.w.frame = some f' ∧ f' = { f with lanes := f'.lanes, warp := f'.warp } ∧
      (∀ l, laneCount f' l = laneCount f l + if l = slot ∧ slot < 128 then 1 else 0) ∧ f'.warp = f.warp + if slot = 128 then 1 else 0) ∧
    (∀ e, dest = .entry e → let r : BinRec := ⟨ws, s.w.frame, slot, 0, 0, 0, s.w.home.qi, s.w.home.prio, s.w.home.cls, []⟩
      (∀ i b, findBin (getCluster s s.w.cluster) s.ctx h = some (i, b) →
        tget (getCluster t s.w.cluster).bins i = some { b with recs := b.recs ++ [r] }) ∧
      (findBin (getCluster s s.w.cluster) s.ctx h = none → (getCluster s s.w.cluster).bins.length < 64 →
        ∃ i < 64, tget (getCluster s s.w.cluster).bins i = none ∧
          tget (getCluster t s.w.cluster).bins i = some ⟨s.ctx, h, [r], some (s.clock + nodeTimer e), 0⟩)) ∧
    (∀ n, dest = .unit n → let tw := s.w.cluster / 20; let r : Rec := ⟨ws, s.ctx, s.w.home.cls, s.w.frame, slot, s.uses + 1⟩
      (h = 0xFF00 → ∀ tower < 8, ∀ k < 4, tgetD (getTower t tower).raster k [] = tgetD (getTower s tower).raster k [] ++ [r]) ∧
      (h = 0xFF01 → (getTower t tw).frags = (getTower s tw).frags ++ [r]))) ∧
  (∀ s h e (rs : List (Nat × List W32)) i b, tabWf 0 (getCluster s s.w.cluster).bins = true →
    findBin (getCluster s s.w.cluster) s.ctx h = some (i, b) →
    tget (getCluster (emitRecords h (.entry e) rs s) s.w.cluster).bins i = some { b with recs := b.recs ++
      (rs.map fun r => ⟨r.2, s.w.frame, r.1, 0, 0, 0, s.w.home.qi, s.w.home.prio, s.w.home.cls, []⟩) }) ∧
  (∀ sh sd s s1 dest, spawnNode s (s.w.sreg sh.toNat) = (s1, dest) → (∀ x, dest ≠ .stop x) →
    let held := ((findBin (getCluster s1 s1.w.cluster) s1.ctx (s.w.sreg sh.toNat).toNat).map fun b => b.2.recs.length).getD 0
    let x := match dest with
      | .entry e => min held 0xFFFFFFFF + 2 ^ 32 * (nodeCount e - 1) + 2 ^ 39 * (nodeWords e - 1)
      | d => 2 ^ 39 * (d.words - 1)
    exec (.nodeq sh sd) s = .next (advance (setS s1 sd.toNat (BitVec.ofNat 64 x)))) ∧
  (∀ lane sd s f, getFrame s s.w.frame = some f → exec (.frameq lane sd) s =
    .next (advance (setS s sd.toNat (BitVec.ofNat 64 (if lane.toNat < 128 then laneCount f lane.toNat else f.warp)))))

/-- 12 R298, R299, R307 to R309, R317, Table 12-7: AWAIT, the barriers, the completion of a thread, and a stolen continuation. Of what else
the new core's L1 holds, lines may have to leave for the scratchpad that comes with the warp (05 R109). -/
def Obligations.AwaitAndBarriers : Prop :=
  (∀ s f, getFrame s s.w.frame = some f → let zero := f.warp = 0 ∧ ∀ l < 128, hasLane s.w.iss.all l → laneCount f l = 0
    (zero → exec .await s = .next (advance (genBump s s.core))) ∧
    (¬ zero → exec .await s = .next (advance (s.modW fun w => { w with wake := .await w.iss.all })))) ∧
  (∀ s gid g k n, inGroup s gid g → let me := s.w.home.index
    let b := (tget g.bars k.toNat).getD ⟨0, n.toNat, []⟩
    let need := if b.expected = 0 then liveWarps s g else b.expected
    let put (s : State) (bars : Tab Barrier) : State := setGroup s gid { g with bars := bars }
    let here := tput g.bars k.toNat ⟨b.arrivals + 1, b.expected, me :: b.arrived⟩
    (me ∈ b.arrived → exec (.bar n k) s = .next (advance (s.modW fun w => { w with wake := .barrier k.toNat 2 n.toNat })) ∧
      exec (.bara n k) s = .next (advance (s.modW fun w => { w with wake := .barrier k.toNat 1 n.toNat })) ∧
      exec (.barw k) s = .next (advance (s.modW fun w => { w with wake := .barrier k.toNat 0 0 }))) ∧
    (me ∉ b.arrived → s.w.wake = .ready →
      exec (.barw k) s = .next (advance (genBump s s.core)) ∧
      (b.arrivals + 1 < need → exec (.bara n k) s = .next (advance (put s here)) ∧
        exec (.bar n k) s = .next (advance ((put s here).modW fun w => { w with wake := .barrier k.toNat 0 n.toNat }))) ∧
      (need ≤ b.arrivals + 1 → tabWf 0 g.bars = true → exec (.bara n k) s = .next (advance (put s (tdel g.bars k.toNat))) ∧
        exec (.bar n k) s = .next (advance (genBump (put s (tdel g.bars k.toNat)) s.core))))) ∧
  (∀ fr l s f, getFrame s fr = some f →
    let others := f.mask &&& ~~~ f.done &&& ~~~ (1#128 <<< l)
    let ready := l < 128 ∧ hasLane f.mask l = true ∧ hasLane f.exited l = true ∧ hasLane f.done l = false ∧ laneCount f l = 0 ∧
      (f.warp = 0 ∨ others ≠ 0)
    (¬ ready → l < 128 → exec (.threadComplete fr l) s = .next s) ∧
    (ready → ∃ t, exec (.threadComplete fr l) s = .next t ∧ t.w = s.w ∧ t.warps = s.warps ∧
      (others ≠ 0 → (∀ p, tget f.parent l = some p → p.1 ≠ fr) → getFrame t fr = some { f with done := f.done ||| 1#128 <<< l }) ∧
      (others = 0 → tabWf 0 s.frames = true → getFrame t fr = none) ∧
      (∀ p q, tget f.parent l = some p → p.1 ≠ fr → getFrame s p.1 = some q → ∃ q', getFrame t p.1 = some q' ∧
        q' = { q with lanes := q'.lanes, warp := q'.warp } ∧
        (∀ i, laneCount q' i = laneCount q i - if i = p.2 ∧ p.2 < 128 then 1 else 0) ∧ q'.warp = q.warp - if 128 ≤ p.2 then 1 else 0) ∧
      (∀ k x v, f.packet = some (k, v) → tget s.launches k = some x →
        (x.next ≠ x.total ∨ 1 < x.left → tget t.launches k = some { x with left := x.left - 1 }) ∧
        (x.next = x.total → x.left ≤ 1 → ∃ u, u.launches = tdel s.launches k ∧
          getQueue u x.ctx x.qi = getQueue s x.ctx x.qi ∧ t = completePacket u x.ctx x.qi x.seq 0 0 0 0)))) ∧
  (∀ k core lg s w m gid g, getWarp s k = some w → w.id = k → w.wake = .await m → w.kind = .group gid → getGroup s gid = some g →
    w.live = true → w.home.resident = true → stealFits s w g core lg = true →
    ∃ t slot, exec (.continuationSteal k core lg) s = .next t ∧ (∀ x ∈ warpsOn s core, x.home.slot ≠ slot) ∧ slot < 64 ∧
      t.w = { w with home := { w.home with core := core, group := lg, slot := slot }, lease := t.w.lease } ∧
      (unitsLeft w.lease = 0 → t.w.lease = w.lease) ∧ (getCore t core).gen = (getCore s core).gen + 1 ∧
      (∀ a, (∀ x ∈ (getCore s core).lines, ¬ (x.pa ≤ a ∧ a < x.pa + 128)) →
        mread t.mem a = mread (writeBackCtx (focus s k) w.home.core w.home.ctx).mem a) ∧
      (∀ x ∈ (getCore t w.home.core).lines, x.ctx = w.home.ctx → x.dirty = 0))

/-- 12 R289, R292, R293, R296, R299, 14 R345, 07 R153, R157, R159: PLACE_WORKGROUP, BIN_LAUNCH and BIN_TIMER_EXPIRY: the launch that comes
first in the distributor's order is placed, how the warps of a launch start, what a bin delivers to its warp, and what stays in the bin. -/
def Obligations.WorkIsPlaced : Prop :=
  (∀ k ps s x, tget s.launches k = some x → goesFirst s (k, x) = true → exec (.placeWorkgroup k ps) s = .next s) ∧
  (∀ s l, (∀ m ∈ s.launches, ¬ placeOrder s m < placeOrder s l) → goesFirst s l = false) ∧
  (∀ k ps s x, tget s.launches k = some x → goesFirst s (k, x) = false → queuePlaces s x.ctx x.qi = true → ps ≠ [] →
    (∀ p ∈ ps, ∀ q ∈ ps, clusterOfCore p.core = clusterOfCore q.core) → ps.length = gangSize x → x.next + gangSize x ≤ x.total →
    (∀ t, placeGang k x s.nextKey ps x.next s = some t → exec (.placeWorkgroup k ps) s =
      .next (modQueue { t with launches := tput t.launches k { x with next := x.next + gangSize x } } x.ctx x.qi fun q => { q with turn := t.nextKey })) ∧
    (placeGang k x s.nextKey ps x.next s = none → exec (.placeWorkgroup k ps) s = .next s)) ∧
  (∀ k ps s x, tget s.launches k = some x → queuePlaces s x.ctx x.qi = false → exec (.placeWorkgroup k ps) s = .next s) ∧
  (∀ k x g p n s, (roleWarps x).length = 1 → placeFits s (launchNeeds x) p = true → (takeAreas s x.ctx (hdr x 768 32)).isSome = true →
    (placeGang k x g [p] n s).isSome = true) ∧
  (∀ k x g p n s t, placeGang k x g [p] n s = some t →
    (∃ y, getGroup t s.nextKey = some y ∧ y.core = p.core ∧ y.resident = true ∧ y.ctx = x.ctx ∧ y.launch = k ∧
      y.warps = (List.range (roleWarps x).length).map fun i => s.nextKey + 2 + 2 * i) ∧
    let before (r : Nat) : Nat := ((List.range r).map fun j => hdrRole x j % 32).sum
    ∀ r < 4, ∀ i, before r ≤ i → i < before (r + 1) → ∃ w f, getWarp t (s.nextKey + 2 + 2 * i) = some w ∧ w.live = true ∧ w.home.core = p.core ∧
      w.home.index = i ∧ w.role.toNat = r ∧ w.v = List.replicate (8 * (hdrRole x r / 32 % 128)) Vec.zero ∧
      w.o = BitVec.ofNat 32 (if hdrRole x r / 2 ^ 12 % 2 = 1 then hdrRole x r / 2 ^ 32 else hdr x 64 32) ∧
      (∀ l < 128, hasLane w.exec l = decide (l < hdrExt x 0)) ∧ w.exited = ~~~ w.exec ∧
      (∀ j < 64, x.params.length ≤ 64 → w.sreg j = x.params.getD j 0) ∧ w.wid = BitVec.ofNat 64 (groupWid x n + 2 ^ hdrWidth x 0 * i) ∧
      w.queue = List.replicate 16 ⟨Vec.zero, false⟩ ∧ w.fp = ⟨0, false, 0⟩ ∧ w.stack = [] ∧ w.planes = List.replicate 128 0 ∧ w.wake = .ready ∧
      getFrame t w.frame = some f ∧ f.warp = 0 ∧ f.lanes = [] ∧ f.mask = w.exec) ∧
  (∀ x n i, (∀ j < 6, 1 ≤ hdrExt x j ∧ hdrExt x j ≤ 2 ^ hdrWidth x j) → i < hdrExt x 1 →
    let wid := groupWid x n + 2 ^ hdrWidth x 0 * i
    let lo (j : Nat) : Nat := ((List.range j).map (hdrWidth x)).sum
    bitsAt wid 0 (hdrWidth x 0) = 0 ∧ bitsAt wid (lo 1) (hdrWidth x 1) = i ∧
    ∀ j, 2 ≤ j → j < 6 → bitsAt wid (lo j) (hdrWidth x j) = n / ((List.range (j - 2)).map fun m => hdrExt x (2 + m)).prod % hdrExt x j) ∧
  (∀ cl bin p s s1 b e first, tget (getCluster s cl).bins bin = some b → b.recs.head? = some first → first.kind = 0 →
    queuePlaces s b.ctx first.qi = true → readNode s .firmware (binKey cl) cl b.ctx b.node = (s1, .ok e) → nodeInvalid e = false →
    placeFits s1 (nodeNeeds b.ctx e) p = true → clusterOfCore p.core = cl → (takeAreas s1 b.ctx (nodeField e 320 32)).isSome = true →
    let recs := (b.recs.filter fun r => r.kind == 0).take (nodeCount e)
    let left := b.recs.drop recs.length
    let no := tgetD (((getCtx s1 b.ctx).map (·.nodeLaunches)).getD []) b.node 0
    ∀ r ∈ [(Instr.binLaunch cl bin p, decide (nodeCount e ≤ recs.length)), (.binTimerExpiry cl bin p, b.timer.any fun t => decide (t ≤ s.clock))],
      (r.2 = true → ∃ t w c, exec r.1 s = .next t ∧ getWarp t (s1.nextKey + 2) = some w ∧ w.live = true ∧ w.home.core = p.core ∧
        (∀ l < 128, hasLane w.exec l = decide (l < recs.length)) ∧ w.exited = ~~~ w.exec ∧ w.v.length = nodeRegs e ∧
        (∀ j < nodeRegs e, ∀ l < 128, (w.vreg j).lane l = ((recs[l]?).map fun y => y.words.getD j 0).getD 0) ∧
        (∀ j, w.sreg j = if j = 0 then BitVec.ofNat 64 (nodeField e 256 64) else 0) ∧ w.wid = BitVec.ofNat 64 (128 * no) ∧
        getCtx t b.ctx = some c ∧ tgetD c.nodeLaunches b.node 0 = no + 1 ∧
        ((∀ y ∈ b.recs, y.kind = 0) →
          (left ≠ [] → tget (getCluster t cl).bins bin =
            some { b with recs := left, timer := some (s.clock + nodeTimer e), launches := b.launches + 1 }) ∧
          (left = [] → tabWf 0 (getCluster s1 cl).bins = true → tget (getCluster t cl).bins bin = none))) ∧
      (r.2 = false → exec r.1 s = .next s1))

/-! Graphics and streams. -/

/-- 11 R268, R272 to R279, R284: the SAMPLE minors, IMGLD, IMGST and HITRD, of uncompressed images whose pages can be accessed: what each
lane reads or writes; the sampler's arithmetic is named by the model's `texels`, `lodOf` and `channels`, which follow R274. Compressed
tiles: the mode a set of pixels takes, every pixel decodes as it was encoded, and an update changes the pixels written, in the tile and
its mode byte at their homes, and nothing else. -/
def Obligations.ImagesAreAccessed : Prop :=
  ((∀ (m : Samp) lod vg, ∀ r ∈ sampleForms m lod vg, ∀ s s1 s2 d, WellFormed r.1 →
     prep s ([(m.u, 1), (m.v, 1)] ++ r.2.2.1) [(.vec m.d, 4)] = .go s1 → s1.lanes ≠ 0 →
     let us := srcList s1 .f32 m.lit m.u
     let vs := srcList s1 .f32 m.lit m.v
     let l (k : Nat) := r.2.2.2 s1 k
     let op := MemOp.sample r.2.1 (s1.w.sreg m.si.toNat) m.addr m.near us vs (l 0) (l 1) (l 2) (l 3)
     performs s1 → getDesc (asNoted s1 op (.vec m.d) true m.tr) (s1.w.sreg m.si.toNat) = (s2, .ok d) → imageReady s2 .read d → roomFor s2 1024 →
     let value (x : W32) : Fv := f32.read x.toNat
     let finite (x : W32) : Prop := (x &&& 0x7F800000) ≠ 0x7F800000
     let grad (k : Nat) : Option Fv := if r.2.1 = 1 then none else
       let g (j : Nat) : Fv := if r.2.1 = 2 then value ((l j).getD k 0) else quadSlope us vs k j
       some (maxFv (sumSquares (g 0) (g 1) d.w d.h) (sumSquares (g 2) (g 3) d.w d.h))
     ∃ u, onlyCaches s2 u ∧ exec r.1 s = .next (advance (deliver u (reqOf s1 op (.vec m.d) true m.tr) 4 fun k =>
       if finite (us.getD k 0) ∧ finite (vs.getD k 0) then
         sampleOf s2 d m.addr m.near (lodOf m.near d.last (grad k) (value ((l 0).getD k 0))) (value (us.getD k 0)) (value (vs.getD k 0))
       else 0))) ∧
   (∀ lit si lvl x y d tr s s1 s2 img, WellFormed (.imgld lit si lvl x y d tr) → prep s [(x, 1), (y, 1)] [(d, 1)] = .go s1 → s1.lanes ≠ 0 →
     let op := MemOp.imgld (s1.w.sreg si.toNat) lvl.toNat (srcList s1 .b32 lit x) (srcList s1 .b32 lit y)
     performs s1 → getDesc (asNoted s1 op d true tr) (s1.w.sreg si.toNat) = (s2, .ok img) → imageReady s2 .read img → roomFor s2 128 →
     ∃ u, onlyCaches s2 u ∧ exec (.imgld lit si lvl x y d tr) s = .next (advance (deliver u (reqOf s1 op d true tr) 1 fun l =>
       pixelOf s2 img lvl.toNat (srcBits 32 s1 .b32 lit x l).toInt (srcBits 32 s1 .b32 lit y l).toInt))) ∧
   (∀ lit si lvl x y src tr s s1 s2 img, WellFormed (.imgst lit si lvl x y src tr) → prep s [(x, 1), (y, 1), (src, 1)] [] = .go s1 → s1.lanes ≠ 0 →
     let op := MemOp.imgst (s1.w.sreg si.toNat) lvl.toNat (srcList s1 .b32 lit x) (srcList s1 .b32 lit y) (srcList s1 .b32 lit src)
     performs s1 → getDesc (asNoted s1 op .discard false false) (s1.w.sreg si.toNat) = (s2, .ok img) → imageReady s2 .write img → s2.w.ntst = [] →
     s2.memOk → s2.w.isSeq = false → roomFor s2 128 →
     let at_ (l : Nat) : Int × Int := ((srcBits 32 s1 .b32 lit x l).toInt, (srcBits 32 s1 .b32 lit y l).toInt)
     let hit := (maskLanes (writers s1)).filter fun l => inLevel img lvl.toNat (at_ l).1 (at_ l).2
     ∃ t, exec (.imgst lit si lvl x y src tr) s = .next t ∧ t.w = { s2.w with o := s1.w.iss.next } ∧ t.mem = s2.mem ∧
       ∀ a, seen t a = lastWrite (hit.map fun l => (pixelPa s2 .write img lvl.toNat (at_ l).1.toNat (at_ l).2.toNat,
         (List.range 4).map fun i => (srcBits 32 s1 .b32 lit src l).extractLsb' (8 * i) 8)) a (seen s2 a)) ∧
   (∀ lit x d tr s s1, WellFormed (.hitrd lit x d tr) → prep s [(x, 1)] [(d, 1)] = .go s1 →
     exec (.hitrd lit x d tr) s = .next (advance (putResult s1 d tr [overLanes s1 fun l =>
       (s1.w.hits.getD l []).getD ((srcBits 32 s1 .b32 lit x l).toNat % 16) 0]))) ∧
   (∀ x d, readDesc x = some d → 1 ≤ d.w ∧ d.w ≤ 16384 ∧ 1 ≤ d.h ∧ d.h ≤ 16384 ∧ x / 2 ^ 256 % 2 ^ 256 = 0 ∧
     (d.fmt = 0 ∧ d.base % 256 = 0 ∧ d.last ≤ 14 ∧ d.pitch = 0 ∨
       d.fmt = 1 ∧ d.base % 4 = 0 ∧ d.meta_ = 0 ∧ d.last = 0 ∧ d.pitch % 4 = 0 ∧ 4 * d.w ≤ d.pitch))) ∧
  ((∀ clear (px : List Nat), px.length = 64 → clear < 2 ^ 32 → (∀ p ∈ px, p < 2 ^ 32) → let e := encodeTile clear px
     (e.1 = 0 ∨ e.1 = 1 ∨ ∃ w, 1 ≤ w ∧ w ≤ 7 ∧ e.1 = 2 + 16 * w) ∧ (e.1 = 1 ↔ ∀ p ∈ px, p = clear) ∧ modeReserved e.1 = false ∧
     ∀ old, decodeTile e.1 clear (e.2.getD old) = px) ∧
   (∀ s clear tile mode m writes, s.memOk → clear < 2 ^ 32 → tile / 2 ^ 48 < 2 → mode / 2 ^ 48 < 2 → tile % 256 = 0 → (mode < tile ∨ tile + 256 ≤ mode) →
     (∀ w ∈ writes, w.2 < 2 ^ 32) → let t := updateTile s clear tile mode m writes
     decodeTile (mread t.mem mode).toNat clear (mreadLE t.mem tile 256) =
       writes.foldl (fun px w => listSet px w.1 w.2) (decodeTile m clear (mreadLE s.mem tile 256)) ∧
     (∀ a, a ≠ mode → ¬ (tile ≤ a ∧ a < tile + 256) → mread t.mem a = mread s.mem a) ∧ t.w = s.w))

/-- 11 R280 to R283: TRACE: rays that miss everything, the exact tests of boxes and triangles, the hit that is taken, and the hit record that a
lane emits. -/
def Obligations.RaysAreTraced : Prop :=
  (∀ lit sr em any vr vp vd tr s s1, WellFormed (.trace lit sr em any vr vp vd tr) →
    let d : Dst := match vd with
      | some n => .vec n
      | none => .discard
    prep s ((.vec vr, 8) :: if em then [(.vec vp, 4)] else []) [(d, 5)] = .go s1 →
    let regs (n : BitVec 9) (k : Nat) : List (List W32) := (List.range k).map fun i => (s1.w.srcV (n.toNat + i)).l
    let root := s1.w.sreg sr.toNat
    let par := if em then regs vp 4 else []
    let op := MemOp.trace root em any (regs vr 8) par
    let r := reqOf s1 op d (d != .discard) tr
    let s0 := asNoted s1 op d (d != .discard) tr
    performs s1 → (∀ t, doTrace s0 r root em any (regs vr 8) par = .done (.ok t) → exec (.trace lit sr em any vr vp vd tr) s = .next (advance t)) ∧
    (doTrace s0 r root em any (regs vr 8) par = .stall → exec (.trace lit sr em any vr vp vd tr) s = .next (stall s0)) ∧
    (∀ n, doTrace s0 r root em any (regs vr 8) par = .exhausted n →
      exec (.trace lit sr em any vr vp vd tr) s = .next (raise0 s0 SPILL_EXHAUSTED [s0.w.stack.length + s0.w.spilled, n, 1024])) ∧
    (∀ s2 sc, s1.lanes ≠ 0 → getScene s0 root = (s2, .ok sc) →
      (∀ l, hasLane s1.lanes l = true → rayOf ((List.range 8).map fun i => ((regs vr 8).getD i []).getD l 0) = none) →
      exec (.trace lit sr em any vr vp vd tr) s = .next (advance (deliver (dropRemotes s2 s2.w.id) r 5 fun _ =>
        0x7F800000 + 2 ^ 32 * 0xFFFFFFFF + 2 ^ 64 * 0xFFFFFFFF)))) ∧
  (∀ xs : List W32, (∃ i < 8, isNan32 (xs.getD i 0) = true) ∨ (∀ i ∈ [3, 4, 5], xs.getD i 0 &&& 0x7FFFFFFF = 0) ∨
    place32 (xs.getD 7 0) < place32 (xs.getD 6 0) → rayOf xs = none) ∧
  (∀ (r : Ray) lo hi (a b : Nat → Int), (∀ i < 3, lo i = .fin (a i) ∧ hi i = .fin (b i)) → r.span.empty = false →
    (∀ e, r.span.lo = some e ∨ r.span.hi = some e → 0 < e.d) →
    ((boxSpan r lo hi).none? = false ↔ ∃ (n : Int) (d : Nat), 0 < d ∧
      (∀ i < 3, a i * d ≤ r.o.getD i 0 * d + n * r.d.getD i 0 ∧ r.o.getD i 0 * d + n * r.d.getD i 0 ≤ b i * d) ∧
      (∀ e, r.span.lo = some e → e.n * d ≤ n * e.d) ∧ (∀ e, r.span.hi = some e → n * e.d ≤ e.n * d))) ∧
  (∀ (r : Ray) lo hi i, i < 3 → lo i = .nan ∨ hi i = .nan → (boxSpan r lo hi).none? = true) ∧
  (∀ r p0 p1 p2 id h, triHit r p0 p1 p2 id = some h → h.id = id ∧ h.brick = false ∧ 0 < h.t.d ∧ h.u.d = h.t.d ∧ h.v.d = h.t.d ∧
    0 ≤ h.u.n ∧ 0 ≤ h.v.n ∧ h.u.n + h.v.n ≤ h.t.d ∧ r.span.has h.t = true ∧
    ∀ i < 3, r.o.getD i 0 * h.t.d + h.t.n * r.d.getD i 0 = p0.getD i 0 * h.t.d + h.u.n * (p1.getD i 0 - p0.getD i 0) + h.v.n * (p2.getD i 0 - p0.getD i 0)) ∧
  (∀ s (hits : List Hit), (∀ h ∈ hits, 0 < h.t.d) →
    (hits ≠ [] → ∃ h ∈ hits, takeHit s false hits = (s, some h) ∧ ∀ x ∈ hits, x.before h = false) ∧ (∀ any, takeHit s any [] = (s, none)) ∧
    (hits ≠ [] → ∃ t, ∃ h ∈ hits, takeHit s true hits = (t, some h) ∧ t = { s with free := t.free })) ∧
  (∀ s cltab ray par l h node timer f i b, getFrame s s.w.frame = some f → l < 128 → findBin (getCluster s s.w.cluster) s.ctx node = some (i, b) →
    let t := emitHits s cltab ray par [(l, h, node, timer)]
    ∃ r : BinRec, r.words = hitRecord (fun j => ((ray.getD j []).getD l 0).toNat) (fun j => ((par.getD j []).getD l 0).toNat) h ∧
      r.words.length = 16 ∧ r.frame = s.w.frame ∧ r.lane = l ∧ r.kind = 2 ∧
      tget (getCluster t s.w.cluster).bins i = some { b with recs := b.recs ++ [r] } ∧
      ∃ f', getFrame t s.w.frame = some f' ∧ laneCount f' l = laneCount f l + 1)

/-- 10 R232, R234, R236, R240, R243 to R249, R251: the STRM minors on streams that pass their checks; void and correlated streams, stream
registers that a warp has not, and lengths beyond its own raise their traps and do nothing else. -/
def Obligations.Streams : Prop :=
  (∀ zd za zb zc, ∀ r ∈ streamGates zd za zb zc, ∀ s, (∀ z ∈ zd :: r.2.1, z.toNat < s.w.zregs) →
    let A (l : Nat) := s.w.zlane za.toNat l
    let B (l : Nat) := s.w.zlane zb.toNat l
    let C (l : Nat) := s.w.zlane zc.toNat l
    let void (l : Nat) := r.2.1.find? fun z => (s.w.zlane z.toNat l).void
    let fault (l : Nat) : Option (BitVec 8 × Nat) := match void l with
      | some z => some (0x21, z.toNat)
      | none => (r.2.2.2 (A l) (B l) (C l)).map fun x => (0x20, x)
    ((∀ l ∈ maskLanes s.lanes, fault l = none ∧ ∀ z ∈ r.2.1, streamPoison s z.toNat l = none) →
      ∃ t, exec r.1 s = .next t ∧ streamWritten s t zd fun l =>
        let x := r.2.2.1 (A l) (B l) (C l)
        ⟨x.1 &&& BitVec.ofNat 1024 (2 ^ s.w.slen - 1), x.2, false⟩) ∧
    (∀ l0 f0, l0 < 128 → hasLane s.lanes l0 = true → fault l0 = some f0 → (∀ l < l0, hasLane s.lanes l = true → fault l = none) →
      ∃ t, t.cause = f0.1 ∧ t.addr = s.w.iss.pc ∧ t.resume = s.w.o ∧ t.mode = 0 ∧
        (∀ l < 128, t.mask.getLsbD l = (hasLane s.lanes l && (fault l).isSome)) ∧
        (∀ l < 128, hasLane s.lanes l = true → ∀ f, fault l = some f → ((t.hq.headD []).getD l 0).toNat = f.2 % 2 ^ 32) ∧
        exec r.1 s = .next (takeTrap s t))) ∧
  (∀ zd k isF lit p s s1, WellFormed (.sgen zd k isF lit p) → zd.toNat < s.w.zregs → prep s [(p, 1)] [] = .go s1 →
    let ty := if isF then Ty.f32 else .n32
    let prob (l : Nat) : Nat × Flags :=
      if isF then probOf (srcBits 32 s1 ty lit p l).toNat else (min (srcBits 32 s1 ty lit p l).toNat 65536, 0)
    ∃ t, exec (.sgen zd k isF lit p) s = .next t ∧ streamWritten (raiseFlags s1 (flagsOver s1 fun l => (prob l).2)) t zd fun l =>
      streamOf s1.w k (prob l).1 l) ∧
  (∀ x : W32, (isNan32 x = true → probOf x.toNat = (0, flIV)) ∧ (isNan32 x = false → (probOf x.toNat).2 = 0 ∧ (probOf x.toNat).1 ≤ 65536 ∧
    (place32 x ≤ 0 → (probOf x.toNat).1 = 0) ∧ (0x3F800000 ≤ place32 x → (probOf x.toNat).1 = 65536))) ∧
  (∀ zd za k s, zd.toNat < s.w.zregs → za.toNat < s.w.zregs →
    (∀ l ∈ maskLanes s.lanes, (s.w.zlane za.toNat l).void = false ∧ streamPoison s za.toNat l = none) →
    ∃ t, exec (.sregen zd za k) s = .next t ∧ streamWritten s t zd fun l => streamOf s.w k (countOnes (s.w.zlane za.toNat l).bits * (65536 / s.w.slen)) l) ∧
  (∀ za lit w d tr, ∀ r ∈ streamReads za lit w d tr, ∀ s s1, WellFormed r.1 → za.toNat < s.w.zregs →
    prep s r.2.1 [(d, 1)] = .go s1 → s1.w.slen ∈ [256, 512, 1024] → (∀ l ∈ maskLanes s1.lanes, (s1.w.zlane za.toNat l).void = false ∧ streamPoison s1 za.toNat l = none) →
    exec r.1 s = .next (advance (putResult s1 d tr [overLanes s1 fun l => r.2.2 s1 (s1.w.zlane za.toNat l) l]))) ∧
  (∀ za d tr s s1, WellFormed (.scls za d tr) → za.toNat < s.w.zregs → prep s [] [(d, 1)] = .go s1 →
    exec (.scls za d tr) s = .next (advance (putResult s1 d tr [overLanes s1 fun l => let x := s1.w.zlane za.toNat l
      x.cls.zeroExtend 32 ||| (if x.void then 0x10000 else 0) ||| BitVec.ofNat 32 (s1.w.zbase / 16) <<< 18]))) ∧
  (∀ k d tr s s1, WellFormed (.scvtDraw k d tr) → prep s [] [(d, 1)] = .go s1 →
    exec (.scvtDraw k d tr) s = .next (advance (drawIf (putResult s1 d tr [overLanes s1 fun l =>
      (drizzleBits s1.w.seed k s1.w.drawIndex l).zeroExtend 32]) (.sr k) (s1.lanes != 0)))) ∧
  (∀ lit a s, WellFormed (.sseed lit a) → let x := scalarOf s lit a
    exec (.sseed lit a) s = .next (advance (s.modW fun w => { w with
      seed := ⟨x.extractLsb' 0 16, x.extractLsb' 16 16, x.extractLsb' 32 16, x.extractLsb' 48 16⟩ }))) ∧
  (∀ (sub : BitVec 2) s, let n := 256 * 2 ^ sub.toNat
    (s.w.lmax < n → exec (.slen sub) s = .next (raise0 s REG_RANGE [n])) ∧
    (n ≤ s.w.lmax → n = s.w.slen → exec (.slen sub) s = .next (advance s)) ∧
    (n ≤ s.w.lmax → n ≠ s.w.slen → ∃ t, exec (.slen sub) s = .next t ∧ t = (s.modW fun w => { w with o := w.iss.next, slen := n, z := t.w.z }) ∧
      ∀ z l, (t.w.zlane z l).void = true ∧ (t.w.zlane z l).cls = 0 ∧ (t.w.zlane z l).bits = (s.w.zlane z l).bits)) ∧
  (∀ zd za zb zc, ∀ r ∈ streamGates zd za zb zc, ∀ s z, s.w.iss.all ≠ 0 → (r.2.1 ++ [zd]).find? (fun n => decide (s.w.zregs ≤ n.toNat)) = some z →
    exec r.1 s = .next (raise0 s REG_RANGE [0x100 + z.toNat]))

/-- 10 R237: a generated stream has exactly the ones that its probability asks for. -/
def Obligations.StreamCounts : Prop :=
  ∀ (w : Warp) (k : BitVec 4) l p16, w.slen = 256 ∨ w.slen = 512 ∨ w.slen = 1024 → p16 ≤ 65536 → p16 % (65536 / w.slen) = 0 →
    (streamOf w k p16 l).bits = (genStream w k.toNat p16 l).bits ∧ countOnes (genStream w k.toNat p16 l).bits * 65536 = p16 * w.slen

/-! Graphics. -/

/-- 11 R261 to R264, 05 R116: RASTER_RECORD takes the oldest record of its unit, which completes in its frame once no unit holds it any more; a
record sent after its pass's CLOSE, or of instance 0xFFFFFF, draws nothing; a pixel keeps the least pair of depth and ID, so that the order of two fragments does not matter;
triangles on both sides of an edge never both cover a sample on it. -/
def Obligations.TrianglesAreDrawn : Prop :=
  (∀ tower k s r rest s1 f, tgetD (getTower s tower).raster k.toNat [] = r :: rest → engineRuns s r.ctx = true →
    drawRecord s tower k r = .ok s1 → getFrame s1 r.frame = some f → r.lane ≤ 128 → f.saved = false →
    ∃ t, exec (.rasterRecord tower k) s = .next t ∧ tgetD (getTower t tower).raster k.toNat [] = rest ∧ t.mem = s1.mem ∧
      let last := ∀ x ∈ rasterRecs t, x.2.2.id ≠ r.id
      ∃ f', getFrame t r.frame = some f' ∧ f' = { f with lanes := f'.lanes, warp := f'.warp } ∧ (¬ last → f' = f) ∧
        (last → (∀ l, laneCount f' l = laneCount f l - if l = r.lane ∧ r.lane < 128 then 1 else 0) ∧
          f'.warp = f.warp - if r.lane = 128 then 1 else 0)) ∧
  (∀ tower k s r rest s1, tgetD (getTower s tower).raster k.toNat [] = r :: rest → engineRuns s r.ctx = true →
    drawRecord s tower k r = .stall s1 → exec (.rasterRecord tower k) s = .next s1) ∧
  (∀ s tower k (r : Rec) p x, let va := (r.words.getD 0 0).toNat + 2 ^ 32 * (r.words.getD 1 0).toNat
    let late := x.closed = true ∧ x.closedAt < r.id
    passKey s r.ctx va = (s, p) → tget s.passes p = some x →
    (late → drawRecord s tower k r = .ok (notePass s p 6 0 0)) ∧
    (∀ s1 d, ¬ late → getPassDesc s (.raster tower k) r.ctx va = (s1, .ok (some d)) →
      (r.words.getD 2 0 = 0xFFFFFF → drawRecord s tower k r = .ok s1) ∧
      (2 ^ 24 ≤ (r.words.getD 2 0).toNat → drawRecord s tower k r = .ok (notePass s1 p 1 0 0))) ∧
    (∀ s1, ¬ late → getPassDesc s (.raster tower k) r.ctx va = (s1, .ok none) → drawRecord s tower k r = .ok (notePass s1 p 1 0 0))) ∧
  (∀ d k tx ty, tx < (d.w + 7) / 8 → (servesTile d k (ty * ((d.w + 7) / 8) + tx) = true ↔ (tx + ty) % 4 = k)) ∧
  (∀ t m p z n, m.wf = true → p < 64 → pixelApart t p → z < 2 ^ 32 → n < 2 ^ 64 → let m' := putFrag t m (p, z, n)
    (closerThan z n (pixelDepth t m p) (pixelId t m p) → pixelDepth t m' p = z ∧ pixelId t m' p = n) ∧
    (¬ closerThan z n (pixelDepth t m p) (pixelId t m p) → m' = m) ∧ m'.wf = true ∧
    ∀ a, ¬ pixelBytes t p a → mread m' a = mread m a) ∧
  (∀ t m p z n z' n', m.wf = true → p < 64 → pixelApart t p → z < 2 ^ 32 → z' < 2 ^ 32 → n < 2 ^ 64 → n' < 2 ^ 64 → n ≠ n' →
    let a := putFrag t (putFrag t m (p, z, n)) (p, z', n')
    let b := putFrag t (putFrag t m (p, z', n')) (p, z, n)
    pixelDepth t a p = pixelDepth t b p ∧ pixelId t a p = pixelId t b p) ∧
  (∀ (v0 v1 v2 v3 : Vert) (a b : Int) px py, v0.x ≠ v1.x ∨ v0.y ≠ v1.y → 0 < a * b →
    ¬ ((Tri.mk [v0, v1, v2] a).covers px py = true ∧ (Tri.mk [v1, v0, v3] b).covers px py = true)) ∧
  (∀ (t : Tri) px py, t.covers px py = true ↔ ∀ i < 3,
    let v := t.vert (i + 1)
    let u := t.vert (i + 2)
    let sg : Int := if t.a < 0 then -1 else 1
    let e := sg * ((u.x - v.x) * (256 * (py : Int) + 128 - v.y) - (u.y - v.y) * (256 * (px : Int) + 128 - v.x))
    0 < e ∨ e = 0 ∧ (0 < sg * (u.y - v.y) ∨ u.y = v.y ∧ sg * (u.x - v.x) < 0)) ∧
  (∀ inst cluster tri, inst < 2 ^ 24 → cluster < 2 ^ 32 → tri < 256 → let id := visId inst cluster tri
    id < 2 ^ 64 ∧ bitsAt id 40 24 = inst ∧ bitsAt id 8 32 = cluster ∧ bitsAt id 0 8 = tri)

/-- 11 R265, R266, 05 Table 05-6: CLOSE, TILE_CLOSED, CLASSIFY and TILE_RELEASE take a pass's tiles from OPEN to FREE, and report what was
noted of it; a quad emits one record for each material it shows, in ascending order. -/
def Obligations.TilesAreClassified : Prop :=
  (∀ tower k s c rest, let e := Engine.raster tower k
    engineQueue s e = c :: rest → engineRuns s c.ctx = true →
    (gfxFieldsOk c 2 [3, 4, 5, 6] = false → exec (.close tower k) s = .next (finishHead s e c (Report.plain 1))) ∧
    (∀ s1 d p x, gfxFieldsOk c 2 [3, 4, 5, 6] = true → getPassDesc s e c.ctx (cmdWord c 1) = (s1, .ok (some d)) → s1.passes = s.passes →
      engineQueue s1 e = c :: rest → passKey s1 c.ctx (cmdWord c 1) = (s1, p) → tget s1.passes p = some x →
      (c.started = false → (∃ t ∈ x.tiles, t.2.state = .open ∨ t.2.state = .closing) → ∃ t, exec (.close tower k) s = .next t ∧
        t.mem = s1.mem ∧ engineQueue t e = { c with started := true } :: rest ∧
        tget t.passes p = some { x with closed := true, closedAt := if x.closed then x.closedAt else s1.uses, keep := cmdWord c 2 = 1, tiles := x.tiles.map fun y =>
          (y.1, if y.2.state = .open then { y.2 with state := .closing } else y.2) }) ∧
      (c.started = true → rasterPending s1 c.ctx (cmdWord c 1) (max c.order x.closedAt) = true → exec (.close tower k) s = .next s1) ∧
      (c.started = true → rasterPending s1 c.ctx (cmdWord c 1) (max c.order x.closedAt) = false →
        (∀ t ∈ x.tiles, t.2.state ≠ .open ∧ t.2.state ≠ .closing) → ∃ s2, s2 = { s1 with passes := s2.passes } ∧
        tget s2.passes p = some { x with status := 0, fva := 0, fword := 0 } ∧
        exec (.close tower k) s = .next (finishHead s2 e c ⟨x.status, 0, 0, x.fva.toNat, x.fword.toNat⟩))) ∧
    (∀ s1 d, gfxFieldsOk c 2 [3, 4, 5, 6] = true → getPassDesc s e c.ctx (cmdWord c 1) = (s1, .ok (some d)) → c.started = false →
      findPass s1 c.ctx (cmdWord c 1) = none → rasterPending s1 c.ctx (cmdWord c 1) (max c.order s1.uses) = false → ∃ s2,
        (∃ p x, tget s2.passes p = some x ∧ x.closed = true ∧ x.tiles = [] ∧ x.ctx = c.ctx) ∧
        exec (.close tower k) s = .next (finishHead s2 e c ⟨0, 0, 0, 0, 0⟩))) ∧
  (∀ pass tile s x v, tget s.passes pass = some x → tget x.tiles tile = some v →
    (tileDraining s x tile = true → exec (.tileClosed pass tile) s = .next s) ∧
    (tileDraining s x tile = false → v.state = .closing → exec (.tileClosed pass tile) s = .next { s with
      passes := tput s.passes pass { x with tiles := tput x.tiles tile { v with state := .closed } } })) ∧
  (∀ s x i, rasterPending s x.ctx x.va.toNat x.closedAt = false → tileDraining s x i = false) ∧
  (∀ cl s c rest s1 d, let e := Engine.classify cl
    engineQueue s e = c :: rest → engineRuns s c.ctx = true → gfxFieldsOk c 1 [3, 4, 5, 6] = true →
    getPassDesc s e c.ctx (cmdWord c 1) = (s1, .ok (some d)) →
    (∀ p x, (getCluster s1 cl).classify = none → findPass s1 c.ctx (cmdWord c 1) = some (p, x) → x.closed = true →
      ∃ t, exec (.classify cl) s = .next t ∧ (getCluster t cl).classify = some ⟨p, 0, 0, 0, 0⟩ ∧ t.mem = s1.mem) ∧
    (∀ x p, (getCluster s1 cl).classify = some x → tget s1.passes x.pass = some p →
      rasterPending s1 c.ctx (cmdWord c 1) p.closedAt = true → exec (.classify cl) s = .next s1) ∧
    (∀ x p i v, (getCluster s1 cl).classify = some x → tget s1.passes x.pass = some p →
      rasterPending s1 c.ctx (cmdWord c 1) p.closedAt = false → p.tiles.find? (fun t => x.next / 16 ≤ t.1 && t.2.state != .classified) = some (i, v) → v.state = .closed →
      exec (.classify cl) s = .next (classifyQuad s1 cl c d x.pass i (if x.next / 16 = i then x.next % 16 else 0) v)) ∧
    (∀ x p, (getCluster s1 cl).classify = some x → tget s1.passes x.pass = some p →
      rasterPending s1 c.ctx (cmdWord c 1) p.closedAt = false → p.tiles = [] → exec (.classify cl) s = .next (finishClassify s1 cl c x))) ∧
  (∀ q i, q < 16 → i < 4 → (quadPixels q)[i]? = some (8 * (2 * (q / 4) + i / 2) + (2 * (q % 4) + i % 2))) ∧
  (∀ xs : List Nat, (ascending xs).Pairwise (· < ·) ∧ ∀ m, m ∈ ascending xs ↔ m ∈ xs) ∧
  (∀ cl c d p i x0 y0 (mats : List (Option Nat)) m s s1 ent, let node := (d.mnode + m) % 2 ^ 16
    readNode s (.engine (.classify cl)) (engineKey (.classify cl)) cl c.ctx node = (s1, .ok ent) → nodeInvalid ent = false →
    binRoom s1 cl c.ctx node 4 1 = true → x0 < 2 ^ 16 → y0 < 2 ^ 16 → ∃ live : BitVec 32, (∀ j < 4, live.getLsbD j = (mats.getD j none == some m)) ∧
      live.toNat < 16 ∧
      emitQuads cl c d p i x0 y0 mats [m] s = (addRecord s1 cl c.ctx node (nodeTimer ent)
        ⟨[BitVec.ofNat 32 (x0 + 2 ^ 16 * y0), live, BitVec.ofNat 32 (cmdWord c 1), BitVec.ofNat 32 (cmdWord c 1 / 2 ^ 32)],
          0, 0, 1, p, i, c.qi, c.prio, c.cls, []⟩, .ok true)) ∧
  (∀ pass tile s x v, tget s.passes pass = some x → tget x.tiles tile = some v → v.state = .classified → v.warps = 0 →
    tileInBins s pass tile = false → tabWf 0 x.tiles = true →
    (x.keep = false ∨ v.resident = false → ∃ t, exec (.tileRelease pass tile) s = .next t ∧ t.mem = (restoreTile s v).mem ∧
      t = { s with mem := t.mem, passes := t.passes, poison := (restoreTile s v).poison } ∧
      (∃ y, tget t.passes pass = some y ∧ y = { x with tiles := y.tiles } ∧ ∀ j, tget y.tiles j = if j = tile then none else tget x.tiles j)) ∧
    (∀ s1, x.keep = true → v.resident = true →
      writeHome s (.classify ((classifierOf s pass).getD 0)) x.ctx v = (s1, .ok ()) → s1.passes = s.passes →
      ∃ t, exec (.tileRelease pass tile) s = .next t ∧ t = { s1 with passes := t.passes } ∧
        ∃ y, tget t.passes pass = some y ∧ tget y.tiles tile = none)) ∧
  (∀ s v, s.memOk → v.resident = true → v.old.length = 768 → v.sectors.length = 24 →
    v.sectors.Pairwise (fun a b => a + 32 ≤ b ∨ b + 32 ≤ a) → let t := restoreTile s v
    (∀ o < 768, mread t.mem (v.at_ o) = v.old.getD o 0) ∧
    (∀ q, q ∈ t.poison ↔ q ∈ v.bad ∨ q ∈ s.poison ∧ ∀ pa ∈ v.sectors, pa / 32 ≠ q) ∧
    ∀ a, (∀ o < 768, a ≠ v.at_ o) → mread t.mem a = mread s.mem a)

/-- 11 R285, R286: FRAGMENT_RECORD takes the oldest fragment of its tower and lowers its thread's count: a fragment at or above the watermark
is held, a late one is blended at once, and one that finds no room stays. The arithmetic of OVER, ADD and REPLACE. -/
def Obligations.FragmentsAreTaken : Prop :=
  (∀ tower s, (getTower s tower).frags = [] → exec (.fragmentRecord tower) s = .next s) ∧
  (∀ tower s r rest s1 d s2 at_ f, let w (i : Nat) : Nat := (r.words.getD i 0).toNat
    let e := Engine.blend tower
    let va := w 0 + 2 ^ 32 * w 1
    let x := w 2 % 65536
    let y := w 2 / 65536
    (getTower s tower).frags = r :: rest → engineRuns s r.ctx = true → getTarget s e r.ctx va = (s1, .ok (some d)) →
    d.fmt = 0 → w 5 < 3 → w 6 = 0 → w 7 = 0 → inLevel d 0 x y = true → let to_ := tileOf d 0 x y
    translate s1 (.engine e) r.ctx .write ((d.base + 256 * to_.1 + to_.2) % 2 ^ 64) 4 = (s2, .ok at_) →
    getFrame s2 r.frame = some f → r.lane ≤ 128 → f.saved = false →
    let home := homeTower at_.pa
    let counted (t : State) : Prop := ∃ f', getFrame t r.frame = some f' ∧ f' = { f with lanes := f'.lanes, warp := f'.warp } ∧
      (∀ l, laneCount f' l = laneCount f l - if l = r.lane ∧ r.lane < 128 then 1 else 0) ∧ f'.warp = f.warp - if r.lane = 128 then 1 else 0
    canTrack s2 home r.ctx va = true →
    (watermark s2 r.ctx va ≤ w 3 → canHold s2 home r.ctx va to_.1 (to_.2 / 4) = true →
      ∃ t, exec (.fragmentRecord tower) s = .next t ∧ (getTower t tower).frags = rest ∧ t.mem = s2.mem ∧ counted t ∧
        (targetOf t home r.ctx va).held = (targetOf s2 home r.ctx va).held ++ [(to_.1, to_.2 / 4, w 3, w 5, w 4)]) ∧
    (watermark s2 r.ctx va ≤ w 3 → canHold s2 home r.ctx va to_.1 (to_.2 / 4) = false → exec (.fragmentRecord tower) s = .next s) ∧
    (∀ s3 bs s4, w 3 < watermark s2 r.ctx va → d.meta_ = 0 → let p := (d.base + 256 * to_.1 + 4 * (to_.2 / 4)) % 2 ^ 64
      unitRead s2 (.engine e) (engineKey e) r.ctx p 4 = (s3, .ok bs) →
      unitWrite s3 (.engine e) (engineKey e) r.ctx p (leBytes 4 (blendPixel (w 5) (w 4) (leNat bs))) = (s4, .ok ()) →
      getFrame s4 r.frame = some f → (targetOf s4 home r.ctx va).status = 0 →
      ∃ t, exec (.fragmentRecord tower) s = .next t ∧ (getTower t tower).frags = rest ∧ t.mem = s4.mem ∧ counted t ∧
        (targetOf t home r.ctx va).status = 6)) ∧
  (∀ tower s r rest s1 d s2 at_, let w (i : Nat) : Nat := (r.words.getD i 0).toNat
    let e := Engine.blend tower
    let va := w 0 + 2 ^ 32 * w 1
    let x := w 2 % 65536
    let y := w 2 / 65536
    (getTower s tower).frags = r :: rest → engineRuns s r.ctx = true → getTarget s e r.ctx va = (s1, .ok (some d)) →
    d.fmt = 0 → w 5 < 3 → w 6 = 0 → w 7 = 0 → inLevel d 0 x y = true → let to_ := tileOf d 0 x y
    translate s1 (.engine e) r.ctx .write ((d.base + 256 * to_.1 + to_.2) % 2 ^ 64) 4 = (s2, .ok at_) →
    canTrack s2 (homeTower at_.pa) r.ctx va = false → exec (.fragmentRecord tower) s = .next s) ∧
  (∀ s sa d, s < 256 → sa < 256 → d < 256 →
    blendChannel 0 s sa d = min 255 (s + (2 * (d * (255 - sa)) + 255) / 510) ∧ blendChannel 1 s sa d = min 255 (s + d) ∧ blendChannel 2 s sa d = s) ∧
  (∀ op s d c, s < 2 ^ 32 → d < 2 ^ 32 → op < 3 → c < 4 →
    bitsAt (blendPixel op s d) (8 * c) 8 = blendChannel op (bitsAt s (8 * c) 8) (s / 2 ^ 24) (bitsAt d (8 * c) 8))

/-- 11 R286: ADVANCE waits for the fragments on their way, raises the watermark, blends what is held below it in ascending order of keys, and
completes; K = 2^32 ends the tracking of the target. -/
def Obligations.FragmentsAreBlended : Prop :=
  (∀ tower s c rest, let e := Engine.blend tower
    let va := cmdWord c 1
    engineQueue s e = c :: rest → engineRuns s c.ctx = true →
    (gfxFieldsOk c (2 ^ 32 + 1) [3, 4, 5, 6] = false → exec (.advance tower) s = .next (finishHead s e c (Report.plain 1))) ∧
    (gfxFieldsOk c (2 ^ 32 + 1) [3, 4, 5, 6] = true →
      (fragmentPending s c.ctx va = true → exec (.advance tower) s = .next s) ∧
      (∀ s1, fragmentPending s c.ctx va = false → getTarget s e c.ctx va = (s1, .ok none) →
        exec (.advance tower) s = .next (finishHead s1 e c (Report.plain 1))) ∧
      ∀ s1 d, fragmentPending s c.ctx va = false → getTarget s e c.ctx va = (s1, .ok (some d)) → d.fmt = 0 →
        let k := max (cmdWord c 2) (watermark s c.ctx va)
        ((∀ t ∈ s1.towers, ∀ h ∈ (targetOf s1 t.1 c.ctx va).held, k ≤ h.2.2.1) →
          exec (.advance tower) s = .next (finishHead (settleTarget s1 tower c.ctx va k) e c (targetReport s1 c.ctx va))) ∧
        ∀ s2, advanceAll e c.ctx va k (some d) (s1.towers.map (·.1)) s1 = .ok s2 →
          exec (.advance tower) s = .next (finishHead (settleTarget s2 tower c.ctx va k) e c (targetReport s2 c.ctx va)))) ∧
  (∀ e t ts ctx va k d s, let x := targetOf s t ctx va
    let due := byKey (x.held.filter fun h => decide (h.2.2.1 < k))
    let s1 := putTarget s t { x with held := x.held.filter fun h => decide (k ≤ h.2.2.1) }
    (due = [] → advanceAll e ctx va k (some d) (t :: ts) s = advanceAll e ctx va k (some d) ts s) ∧
    ∀ s2, due ≠ [] → blendAll e t ctx va d due s1 = .ok s2 → advanceAll e ctx va k (some d) (t :: ts) s = advanceAll e ctx va k (some d) ts s2) ∧
  (∀ e t ctx va d h hs s s1, blendOne s e ctx d h.1 h.2.1 h.2.2.2.1 h.2.2.2.2 = .ok s1 → blendAll e t ctx va d (h :: hs) s = blendAll e t ctx va d hs s1) ∧
  (∀ xs : List (Nat × Nat × Nat × Nat × Nat), (byKey xs).Perm xs ∧ (byKey xs).Pairwise fun a b => a.2.2.1 ≤ b.2.2.1) ∧
  (∀ s tower ctx va k, k ≠ 2 ^ 32 → watermark s ctx va ≤ k → watermark (settleTarget s tower ctx va k) ctx va = k) ∧
  (∀ s tower ctx va, watermark (settleTarget s tower ctx va (2 ^ 32)) ctx va = 0)

/-! Scheduling, saving and power. -/

/-- 14 R343, 12 R293, 15 R371, R376 to R379, 09 R231, R409: QUANTUM_END chooses the resident set by priority; WORKGROUP_EVICT and
WORKGROUP_RESUME save and restore a workgroup, registers and all; PREEMPT_DEADLINE reports an overrun; CONTEXT_STOP and CONTEXT_RESUME;
MATRIX_SET_RELEASE. The choice among equal priorities is the model's, and so is what a stop waits for after a poisoned read (log 51). -/
def Obligations.WorkgroupsAreSaved : Prop :=
  (∀ k s g, getGroup s k = some g →
    (∀ t, g.preempt.isSome = true → (∀ j ∈ gangOf s g, mayEvict s j = true) →
      saveAll (gangOf s g) s = some t → exec (.workgroupEvict k) s = .next t) ∧
    (g.preempt = none ∨ (∃ j ∈ gangOf s g, mayEvict s j = false) → exec (.workgroupEvict k) s = .next s) ∧
    (mayEvict s k = true ↔ g.resident = true ∧ windowCommand s k g = false ∧ ∀ j ∈ g.warps, ∀ w, getWarp s j = some w → w.live = false ∨
      (w.handler = false ∧ w.xfers = [] ∧ w.log = [] ∧ w.wake ≠ .ready ∧ (∀ rs, w.wake = .remote rs → ∀ r ∈ rs, r.op.blocking = true) ∧
        ∀ n d lim, w.wake = .claim n d lim → lim = none)) ∧
    (∀ t, saveGroup s k = some t → g.warps = [s.w.id] → s.w.live = true →
      (∃ g', getGroup t k = some g' ∧ g' = { g with
          resident := false, image := g'.image, imageSize := g'.imageSize, preempt := none, overdue := false,
          savedOn := if g.matrix then some (clusterOfCore g.core) else none }) ∧
      t.w = { s.w with
        home := { s.w.home with resident := false }, lease := { s.w.lease with paused := decide (unitsLeft s.w.lease ≠ 0) }, ntst := [],
        zbad := t.w.zbad }) ∧
    (∀ t ps, queuePlaces s g.ctx g.qi = true → ps.length = (gangOf s g).length → ps ≠ [] →
      (∀ p ∈ ps, ∀ q ∈ ps, clusterOfCore p.core = clusterOfCore q.core) → resumeAll ((gangOf s g).zip ps) s = some t → exec (.workgroupResume k ps) s = .next t) ∧
    (∀ ps, queuePlaces s g.ctx g.qi = false ∨ ps.length ≠ (gangOf s g).length → exec (.workgroupResume k ps) s = .next s) ∧
    (∀ p t, resumeGroup s k p = some t → g.warps = [s.w.id] → 160 ≤ s.w.id → s.w.live = true → s.w.handler = false → (∀ rs, s.w.wake ≠ .remote rs) →
      g.resident = false ∧
      (∃ g', getGroup t k = some g' ∧ g' = { g with
          core := p.core, resident := true, reserve := g'.reserve, pool := g'.pool, image := 0,
          imageSize := 0, savedOn := none, skib := g'.skib }) ∧
      t.w = { s.w with home := t.w.home, zbase := t.w.zbase, lease := t.w.lease, zbad := [] } ∧ t.w.home.core = p.core ∧ p.groups = [t.w.home.group] ∧
      t.w.home.resident = true ∧ (t.w.lease.rem = s.w.lease.rem ∨ t.w.lease.rem = 0)) ∧
    (∀ t c, g.preempt = some t → getCtx s g.ctx = some c → g.resident = true → g.overdue = false →
      (s.clock < t + 20000 * 10 * c.trap.deadline → exec (.preemptDeadline k) s = .next s) ∧
      (t + 20000 * 10 * c.trap.deadline ≤ s.clock → let s1 := sendEvent (setGroup s k { g with overdue := true }) g.ctx 4 [k]
        exec (.preemptDeadline k) s = .next (if c.trap.dlkill then sendEvent (killCtx s1 g.ctx) g.ctx 10 [1] else s1)))) ∧
  (∀ ctx s c, getCtx s ctx = some c →
    (c.running = .running ∨ c.running = .stopping →
      (stopWaits s ctx c = true → exec (.contextStop ctx) s = .next (setCtx s ctx { c with running := .stopping })) ∧
      (stopWaits s ctx c = false → let t := saveGangs s (residentGangs s ctx)
        exec (.contextStop ctx) s = .next (sendEvent (modCtx t ctx fun c => { c with running := .stopped, report := [] }) ctx 1
          (stopWords t (if c.report = [] then [0, 0, 0xFFFFFFFF, 0] else c.report))))) ∧
    (c.report = [] → (stopWaits s ctx c = true ↔ (∃ w ∈ allWarps s, w.home.ctx = ctx ∧ w.xfers ≠ []) ∨
      (∃ k ∈ s.clusters, k.2.owner = some ctx ∧ k.2.ops ≠ []) ∨
      ∃ g ∈ s.groups, g.2.ctx = ctx ∧ g.2.resident = true ∧ windowCommand s g.1 g.2 = true)) ∧
    (c.running = .stopped ∨ c.running = .killed → exec (.contextStop ctx) s = .next s) ∧
    (c.running ≠ .stopped → exec (.contextResume ctx) s = .next s) ∧
    (c.running = .stopped → let t := setCtx s ctx { c with running := .running, pulse := s.clock }
      ((∀ w ∈ allWarps s, w.home.ctx ≠ ctx) → exec (.contextResume ctx) s = .next t) ∧
      ((allWarps s).filter (fun w => w.home.ctx == ctx) = [s.w] → s.w.isSeq = true →
        exec (.contextResume ctx) s = .next (t.modW fun w => { w with halted := false })) ∧
      ((allWarps s).filter (fun w => w.home.ctx == ctx) = [s.w] → s.w.isSeq = false → s.w.live = true → s.w.home.resident = true →
        s.w.handler = true → s.w.hbase = 0 → exec (.contextResume ctx) s = .next (returnFromTrap reissue false t)))) ∧
  (∀ s ks rest, (∀ t, saveAll ks s = some t → saveGangs s (ks :: rest) = saveGangs t rest) ∧
    (saveAll ks s = none → saveGangs s (ks :: rest) = saveGangs s rest)) ∧
  (∀ s, (s.quantumAt ≤ s.clock → exec .quantumEnd s = .next { chooseResident s with quantumAt := s.clock + quantumLength s }) ∧
    (s.clock < s.quantumAt → exec .quantumEnd s = .next (if
      (allQueues s).any (fun q => !q.2.2.resident) && (allQueues s).any (fun q => q.2.2.resident && queueWaits s q.1 q.2.1)
      then chooseResident s else s)) ∧
    (∀ c qi, (hasPacket s c qi = true → queueWaits s c qi = false) ∧
      (hasPacket s c qi = false → (∀ l ∈ s.launches, ¬ (l.2.ctx = c ∧ l.2.qi = qi)) →
        (∀ w ∈ allWarps s, w.live = true → ¬ (w.home.ctx = c ∧ w.home.qi = qi)) → queueWaits s c qi = true)) ∧
    (∀ c qi q, getQueue (chooseResident s) c qi = some q →
      (q.resident = true ↔ (c, qi) ∈ ((inOrder (allQueues s)).take 64).map fun q => (q.1, q.2.1))) ∧
    (∀ k g q, getGroup s k = some g → getQueue (chooseResident s) g.ctx g.qi = some q →
      (q.resident = true → (getGroup (chooseResident s) k).map (·.preempt) = some none) ∧
      (q.resident = false → g.resident = true → g.preempt = none → (getGroup (chooseResident s) k).map (·.preempt) = some (some s.clock)))) ∧
  (∀ qs : List (Nat × Nat × Queue), (inOrder qs).Perm qs ∧ (inOrder qs).Pairwise fun a b => b.2.2.prio ≤ a.2.2.prio) ∧
  (∀ cl s, let k := getCluster s cl
    (k.owner = none → exec (.matrixSetRelease cl) s = .next s) ∧
    (∀ ctx, k.owner = some ctx → setInUse s cl ctx ∨ (hasResident s ctx ∧ markedWaiting s ctx = false) → exec (.matrixSetRelease cl) s = .next s) ∧
    (∀ ctx, k.owner = some ctx → ¬ setInUse s cl ctx → ¬ hasResident s ctx ∨ markedWaiting s ctx = true →
      let waiting := (s.groups.filter fun p => p.2.ctx == ctx && !p.2.resident && p.2.savedOn == some cl).map (·.1)
      let breload := ((getCtx s ctx).map (·.trap.breload)).getD false
      (waiting = [] → exec (.matrixSetRelease cl) s = .next (setWarp (clearSetOf s cl none) (Warp.idle cl (.seq cl)))) ∧
      (waiting ≠ [] → takeSave s ctx setImageSize = none → exec (.matrixSetRelease cl) s = .next s) ∧
      (∀ s1 va, waiting ≠ [] → takeSave s ctx setImageSize = some (s1, va) → ∃ t x, exec (.matrixSetRelease cl) s = .next t ∧
        (getCluster t cl).owner = none ∧ (getCluster t cl).tile = [] ∧ getWarp t cl = some (Warp.idle cl (.seq cl)) ∧ t.sets = x :: s.sets ∧
        x.ctx = ctx ∧ x.groups = waiting ∧ x.image = va ∧ x.seq = (focus s cl).w ∧
        x.bad = ((setBad s cl).filter fun p => !(breload && p.1 == 4)) ∧
        x.set = if breload then { k with cells := [], segExp := [], badExp := [] } else k)))

/-- 14 R349 to R355, R359, R361, 03 R53, R56, 05 R105, R118: BAROMETER_WINDOW, near-threshold mode, leases, the instruction cache, YIELD's end,
heat, the watchdog, uncorrectable errors and walks. The window of 40 fabric cycles is the model's choice (log 70). -/
def Obligations.PowerAndHeat : Prop :=
  (∀ cl s, let k := getCluster s cl
    (s.clock < k.windowAt → exec (.barometerWindow cl) s = .next s) ∧
    (k.windowAt ≤ s.clock → ∃ t, exec (.barometerWindow cl) s = .next t ∧ t.mem = s.mem ∧ let k' := getCluster t cl
      k' = { k with
        lastSum := k.charge, charge := 0, pairing := k'.pairing, throttle := k'.throttle, power := k.pending.getD k.power,
        pending := none, weights := k.pendingW.getD k.weights, pendingW := none, islands := k'.islands, windowAt := k'.windowAt } ∧
      (k'.pairing = true ↔ 256 * k.power.soft ≤ k.charge) ∧ (k'.throttle = true ↔ 256 * k.power.hard ≤ k.charge) ∧
      s.clock < k'.windowAt ∧ k'.windowAt ≤ s.clock + 40 ∧ k'.windowAt % 40 = 0 ∧
      ∀ g < 4, (island k' g).near = (island k g).near ∧ (island k' g).awake = false ∧ (island k' g).windows =
        if islandWarps s cl g ≠ [] ∧ (∀ w ∈ islandWarps s cl g, memoryBlocked w = true) ∧ (island k g).awake = false then (island k g).windows + 1 else 0) ∧
    (∀ g, let i := island k g
      let all := islandWarps s cl g ≠ [] ∧ ∀ w ∈ islandWarps s cl g, memoryBlocked w = true
      (k.power.ntwin ≠ 0 → k.power.ntwin ≤ i.windows → i.near = false → i.awake = false → all → ∃ t,
        exec (.nearThresholdEntry cl g) s = .next t ∧ t.mem = s.mem ∧ getCluster t cl = { k with islands := tput k.islands g { i with near := true } } ∧
        ∀ j w, getWarp t j = some w → w.cluster = cl → w.home.group = g → w.lease.rem ≠ 0 → w.lease.paused = true) ∧
      (k.power.ntwin = 0 ∨ i.windows < k.power.ntwin ∨ i.near = true ∨ i.awake = true ∨ ¬ all → exec (.nearThresholdEntry cl g) s = .next s) ∧
      (i.near = true → (∃ w ∈ islandWarps s cl g, memoryBlocked w = false ∧ w.wake = .ready ∧ w.busy ≤ s.clock) → ∃ t,
        exec (.nearThresholdExit cl g) s = .next t ∧ t.mem = s.mem ∧
        getCluster t cl = { k with islands := tput k.islands g { i with near := false, windows := 0 } }) ∧
      (i.near = false ∨ (∀ w ∈ islandWarps s cl g, memoryBlocked w = true) → exec (.nearThresholdExit cl g) s = .next s)) ∧
    (s.clock < k.refillAt ∨ k.power.refill = 0 → exec (.leaseRefill cl) s = .next s) ∧
    (k.refillAt ≤ s.clock → k.power.refill ≠ 0 → let p := k.power.refill * 1024
      let n := (s.clock - k.refillAt) / p + 1
      exec (.leaseRefill cl) s = .next (setCluster s cl { k with pool := min 2047 (k.pool + n), refillAt := k.refillAt + n * p })) ∧
    (∀ ctx line, ∃ t, exec (.icacheFill cl ctx line) s = .next t ∧ (ctx, line) ∈ (getCluster t cl).icache ∧
      (∀ x ∈ (getCluster t cl).icache, x = (ctx, line) ∨ x ∈ k.icache) ∧
      (k.icache.length < 2048 → ∀ x ∈ k.icache, x ∈ (getCluster t cl).icache) ∧
      (k.icache.length ≤ 2048 → (getCluster t cl).icache.length ≤ 2048) ∧
      t.mem = s.mem ∧ t.w = { s.w with frozen := if s.w.cluster = cl ∧ s.w.home.ctx = ctx ∧ s.w.frozen = some line then none else s.w.frozen })) ∧
  (∀ s, let l := s.w.lease
    (l.rem = 0 ∨ l.ran < 1024 → exec (.leaseTick s.w.id) s = .next s) ∧
    (l.rem ≠ 0 → 1024 ≤ l.ran → unitsLeft l = 0 → exec (.leaseTick s.w.id) s = .next (s.modW fun w => { w with lease := ⟨0, 0, false, 0⟩ })) ∧
    (l.rem ≠ 0 → 1024 ≤ l.ran → unitsLeft l ≠ 0 →
      exec (.leaseTick s.w.id) s = .next (s.modW fun w => { w with lease := { l with rem := l.rem - l.ran / 1024, ran := l.ran % 1024 } })) ∧
    exec (.yieldExpiry s.w.id) s = .next (s.modW fun w => { w with yieldLeft := if w.yieldLeft = 1 then 0 else w.yieldLeft })) ∧
  (∀ tower level s, let old := (getTower s tower).thermal
    (level = 3 ∨ 8 ≤ tower ∨ old = level.toNat → exec (.stackThermalChange tower level) s = .next s) ∧
    (level ≠ 3 → tower < 8 → old ≠ level.toNat → ∃ t, exec (.stackThermalChange tower level) s = .next t ∧ t.mem = s.mem ∧
      (let x := getTower s tower
       getTower t tower = { x with
         thermal := level.toNat, touched := if level = 0 then [] else x.touched, hot := if level = 0 then [] else x.hot }) ∧
      t.link = if old = 2 ∨ level = 2 then (sendEvent s 0 7 [tower]).link else s.link)) ∧
  (∀ ctx s c, getCtx s ctx = some c →
    (c.running = .killed ∨ ¬ hasResident s ctx ∨ s.clock < c.pulse + watchWindow s c → exec (.watchdogFire ctx) s = .next s) ∧
    (c.running ≠ .killed → c.idleAt = none → hasResident s ctx → c.pulse + watchWindow s c ≤ s.clock →
      let s1 := sendEvent (setCtx s ctx { c with pulse := s.clock }) ctx 3 []
      exec (.watchdogFire ctx) s = .next (if (c.dog s.clock).2 then sendEvent (killCtx s1 ctx) ctx 10 [2] else s1)) ∧
    (c.dogOld = none → watchWindow s c = 5 * 2 ^ c.sched.wdlog / 8 ∧ (c.dog s.clock).2 = c.sched.wdkill)) ∧
  (∀ site s, (∀ c b, site ≠ .exps c b) → let q := siteAddr site / 32
    (populated (q * 32) 32 = false → exec (.eccUncorrectable site) s = .next s) ∧
    (populated (q * 32) 32 = true → q ∈ s.poison → exec (.eccUncorrectable site) s = .next s) ∧
    (populated (q * 32) 32 = true → q ∉ s.poison → exec (.eccUncorrectable site) s = .next { s with poison := q :: s.poison })) ∧
  (∀ c b s, (160 ≤ c ∨ 0x8000 ≤ b → exec (.eccUncorrectable (.exps c b)) s = .next s) ∧
    (c < 160 → b < 0x8000 → ∃ t, exec (.eccUncorrectable (.exps c b)) s = .next t ∧ (∀ i, i ∈ (getCluster t c).badExp ↔
      i = b / 32 ∨ i ∈ (getCluster s c).badExp) ∧ t = modCluster s c fun k => { k with badExp := (getCluster t c).badExp })) ∧
  (∀ u ctx va kind s, (va.toNat < 2 ^ 57 → exec (.pageWalk u ctx va kind) s = .next (walk s u ctx kind false va.toNat 1).1) ∧
    (2 ^ 57 ≤ va.toNat → exec (.pageWalk u ctx va kind) s = .next s))

/-! Packets. -/

/-- 16 R390 to R392, 03 R74 to R76, 12 R290, R291: a queue's next packet is checked, awaited and started; LAUNCH, COPY, WAITEV, SIGNAL and MAPUPD
have their effects, and complete with a record; a slot that does not match is read again, up to 64 times. -/
def Obligations.Packets : Prop :=
  (∀ s ctx qi q s1 hd, let h := leNat hd
    let who := queueKey ctx qi
    let va := q.ring.toNat + q.expect.toNat % max q.n 1 * q.slot
    let n := bitsAt h 16 16
    getQueue s ctx qi = some q → q.started = none → mayStart s ctx q = true → unitRead s .firmware who ctx va 64 = (s1, .ok hd) →
      (bitsAt h 32 32 ≠ q.expect.toNat → packetHead s ctx qi = (dropRemotes s1 who, .mismatch)) ∧
      (bitsAt h 32 32 = q.expect.toNat → n = 0 ∨ q.slot < 64 * (n + 1) → packetHead s ctx qi = (dropRemotes s1 who, .refused)) ∧
      ∀ s2 body, bitsAt h 32 32 = q.expect.toNat → 1 ≤ n → 64 * (n + 1) ≤ q.slot → unitRead s1 .firmware who ctx (va + 64) (64 * n) = (s2, .ok body) →
        packetHead s ctx qi = (dropRemotes s2 who, checkHeader s2 ctx qi hd body)) ∧
  (∀ s ctx qi hd body, let h := leNat hd
    (crc32c body ≠ bitsAt h 192 32 → checkHeader s ctx qi hd body = .mismatch) ∧
    (crc32c body = bitsAt h 192 32 →
      (bitsAt h 0 8 = 0 ∨ 6 < bitsAt h 0 8 ∨ bitsAt h 184 8 ≠ 0 ∨ bitsAt h 224 288 ≠ 0 → checkHeader s ctx qi hd body = .refused) ∧
      (ctx = 0 → qi = 0 → bitsAt h 0 8 ≠ 6 → checkHeader s ctx qi hd body = .refused) ∧
      (1 ≤ bitsAt h 0 8 → bitsAt h 0 8 ≤ 6 → bitsAt h 184 8 = 0 → bitsAt h 224 288 = 0 → (ctx = 0 → qi = 0 → bitsAt h 0 8 = 6) →
        (awaits s ctx h = none → checkHeader s ctx qi hd body = .refused) ∧
        (awaits s ctx h = some true → checkHeader s ctx qi hd body = .ready ⟨bitsAt h 0 8, bitsAt h 8 3, bitsAt h 11 3, body, true⟩) ∧
        (awaits s ctx h = some false → checkHeader s ctx qi hd body = .idle)))) ∧
  (∀ s ctx h, (bitsAt h 14 2 = 0 → awaits s ctx h = some true) ∧
    (bitsAt h 14 2 = 1 → (getQueue s ctx (bitsAt h 64 8) = none → awaits s ctx h = none) ∧
      ∀ q, getQueue s ctx (bitsAt h 64 8) = some q → awaits s ctx h = some (match q.last with
        | some l => decide ((l - BitVec.ofNat 32 (bitsAt h 72 32)).toNat < 2 ^ 31)
        | none => false))) ∧
  (∀ s ctx qi q st de v fw, getQueue s ctx qi = some q → let t := endPacket s ctx qi st de v fw
    getQueue t ctx qi = some { q with started := none, expect := q.expect + 1, rereads := 0, body := [], last := some q.expect } ∧
    (s.link.open_ = true → s.link.lost = false → t.link.out.head?.map (fun m => (m.ty, m.ctx, m.qi, m.payload)) =
      some (4#8, BitVec.ofNat 12 ctx, BitVec.ofNat 8 qi, completionBytes q.expect.toNat st de v fw))) ∧
  (∀ seq st de v fw, seq < 2 ^ 32 → st < 256 → de < 256 → v < 2 ^ 64 → fw < 2 ^ 32 → let b := completionBytes seq st de v fw
    b.length = 32 ∧ leNat (b.take 4) = seq ∧ b.getD 4 0 = BitVec.ofNat 8 st ∧ b.getD 5 0 = BitVec.ofNat 8 de ∧ b.getD 6 0 = 0 ∧ b.getD 7 0 = 0 ∧
    leNat ((b.drop 8).take 8) = v ∧ leNat ((b.drop 16).take 4) = fw) ∧
  (∀ s ctx qi p t, packetIs s ctx qi p t → p.ty = 1 → p.fresh = true →
    (p.at_ 0 6 ≠ 0 ∨ p.at_ 64 448 ≠ 0 → exec (.launch ctx qi) s = .next (endPacket t ctx qi 1 0 0 0)) ∧
    (p.at_ 0 6 = 0 → p.at_ 64 448 = 0 → ∀ t1 hd, unitRead t .firmware (queueKey ctx qi) ctx (p.at_ 0 64) 128 = (t1, .ok hd) →
      let x : Launch := ⟨ctx, qi, packetSeq t1 ctx qi, BitVec.ofNat 1024 (leNat hd), [], 0, 0, 0, p.cls, p.prio⟩
      (launchRefused t1 x = true → exec (.launch ctx qi) s = .next (endPacket t1 ctx qi 1 0 0 0)) ∧
      ∀ t2 bs q, launchRefused t1 x = false → unitRead t1 .firmware (queueKey ctx qi) ctx (hdr x 704 64) (8 * hdr x 672 6) = (t2, .ok bs) →
        getQueue t2 ctx qi = some q → ∃ u y, exec (.launch ctx qi) s = .next u ∧ tget u.launches t2.nextKey = some y ∧
          y.header = x.header ∧ y.ctx = ctx ∧ y.qi = qi ∧ y.next = 0 ∧ y.cls = p.cls ∧ y.prio = p.prio ∧
          y.total = hdrExt x 2 * hdrExt x 3 * hdrExt x 4 * hdrExt x 5 ∧ y.left = y.total * hdrExt x 1 * hdrExt x 0 ∧
          y.params.length = hdr x 672 6 ∧ (∀ i < hdr x 672 6, y.params.getD i 0 = BitVec.ofNat 64 (leNat ((bs.drop (8 * i)).take 8))) ∧
          (getQueue u ctx qi).map (·.started) = some (some (q.expect, 1)))) ∧
  (∀ s x, launchRefused s x = false →
    hdrWidth x 0 ≤ 7 ∧ hdrWidth x 0 + hdrWidth x 1 ≤ 11 ∧ ((List.range 6).map (hdrWidth x)).sum ≤ 64 ∧
    (∀ i < 6, 1 ≤ hdrExt x i ∧ hdrExt x i ≤ 2 ^ hdrWidth x i) ∧ ((List.range 4).map fun r => hdrRole x r % 32).sum = hdrExt x 1 ∧
    (∀ r < 4, hdrRole x r % 32 ≤ 16) ∧ (launchNeeds x).regs.sum ≤ 8 * hdr x 640 16 ∧ hdr x 656 9 ≤ 448 ∧ hdr x 672 6 ≤ 32 ∧
    2 ≤ hdr x 158 3 ∧ hdr x 158 3 ≤ 6 ∧ hdr x 0 12 = 0 ∧ hdr x 800 224 = 0) ∧
  (∀ s ctx qi p t, packetIs s ctx qi p t → p.ty = 2 → let e := Engine.dma (qi % 8)
    ((engineQueue t e).length < 256 → ∃ u, exec (.copyPacket ctx qi) s = .next u ∧ ∃ c : Cmd, engineQueue u e = engineQueue t e ++ [c] ∧
      c.words = (List.range 8).map (fun i => BitVec.ofNat 64 (p.at_ (64 * i) 64)) ∧ c.ctx = ctx ∧ c.issuer = none ∧ c.started = false ∧
      c.packet = some (qi, (packetSeq t ctx qi).toNat)) ∧
    (256 ≤ (engineQueue t e).length → exec (.copyPacket ctx qi) s = .next (if p.fresh then startPacket t ctx qi p true else t))) ∧
  (∀ s ctx qi p t, packetIs s ctx qi p t → p.ty = 3 → let size := if p.at_ 131 1 = 1 then 8 else 4
    let t0 := if p.fresh then startPacket t ctx qi p true else t
    let who := queueKey ctx qi
    (p.at_ 132 380 ≠ 0 ∨ 5 < p.at_ 128 3 → exec (.waitev ctx qi) s = .next (endPacket t0 ctx qi 1 0 0 0)) ∧
    (p.at_ 132 380 = 0 → p.at_ 128 3 ≤ 5 →
      (p.at_ 0 64 % size ≠ 0 → exec (.waitev ctx qi) s = .next (endPacket t0 ctx qi 2 0 (p.at_ 0 64) 0)) ∧
      (p.at_ 0 64 % size = 0 → ∀ t1,
        (∀ f, unitRead t0 .firmware who ctx (p.at_ 0 64) size = (t1, .fault f) → exec (.waitev ctx qi) s = .next (endPacket t1 ctx qi 2 0 f.va f.word)) ∧
        (∀ pa, unitRead t0 .firmware who ctx (p.at_ 0 64) size = (t1, .poison pa) → exec (.waitev ctx qi) s = .next (poisonStop t1 ctx pa 0)) ∧
        (unitRead t0 .firmware who ctx (p.at_ 0 64) size = (t1, .wait) → exec (.waitev ctx qi) s = .next t1) ∧
        ∀ bs, unitRead t0 .firmware who ctx (p.at_ 0 64) size = (t1, .ok bs) →
          exec (.waitev ctx qi) s = .next (if waitCond (8 * size) (BitVec.ofNat 3 (p.at_ 128 3)) (leNat bs) (p.at_ 64 64 % 2 ^ (8 * size))
            then endPacket (dropRemotes t1 who) ctx qi 0 0 0 0 else dropRemotes t1 who)))) ∧
  (∀ s ctx qi p t, packetIs s ctx qi p t → p.ty = 4 → let size := if p.at_ 129 1 = 1 then 8 else 4
    let va := p.at_ 0 64
    let who := queueKey ctx qi
    (p.at_ 130 382 ≠ 0 → exec (.signal ctx qi) s = .next (endPacket t ctx qi 1 0 0 0)) ∧
    (p.at_ 130 382 = 0 →
      (va % size ≠ 0 → exec (.signal ctx qi) s = .next (endPacket t ctx qi 2 0 va 0)) ∧
      (va % size = 0 → ∀ t1,
        (∀ f, eventWord t ctx .atomic va size = (t1, .fault f) → exec (.signal ctx qi) s = .next (endPacket t1 ctx qi 2 0 f.va f.word)) ∧
        (∀ pa, eventWord t ctx .atomic va size = (t1, .ok pa) → region pa = 2 → size = 8 →
          exec (.signal ctx qi) s = .next (endPacket t1 ctx qi 2 0 va 0)) ∧
        (∀ pa t2 t3 bs, eventWord t ctx .atomic va size = (t1, .ok pa) → ¬ (region pa = 2 ∧ size = 8) →
          unitRead t1 .firmware who ctx va size = (t2, .ok bs) → let x := if p.at_ 128 1 = 0 then p.at_ 64 64 else leNat bs + p.at_ 64 64
          t3 = (unitWrite (dropRemotes t2 who) .firmware who ctx va (leBytes size (x % 2 ^ (8 * size)))).1 →
          exec (.signal ctx qi) s = .next (endPacket t3 ctx qi 0 0 0 0))))) ∧
  (∀ s ctx qi p t, packetIs s ctx qi p t → p.ty = 5 → let va := p.at_ 64 64
    let lvl := p.at_ 8 3
    let n := p.at_ 32 32
    let who := queueKey ctx qi
    let t0 := if p.fresh then startPacket t ctx qi p true else t
    let u := settleCtx t0 ctx
    ∀ i ∈ [(Instr.mapupdInval, 0), (Instr.mapupdInvalall, 1), (Instr.mapupdWrite, 2), (Instr.mapupdMigrate, 3)], p.at_ 0 8 = i.2 →
      (mapFieldsOk p = false → exec (i.1 ctx qi) s = .next (endMapupd t ctx qi 1 0 0)) ∧
      (mapFieldsOk p = true → mapWaits t0 ctx = true → exec (i.1 ctx qi) s = .next t0) ∧
      (mapFieldsOk p = true → mapWaits t0 ctx = false →
        (i.2 = 0 → exec (i.1 ctx qi) s = .next (endMapupd (dropTranslations u ctx va (n * levelSize lvl)) ctx qi 0 0 0)) ∧
        (i.2 = 1 → exec (i.1 ctx qi) s = .next (endMapupd (dropTranslations u ctx 0 (2 ^ 64)) ctx qi 0 0 0)) ∧
        ∀ c, 2 ≤ i.2 → getCtx u ctx = some c → let r := mapEntries ctx qi c.root (i.2 == 3) lvl va (p.at_ 128 64) n 0 u
          (∀ v, r = .ok v → exec (i.1 ctx qi) s = .next (endMapupd (dropRemotes v who) ctx qi 0 0 0)) ∧
          (∀ v st k fw, r = .stop v st k fw → exec (i.1 ctx qi) s = .next (endMapupd (dropRemotes v who) ctx qi st k fw)) ∧
          (∀ v pa, r = .poison v pa → exec (i.1 ctx qi) s = .next (poisonStop v ctx pa 0)) ∧
          ∀ v, r = .wait v → exec (i.1 ctx qi) s = .next (keepAsked u v who))) ∧
  (∀ s ctx qi root lvl va src a s1 e, s.memOk → entryAt s ctx va lvl root = .at_ a → newEntry (touch s 0 a 8 false) ctx qi src 0 = (s1, .ok e) →
    s1.memOk → e < 2 ^ 64 → ∃ t, mapEntries ctx qi root false lvl va src 1 0 s = .ok t ∧ mreadLE t.mem a 8 = e ∧
      ∀ x, ¬ (a ≤ x ∧ x < a + 8) → mread t.mem x = mread s1.mem x) ∧
  (∀ s ctx qi root lvl va src a s1 s2 e, let s0 := touch s 0 a 8 false
    let old := mreadLE s1.mem a 8
    entryAt s ctx va lvl root = .at_ a → validLeaf (mreadLE s0.mem a 8) lvl = true → newEntry s0 ctx qi src 0 = (s1, .ok e) →
      validLeaf e lvl = true → movePage (settlePage (dropTranslations s1 ctx va (levelSize lvl)) (entPa old) (levelSize lvl)) (queueKey ctx qi) ctx va
        (entPa old) (entPa e) (levelSize lvl) = (s2, .ok ()) → s2.memOk → e < 2 ^ 64 →
      ∃ t, mapEntries ctx qi root true lvl va src 1 0 s = .ok t ∧ (mreadLE t.mem a 8 = e ||| (old / 64 % 4 * 64)) ∧
        ∀ x, ¬ (a ≤ x ∧ x < a + 8) → mread t.mem x = mread s2.mem x) ∧
  (∀ s who ctx v src dst size, s.memOk → s.passes = [] → size % 4096 = 0 → src + size ≤ 2 ^ 49 → dst + size ≤ 2 ^ 49 →
    src + size ≤ dst ∨ dst + size ≤ src → ∃ t, movePage s who ctx v src dst size = (t, .ok ()) ∧
      ∀ x < size, mread t.mem (dst + x) = mread s.mem (src + x)) ∧
  (∀ s ctx qi root migrate lvl va src n i, entryAt s ctx (va + i * levelSize lvl) lvl root = .none →
    mapEntries ctx qi root migrate lvl va src (n + 1) i s = .stop s 2 i 0) ∧
  (∀ s ctx qi q s1, getQueue s1 ctx qi = some q →
    (packetHead s ctx qi = (s1, .mismatch) → (q.rereads = 0 ∨ q.rereadAt ≤ s1.clock) →
      (q.rereads < 64 → getQueue s ctx qi = some q → exec (.packetReread ctx qi) s = .next (modQueue s1 ctx qi fun q =>
        { q with rereads := q.rereads + 1, rereadAt := s1.clock + 2000 })) ∧
      (64 ≤ q.rereads → getQueue s ctx qi = some q → exec (.packetReread ctx qi) s = .next (parkPacket s1 ctx qi q.expect 3 0 0))) ∧
    (∀ f va, packetHead s ctx qi = (s1, .fault f va) → getQueue s ctx qi = some q →
      exec (.packetReread ctx qi) s = .next (parkPacket s1 ctx qi q.expect 2 va f.word)) ∧
    (packetHead s ctx qi = (s1, .refused) → getQueue s ctx qi = some q → exec (.packetReread ctx qi) s = .next (endPacket s1 ctx qi 1 0 0 0)))

/-- 16 R394, R395, 03 R55, 05 R107, 06 R139, 12 R294, R300, 14 R356 to R361, 15 R362: the CONFIG items; an item with a wrong field, or outside its
scope, completes with STATUS 1 and changes nothing. Where VALUE holds each field is the model's reading of the tables. -/
def Obligations.ConfigItems : Prop :=
  (∀ ctx qi, ∀ r ∈ ([(.ctxnew ctx qi, 1, true, 64), (.ctxend ctx qi, 2, true, 0), (.l2part ctx qi, 4, true, 288), (.ltab ctx qi, 5, false, 96),
      (.ntab ctx qi, 6, false, 96), (.areas ctx qi, 7, false, 384), (.trapctl ctx qi, 8, false, 128), (.power ctx qi, 9, true, 64),
      (.weights ctx qi, 10, true, 448), (.sched ctx qi, 11, false, 32), (.quote ctx qi, 12, false, 128), (.peer ctx qi, 13, true, 320),
      (.ctxstat ctx qi, 14, false, 64)] : List (Instr × Nat × Bool × Nat)),
    ∀ s p t, packetIs s ctx qi p t → p.ty = 6 → p.item = r.2.1 → p.fresh = true →
    p.at_ 17 7 ≠ 0 ∨ (r.2.2.1 = true ∧ ¬ (ctx = 0 ∧ qi = 0)) ∨ p.value r.2.2.2 (448 - r.2.2.2) ≠ 0 →
    exec r.1 s = .next (endPacket t ctx qi 1 1 0 0)) ∧
  (∀ s p t, itemIs s 0 0 1 true 64 p t → let root := p.value 0 64
    (∀ n, 1 ≤ n → n ≤ 4094 → getCtx t n = none → (∀ m, 1 ≤ m → m < n → getCtx t m ≠ none) →
      (root % 4096 = 0 → root / 2 ^ 48 < 2 → populated root 4096 = true →
        exec (.ctxnew 0 0) s = .next (endPacket (setCtx t n (freshCtx root t.clock)) 0 0 0 0 n 0)) ∧
      (root % 4096 ≠ 0 ∨ 2 ≤ root / 2 ^ 48 ∨ populated root 4096 = false → exec (.ctxnew 0 0) s = .next (endPacket t 0 0 1 1 0 0))) ∧
    ((∀ m, 1 ≤ m → m ≤ 4094 → getCtx t m ≠ none) → exec (.ctxnew 0 0) s = .next (endPacket t 0 0 1 1 0 0))) ∧
  (∀ s p t, itemIs s 0 0 2 true 0 p t →
    (∀ c, p.index ≠ 0 → getCtx t p.index = some c → exec (.ctxend 0 0) s = .next (endPacket (dropCtx (killCtx t p.index) p.index) 0 0 0 0 0 0)) ∧
    (p.index = 0 ∨ getCtx t p.index = none → exec (.ctxend 0 0) s = .next (endPacket t 0 0 1 1 0 0))) ∧
  (∀ s ctx qi p t c, packetIs s ctx qi p t → p.ty = 6 → p.item = 3 → p.at_ 17 7 = 0 → p.value 192 256 = 0 → let n := p.value 64 32
    let slot := p.value 96 32
    let x := if ctx = 0 ∧ qi = 0 then p.index / 256 else ctx
    let y := if ctx = 0 ∧ qi = 0 then p.index % 256 else p.index
    let valid := isPow2 n = true ∧ 2 ≤ n ∧ n ≤ 65536 ∧ isPow2 slot = true ∧ 128 ≤ slot ∧ slot ≤ 4096
    (254 < y ∨ getCtx t x = none → exec (.queue ctx qi) s = .next (endPacket t ctx qi 1 1 0 0)) ∧
    (y ≤ 254 → getCtx t x = some c →
      (n ≠ 0 → ¬ valid → exec (.queue ctx qi) s = .next (endPacket t ctx qi 1 1 0 0)) ∧
      (n ≠ 0 → valid → getQueue t x y = none → ∃ u, exec (.queue ctx qi) s = .next (endPacket u ctx qi 0 0 0 0) ∧
        getQueue u x y = some (freshQueue (p.value 0 64) n slot (p.value 128 64) t.clock) ∧
        ∀ i, i ≠ y → getQueue u x i = getQueue t x i) ∧
      (∀ q, n ≠ 0 → valid → getQueue t x y = some q →
        (q.announced ≠ 0 ∨ q.started ≠ none → exec (.queue ctx qi) s = .next (endPacket t ctx qi 1 1 0 0)) ∧
        (q.announced = 0 → q.started = none → exec (.queue ctx qi) s = .next (endPacket (modQueue t x y fun q =>
          { q with ring := BitVec.ofNat 64 (p.value 0 64), n := n, slot := slot, cring := BitVec.ofNat 64 (p.value 128 64) }) ctx qi 0 0 0 0))) ∧
      (n = 0 → getQueue t x y = none → exec (.queue ctx qi) s = .next (endPacket t ctx qi 0 0 0 0)) ∧
      ∀ q, n = 0 → p.fresh = true → getQueue t x y = some q → q.started = none → ¬ (x = ctx ∧ y = qi) →
        ∃ u, exec (.queue ctx qi) s = .next u ∧ getQueue u x y = none)) ∧
  (∀ s p t, itemIs s 0 0 4 true 288 p t → p.index < 8 →
    (p.expert = false → p.profile < 3 → ∃ u, exec (.l2part 0 0) s = .next (endPacket u 0 0 0 0 0 0) ∧ u = { t with towers := u.towers } ∧
      let x := getTower u p.index
      x = { getTower t p.index with ways := x.ways, vtways := 2, custom := false } ∧
      ∀ c < 8, tgetD x.ways c ⟨0, 0⟩ = ⟨if p.profile ≠ 0 ∧ c = p.profile then 6 else 0, 16⟩) ∧
    (p.expert = true → let mn (c : Nat) := p.value (32 * c) 4
      let mx (c : Nat) := p.value (32 * c + 4) 5
      let vt := p.value 256 3
      let good := (∀ c < 8, mn c ≤ mx c ∧ 1 ≤ mx c ∧ mx c ≤ 16 ∧ p.value (32 * c + 9) 23 = 0) ∧ vt ≤ 4 ∧ p.value 259 29 = 0 ∧
        ((List.range 8).map mn).sum ≤ 16 - vt
      (¬ good → exec (.l2part 0 0) s = .next (endPacket t 0 0 1 1 0 0)) ∧
      (good → ∃ u, exec (.l2part 0 0) s = .next (endPacket u 0 0 0 0 0 0) ∧ u = { t with towers := u.towers } ∧ let x := getTower u p.index
        x = { getTower t p.index with ways := x.ways, vtways := vt, custom := true } ∧ ∀ c < 8, tgetD x.ways c ⟨0, 0⟩ = ⟨mn c, mx c⟩))) ∧
  (∀ s ctx qi p t c, getCtx t ctx = some c →
    (itemIs s ctx qi 5 false 96 p t → p.value 0 12 = 0 → p.value 64 32 ≤ 2 ^ 20 → ∃ u, exec (.ltab ctx qi) s = .next (endPacket u ctx qi 0 0 0 0) ∧
      getCtx u ctx = some { c with ltbase := BitVec.ofNat 64 (p.value 0 64), ltcount := p.value 64 32 } ∧ u.mem = t.mem ∧
      ∀ k, (getCore u k).records = (getCore t k).records.filter fun r => r.1 != ctx) ∧
    (itemIs s ctx qi 6 false 96 p t → p.value 0 6 = 0 → ∃ u, exec (.ntab ctx qi) s = .next (endPacket u ctx qi 0 0 0 0) ∧
      getCtx u ctx = some { c with ntbase := BitVec.ofNat 64 (p.value 0 64), ntcount := p.value 64 32 } ∧ u.mem = t.mem ∧
      ∀ k, (getCluster u k).nodes = (getCluster t k).nodes.filter fun r => r.1 != ctx) ∧
    (itemIs s ctx qi 7 false 384 p t → ∃ a, exec (.areas ctx qi) s = .next (endPacket (setCtx t ctx { c with areas := some a }) ctx qi 0 0 0 0) ∧
      (a.1.va, a.1.size) = (BitVec.ofNat 64 (p.value 0 64), p.value 64 32) ∧ (a.2.1.va, a.2.1.size) = (BitVec.ofNat 64 (p.value 96 64), p.value 160 32) ∧
      (a.2.2.1.va, a.2.2.1.size) = (BitVec.ofNat 64 (p.value 192 64), p.value 256 32) ∧
      (a.2.2.2.va, a.2.2.2.size) = (BitVec.ofNat 64 (p.value 288 64), p.value 352 32) ∧
      (c.areas = none → a.1.used = [] ∧ a.2.1.used = [] ∧ a.2.2.1.used = [] ∧ a.2.2.2.used = [])) ∧
    (itemIs s ctx qi 8 false 128 p t → p.value 0 2 = 0 → p.value 64 8 ≠ 0 →
      (p.expert = false → p.value 72 56 = 0 → exec (.trapctl ctx qi) s = .next (endPacket (setCtx t ctx { c with
        trap := ⟨BitVec.ofNat 64 (p.value 0 64), p.value 64 8, false, false, false⟩ }) ctx qi 0 0 0 0)) ∧
      (p.expert = true → p.value 74 54 = 0 → exec (.trapctl ctx qi) s = .next (endPacket (setCtx t ctx { c with
        trap := ⟨BitVec.ofNat 64 (p.value 0 64), p.value 64 8, p.value 72 1 == 1, p.value 73 1 == 1, p.value 72 2 != 0⟩ }) ctx qi 0 0 0 0))) ∧
    (itemIs s ctx qi 8 false 128 p t → p.value 0 2 ≠ 0 ∨ p.value 64 8 = 0 → exec (.trapctl ctx qi) s = .next (endPacket t ctx qi 1 1 0 0)) ∧
    (itemIs s ctx qi 11 false 32 p t →
      (p.expert = false → p.profile < 3 → exec (.sched ctx qi) s = .next (endPacket (setCtx t ctx { c with
        sched := ⟨[2, 8, 32].getD p.profile 0, 28, false, false⟩
        dogOld := some ((t.clock / 40 + 1) * 40, c.dog t.clock) }) ctx qi 0 0 0 0)) ∧
      (p.expert = true → p.value 0 8 ≠ 0 → 20 ≤ p.value 8 6 → p.value 8 6 ≤ 34 → p.value 15 17 = 0 →
        exec (.sched ctx qi) s = .next (endPacket (setCtx t ctx { c with
          sched := ⟨p.value 0 8, p.value 8 6, p.value 14 1 == 1, true⟩
          dogOld := some ((t.clock / 40 + 1) * 40, c.dog t.clock) }) ctx qi 0 0 0 0))) ∧
    (itemIs s ctx qi 14 false 64 p t → p.value 0 6 = 0 → ∀ u,
      (∀ f, unitWrite t .firmware (queueKey ctx qi) ctx (p.value 0 64) (leBytes 64 c.leaseLost.toNat) = (u, .fault f) →
        exec (.ctxstat ctx qi) s = .next (endPacket u ctx qi 2 0 f.va f.word)) ∧
      (unitWrite t .firmware (queueKey ctx qi) ctx (p.value 0 64) (leBytes 64 c.leaseLost.toNat) = (u, .ok ()) →
        exec (.ctxstat ctx qi) s = .next (endPacket u ctx qi 0 0 0 0)))) ∧
  (∀ s p t, itemIs s 0 0 9 true 64 p t → p.index < 160 →
    (∀ x, (if p.expert then powerWord (p.value 0 64) else powerProfile p.profile) = some x →
      exec (.power 0 0) s = .next (endPacket (modCluster t p.index fun k => { k with pending := some x }) 0 0 0 0 0 0)) ∧
    ((if p.expert then powerWord (p.value 0 64) else powerProfile p.profile) = none → exec (.power 0 0) s = .next (endPacket t 0 0 1 1 0 0))) ∧
  (∀ w x, powerWord w = some x → x = ⟨bitsAt w 0 16, bitsAt w 16 16, bitsAt w 32 12, bitsAt w 44 8, bitsAt w 52 2, bitsAt w 54 8, true⟩ ∧
    x.soft ≤ x.hard ∧ 1 ≤ x.istep ∧ x.istep ≤ 2048 ∧ x.leasemax ≤ 2 ∧ 1 ≤ x.refill) ∧
  (∀ s p t, itemIs s 0 0 10 true 448 p t → p.index < 160 → ∃ ws, (∀ c, tgetD ws c 0 =
      if c < 56 then BitVec.ofNat 8 (p.value (8 * c) 8) else tgetD (getCluster t p.index).weights c 0) ∧
    exec (.weights 0 0) s = .next (endPacket (modCluster t p.index fun k => { k with pendingW := some ws }) 0 0 0 0 0 0)) ∧
  (∀ s ctx qi p t t1 nonce, itemIs s ctx qi 12 false 128 p t → p.value 0 6 = 0 → p.value 64 6 = 0 →
    unitRead t .firmware (queueKey ctx qi) ctx (p.value 0 64) 64 = (t1, .ok nonce) → ∃ bytes, bytes.length = nonce.length + 1024 ∧
      bytes.take nonce.length = nonce ∧ ∀ u, unitWrite (dropRemotes t1 (queueKey ctx qi)) .firmware (queueKey ctx qi) ctx (p.value 64 64) bytes = (u, .ok ()) →
        exec (.quote ctx qi) s = .next (endPacket u ctx qi 0 0 0 0)) ∧
  (∀ s p t, itemIs s 0 0 13 true 320 p t → p.index < 4096 → p.value 48 16 = 0 →
    exec (.peer 0 0) s = .next (endPacket { t with peers := tput t.peers p.index ⟨BitVec.ofNat 48 (p.value 0 48), BitVec.ofNat 128 (p.value 64 128),
      BitVec.ofNat 64 (p.value 192 64), BitVec.ofNat 64 (p.value 256 64), false⟩ } 0 0 0 0 0 0))

/-! The host link, the firmware, peers and reset. -/

/-- 16 R387 to R389, R397, R400: which messages are accepted, acknowledged again or dropped, and what WRITE, READ, KICK and COMPLETE do: through
a context's translation, to the management block, the host windows and the standby's image, and the answers to the device's own READs. -/
def Obligations.HostMessages : Prop :=
  (∀ m s, ∀ r ∈ ([(.write m, 1), (.read m, 2), (.kick m, 3), (.complete m, 4)] : List (Instr × Nat)), m.ty.toNat = r.2 →
    (¬ soundMsg s r.2 m → exec r.1 s = .next s) ∧
    (soundMsg s r.2 m → m.seq ≠ s.link.expect →
      exec r.1 s = .next (if (s.link.expect - m.seq).toNat < 2 ^ 31 then sendAck s else s))) ∧
  (∀ m s, inSequence s 1 m → let s0 := acceptMsg s m
    (m.resp = true → exec (.write m) s = .next s0) ∧
    (m.resp = false → m.ctx ≠ 0xFFF →
      (getCtx s m.ctx.toNat = none → exec (.write m) s = .next (sendEvent s0 m.ctx.toNat 8 [m.addr.toNat, 0])) ∧
      ∀ c t, getCtx s m.ctx.toNat = some c →
        (∀ f, unitWrite s0 .firmware (2 ^ 42) m.ctx.toNat m.addr.toNat m.payload = (t, .fault f) →
          exec (.write m) s = .next (sendEvent s0 m.ctx.toNat 8 [f.va, f.word])) ∧
        (unitWrite s0 .firmware (2 ^ 42) m.ctx.toNat m.addr.toNat m.payload = (t, .ok ()) → exec (.write m) s = .next t)) ∧
    (m.resp = false → m.ctx = 0xFFF → ∀ r ∈ [(Instr.write m, true), (.hostWindowWrite m, toWindows m), (.standbyImageBoot m, toImage m)], r.2 = true →
      exec r.1 s = .next (mgmtWrite s0 m.addr.toNat m.payload))) ∧
  (∀ m s, (toWindows m = false → exec (.hostWindowWrite m) s = .next s) ∧ (toImage m = false → exec (.standbyImageBoot m) s = .next s)) ∧
  (∀ s o x, (o < 0x218 ∨ (0x220 ≤ o ∧ o < 0x400) ∨ 0xC00 ≤ o → mgmtPut s o x = s) ∧
    (∀ i k, i < 64 → k < 16 → o = 0x400 + 32 * i + k → mgmtByte (mgmtPut s o x) o = x ∧ (mgmtPut s o x).mem = s.mem ∧
      ∀ j, j ≠ i → getWindow (mgmtPut s o x) j = getWindow s j)) ∧
  (∀ s i x, i < 64 → getWindow (mgmtWrite s (0x400 + 32 * i) (leBytes 32 x)) i =
    ⟨BitVec.ofNat 64 x, BitVec.ofNat 64 (x / 2 ^ 64), bitsAt x 128 12, bitsAt x 140 1 == 1⟩) ∧
  (∀ s va, ∃ v < 3, let t : State := { s with free := s.free + 1, mgmt := { s.mgmt with imageVA := BitVec.ofNat 64 va } }
    mgmtWrite s 0x218 (leBytes 8 va) = if v = 0 then { t with mgmt := { t.mgmt with standby := some (BitVec.ofNat 64 va), state := .updating } }
      else sendEvent t 0 9 [va % 2 ^ 64, v]) ∧
  (∀ m s, inSequence s 2 m → let s0 := acceptMsg s m
    (m.resp = true → ∀ r ∈ [Instr.read m, .hostReadResponse m], exec r s = .next (retryReads { s0 with remotes := answerRead m s.remotes })) ∧
    (m.resp = false → exec (.hostReadResponse m) s = .next s) ∧
    (m.resp = false → m.ctx = 0xFFF → ∃ t, exec (.read m) s = .next t ∧ t = { s0 with link := t.link, free := s.free + 1 } ∧
      lastOut t = some (2, true, m.ctx, m.addr, (List.range m.arg.toNat).map fun i => mgmtByte s0 (m.addr.toNat + i))) ∧
    (m.resp = false → m.ctx ≠ 0xFFF → getCtx s m.ctx.toNat = none → ∃ t u, exec (.read m) s = .next (sendEvent t m.ctx.toNat 8 [m.addr.toNat, 0]) ∧
      t = { s0 with link := u } ∧ lastOut t = some (2, true, m.ctx, m.addr, [])) ∧
    (∀ c t, m.resp = false → m.ctx ≠ 0xFFF → getCtx s m.ctx.toNat = some c → t.link = s0.link →
      (∀ bs, unitRead s0 .firmware (readKey m) m.ctx.toNat m.addr.toNat m.arg.toNat = (t, .ok bs) →
        ∃ u, exec (.read m) s = .next u ∧ u.mem = t.mem ∧ lastOut u = some (2, true, m.ctx, m.addr, bs)) ∧
      (∀ f, unitRead s0 .firmware (readKey m) m.ctx.toNat m.addr.toNat m.arg.toNat = (t, .fault f) →
        ∃ u, exec (.read m) s = .next (sendEvent u m.ctx.toNat 8 [f.va, f.word]) ∧ u = { t with link := u.link } ∧
          lastOut u = some (2, true, m.ctx, m.addr, [])) ∧
      (unitRead s0 .firmware (readKey m) m.ctx.toNat m.addr.toNat m.arg.toNat = (t, .wait) →
        exec (.read m) s = .next { t with link := { t.link with reads := t.link.reads ++ [m] } }))) ∧
  (∀ s, s.link.reads = [] → retryReads s = s) ∧
  (∀ m pre (r : Remote) rest, let meets (x : Remote) : Prop := x.seq.isSome = true ∧ x.data = none ∧ x.pa % 2 ^ 48 = m.addr.toNat ∧ x.size = m.payload.length
    (∀ x ∈ pre, ¬ meets x) → meets r → answerRead m (pre ++ r :: rest) = pre ++ { r with data := some m.payload } :: rest) ∧
  (∀ m s, inSequence s 3 m → let s0 := acceptMsg s m
    (m.resp = true ∨ getQueue s m.ctx.toNat m.qi.toNat = none → exec (.kick m) s = .next s0) ∧
    ∀ q, m.resp = false → getQueue s m.ctx.toNat m.qi.toNat = some q → q.removing = false → ∃ t, exec (.kick m) s = .next t ∧
      t = { s0 with ctxs := t.ctxs } ∧ getQueue t m.ctx.toNat m.qi.toNat = some { q with
        parked := false, kicked := if (m.arg - q.kicked.getD q.expect).toNat < 2 ^ 31 then some m.arg else q.kicked }) ∧
  (∀ m s, inSequence s 4 m → exec (.complete m) s = .next (acceptMsg s m))

/-- 16 R387, R388: numbered messages, ACKs and their timers, and SYNC: the answer to the host's SYNC opens a session with new numbers and
lists the queues of a context; a RESP SYNC counts as the answer to the device's own; reads of the host's memory that were in flight are
asked for again. -/
def Obligations.HostSessions : Prop :=
  (∀ s, s.link.open_ = true → s.link.lost = false → lastOut (sendAck s) = some (0, false, 0, 0, []) ∧ (sendAck s).link.ackDue = none ∧
    (sendAck s).link.next = s.link.next ∧ (sendAck s).link.out.tail = s.link.out ∧
    ∀ m ∈ (sendAck s).link.out.head?, m.ackn = s.link.expect - 1 ∧ m.crc.toNat = msgCrc m % 2 ^ 32) ∧
  (∀ s m, s.link.open_ = true → s.link.lost = false → ∃ m', (sendMsg s m).link.out = m' :: s.link.out ∧
    m' = { m with seq := s.link.next, ackn := s.link.expect - 1, zero := 0, len := BitVec.ofNat 32 m.payload.length, crc := m'.crc } ∧
    (sendMsg s m).link.next = s.link.next + 1 ∧ (sendMsg s m).link.ackDue = none ∧
    (sendMsg s m).link.unacked = s.link.unacked ++ [⟨m', s.clock + 200000, 200000, 0⟩]) ∧
  (∀ s m, s.link.open_ = false ∨ s.link.lost = true → sendMsg s m = s ∧ sendAck s = s) ∧
  (∀ m s, m.ty = 5 → msgFieldsOk m = true → m.crc.toNat = msgCrc m →
    (m.resp = true → s.link.asked = true → s.link.lost = false → exec (.sync m) s = .next { s with link := { s.link with
      expect := m.seq + 1, ackDue := some (s.clock + 20000), asked := false
      unacked := s.link.unacked.filter fun x => 2 ^ 31 ≤ (m.ackn - x.msg.seq).toNat } }) ∧
    (m.resp = true → s.link.asked = false → (s.link.open_ = false ∨ s.link.lost = true → exec (.sync m) s = .next s) ∧
      (inSequence s 5 m → exec (.sync m) s = .next (acceptMsg s m))) ∧
    (m.resp = false → s.mgmt.state ≠ .booting → s.remotes = [] → ∃ (t : State) (seq : W32), exec (.sync m) s = .next t ∧
      t = { s with link := t.link, free := s.free + 1 } ∧ t.link.open_ = true ∧ t.link.lost = false ∧ t.link.asked = false ∧
      t.link.expect = m.seq + 1 ∧ t.link.next = seq + 1 ∧ t.link.out.head?.map (·.seq) = some seq ∧ t.link.unacked.length = 1 ∧
      lastOut t = some (5, true, m.ctx, 0, syncPayload s m.ctx.toNat (seq + 1) (m.seq + 1))) ∧
    (∀ r, m.resp = false → s.mgmt.state ≠ .booting → s.remotes = [r] → r.seq.isSome = true → r.data = none → s.link.reads = [] →
      ∃ t seq, exec (.sync m) s = .next t ∧ t.remotes = [{ r with seq := some seq }] ∧
        t.link.out.head?.map (fun x => (x.seq, x.arg)) = some (seq, BitVec.ofNat 32 r.size) ∧
        lastOut t = some (2, false, 0, BitVec.ofNat 64 (r.pa % 2 ^ 48), [])) ∧
    (m.resp = false → s.mgmt.state = .booting → ∃ t, exec (.sync m) s = .next t ∧ t.link.open_ = false ∧
      ∃ seq, lastOut t = some (5, true, m.ctx, 0, syncPayload s m.ctx.toNat (seq + 1) (m.seq + 1)))) ∧
  (∀ s ctx c next expect, s.mgmt.state ≠ .booting → getCtx s ctx = some c → let b := syncPayload s ctx next expect
    b.length = 12 + 12 * c.queues.length ∧ leNat (b.take 4) = next.toNat ∧ leNat ((b.drop 4).take 4) = expect.toNat ∧
    ∀ i q, c.queues.length < 2 ^ 32 → c.queues[i]? = some q → q.1 < 2 ^ 32 → let e := (b.drop (12 + 12 * i)).take 12
      leNat (e.take 4) = q.1 ∧ leNat (e.drop 8) = (q.2.last.getD 0xFFFFFFFF).toNat ∧
      leNat ((e.drop 4).take 4) = (q.2.kicked.getD (q.2.last.getD 0xFFFFFFFF)).toNat) ∧
  (∀ m s, m.ty = 0 → msgFieldsOk m = true → m.crc.toNat = msgCrc m → s.link.open_ = true → s.link.lost = false →
    exec (.ack m) s = .next { s with link := { s.link with unacked := s.link.unacked.filter fun x => 2 ^ 31 ≤ (m.ackn - x.msg.seq).toNat } }) ∧
  (∀ s, (∀ t, s.link.ackDue = some t → t ≤ s.clock → exec .ackTimer s = .next (sendAck s)) ∧
    (∀ t, s.link.ackDue = some t → s.clock < t → exec .ackTimer s = .next s) ∧ (s.link.ackDue = none → exec .ackTimer s = .next s)) ∧
  (∀ s, let due := s.link.unacked.filter fun x => x.at_ ≤ s.clock
    (s.link.lost = true ∨ due = [] → exec .resendTimeout s = .next s) ∧
    (s.link.lost = false → (∃ x ∈ due, 16 ≤ x.tries) → exec .resendTimeout s = .next { s with link := { s.link with lost := true } }) ∧
    (s.link.lost = false → due ≠ [] → (∀ x ∈ due, x.tries < 16) → ∃ t, exec .resendTimeout s = .next t ∧
      t = { s with link := { s.link with unacked := t.link.unacked, out := (due.map (·.msg)).reverse ++ s.link.out } } ∧
      t.link.unacked = s.link.unacked.map fun x => if x.at_ ≤ s.clock then
        { x with at_ := s.clock + min (2 * x.wait) 25600000, wait := min (2 * x.wait) 25600000, tries := x.tries + 1 } else x))

/-- 16 R396 to R398, R400: the standby complex takes over between packets or at a failure; peers join when the governor admits them, and
serve accesses to region 4; a token opens the test modes; DEVICE_RESET puts every state at its reset value but for the device's own
context, which the model takes from its configuration, and the firmware that is active. -/
def Obligations.DeviceLife : Prop :=
  (∀ s, s.mgmt.state ≠ .booting → let swapped : State := { s with mgmt := { s.mgmt with active := 1 - s.mgmt.active, standby := none, state := .ready } }
    (s.link.open_ = false → exec (.standbyTakeover true) s = .next swapped) ∧
    (s.link.open_ = true → s.remotes = [] → ∃ t seq, exec (.standbyTakeover true) s = .next t ∧ t = { swapped with link := t.link, free := s.free + 1 } ∧
      t.link.next = seq + 1 ∧ t.link.asked = true ∧ t.link.lost = s.link.lost ∧ lastOut t = some (5, false, 0, 0, []) ∧
      t.link.out.head?.map (·.seq) = some seq) ∧
    (s.mgmt.standby.isSome = true → (∀ c ∈ s.ctxs, ∀ q ∈ c.2.queues, q.2.started = none) → exec (.standbyTakeover false) s = .next swapped) ∧
    (s.mgmt.standby = none ∨ (∃ c ∈ s.ctxs, ∃ q ∈ c.2.queues, q.2.started.isSome = true) → exec (.standbyTakeover false) s = .next s)) ∧
  (∀ p s, (∀ x, tget s.peers p = some x → Config.peerAdmitted p = true →
      exec (.peerJoin p) s = .next { s with peers := tput s.peers p { x with joined := true } }) ∧
    (tget s.peers p = none ∨ Config.peerAdmitted p = false → exec (.peerJoin p) s = .next s)) ∧
  (∀ who data s r rest pre, s.link.reads = [] → s.remotes = pre ++ r :: rest → (∀ x ∈ pre, x.who ≠ who) → r.who = who → region r.pa = 4 → r.data = none →
    let joined := ((tget s.peers (bitsAt r.pa 36 12)).map (·.joined)).getD false
    (joined = true → r.write.isSome = true → exec (.peerAccess who data) s = .next { s with remotes := pre ++ rest }) ∧
    (joined = true → r.write = none → data.length = r.size →
      exec (.peerAccess who data) s = .next { s with remotes := pre ++ { r with data := some data } :: rest }) ∧
    (joined = false → (∀ x ∈ rest, x.who ≠ who) → exec (.peerAccess who data) s = .next s)) ∧
  (∀ token s, exec (.signedTestToken token) s =
    .next (if Config.tokenValid token then { s with mgmt := { s.mgmt with token := true, diag := true } } else s)) ∧
  (∀ s, ∃ t, exec .deviceReset s = .next t ∧
    t = { State.reset with ctxs := t.ctxs, mgmt := { State.reset.mgmt with state := .ready, active := s.mgmt.active } } ∧
    (∃ c q, t.ctxs = [(0, c)] ∧ c.queues = [(0, q)] ∧ c.running = .running ∧ q.resident = true ∧ q.announced = 0 ∧ isPow2 q.n = true ∧ 2 ≤ q.n ∧
      q.n ≤ 65536 ∧ isPow2 q.slot = true ∧ 128 ≤ q.slot ∧ q.slot ≤ 4096))

/-! The whole machine. -/

/-- Reset: no context, warp or session; %clock 0; power control, weights, lease pool, L2 ways and heat as their tables give (05 Tables 05-1,
05-7, 07 Table 07-1, 14 Table 14-4, R355, R360, 16 R387, R400). That memory reads zero (log 4) and what the registers of an idle warp hold besides
those for which 07 Table 07-1 gives a value (log 3) is the model's choice. -/
def Obligations.ResetValues : Prop :=
  let s := State.reset
  s.memOk ∧ (∀ a, mread s.mem a = 0) ∧ s.ctxs = [] ∧ s.groups = [] ∧ s.launches = [] ∧ s.frames = [] ∧ (∀ w ∈ allWarps s, w.live = false) ∧
    s.clock = 0 ∧ s.link.open_ = false ∧ s.link.out = [] ∧ s.mgmt.state = .booting ∧ s.mgmt.windows = [] ∧ s.mgmt.diag = false ∧ s.poison = [] ∧
    (∀ k, let c := getCluster s k
      c.owner = none ∧ c.power = ⟨0x1800, 0x2800, 256, 32, 2, 8, false⟩ ∧ (∀ m, tgetD c.weights m 16 = 16) ∧ c.pool = 2047 ∧ c.icache = [] ∧
      c.batch = 0 ∧ c.done = 0 ∧ c.feed = 0) ∧
    (∀ t, let x := getTower s t
      x.vtways = 2 ∧ (∀ c, tgetD x.ways c ⟨0, 16⟩ = ⟨0, 16⟩) ∧ x.thermal = 0 ∧ x.dma = []) ∧
    (∀ c, (getCore s c).gen = 0 ∧ (getCore s c).lines = []) ∧
    s.w.fp = ⟨0, false, 0⟩ ∧ s.w.slen = 256 ∧ s.w.seed = ⟨0, 0, 0, 0⟩ ∧ s.w.lease.rem = 0 ∧ s.w.lease.level = 0 ∧
    (s.w.trapcause = 0 ∧ s.w.trapaddr = 0 ∧ s.w.trapmask = 0 ∧ s.w.link = 0 ∧ s.w.slip = 0)

/-- 02 R17 to R21, R39 to R42, 13 R320 to R326: a ready warp whose turn it is executes the instruction whose words lie at its offset, in each plane
or once, and then moves on as `settle` says; words that no instruction has trap; an event of the agenda happens. The order of turns is the
model's choice (log 2). -/
def Obligations.StepIssuesTheFetchedInstruction : Prop :=
  (∀ s k rest s0 s1 s2 fs, let here : State := { s with agenda := rest }
    s.agenda = .warp k :: rest → (∀ w, getWarp here k = some w → w.isSeq = true ∨ mayTake here w = true) → s0 = focus here k →
    mayIssue s0 s0.w = true → s0.w.wake = .ready → beforeIssue s0 = (s1, .ok ()) → s1.w.kind ≠ .none →
    fetchAll s1.w.toFetch s1 [] = .ok s2 fs → missing s2 fs = [] →
    (∀ r i, fs = [r] → decode s2.w.fetcher r.words = .ok i → mayPass s2.w r.w0 i = true → r.lanes = 0 ∨ streamRange s2 [(r, i)] = none →
      step s = mapNext (exec i (beginIssue (idleIssue s2) r r.lanes r.lanes)) fun t =>
        settle (idleIssue s2) t [(majOf r.w0, issueLanes s2.w r.w0 r.lanes)]) ∧
    (∀ r i is, decoded s2 fs = .ok ((r, i) :: is) → (∀ x ∈ (r, i) :: is, mayPass s2.w x.1.w0 x.2 = true) →
      let all := is.foldl (fun m x => m ||| x.1.lanes) r.lanes
      all = 0 ∨ streamRange s2 ((r, i) :: is) = none →
      (onceOnly r.w0 = true → step s = mapNext (exec i (beginIssue (idleIssue s2) r all all)) fun t =>
        settle (idleIssue s2) t [(majOf r.w0, issueLanes s2.w r.w0 all)]) ∧
      (onceOnly r.w0 = false → is ≠ [] → (∀ x ∈ is, onceOnly x.1.w0 = false) → step s = issuePlanes s2 all ((r, i) :: is))) ∧
    (∀ r e, fs = [r] → decode s2.w.fetcher r.words = .error e → ∃ t : Trap,
      t.cause = (if e = .illegalInstruction then BitVec.ofNat 8 ILLEGAL_INSTRUCTION else BitVec.ofNat 8 ILLEGAL_ENCODING) ∧
      t.addr = BitVec.ofNat 64 r.pc ∧ t.mask = r.lanes ∧ t.mode = 0 ∧ t.log = 0 ∧ t.resume = s2.w.o ∧
      t.rpc = s2.w.o + BitVec.ofNat 32 (4 * r.words.length) ∧
      step s = mapNext (exec (.trapEntry t) (idleIssue s2)) fun u => settle (idleIssue s2) u [])) ∧
  (∀ s all is, let s0 := idleIssue s
    let p := startPlanes s0 all false is
    p.hard = [] → p.soft = [] → p.stuck = none →
      issuePlanes s all is = .next (settle s0 p.acc (is.map fun x => (majOf x.1.w0, issueLanes s0.w x.1.w0 x.1.lanes)))) ∧
  (∀ s all r i rest p t, exec i (beginIssue (p.acc.modW fun w => { w with queue := s.w.queue, o := s.w.o, s := s.w.s }) r all r.lanes) = .next t →
    t.w.iss.stalled = false → t.w.iss.trapped = none →
    runPlanes s all ((r, i) :: rest) p = runPlanes s all rest { p with acc := joinPlane s.w.queue p.acc t r.lanes }) ∧
  (∀ s r all lanes, let t := beginIssue s r all lanes
    t = { s with w := { s.w with parked := false, iss := t.w.iss } } ∧ t.lanes = lanes ∧ t.w.iss.all = all ∧ t.w.iss.pc = BitVec.ofNat 64 r.pc ∧
    t.w.iss.next = s.w.o + BitVec.ofNat 32 (4 * r.words.length)) ∧
  (∀ s t cost, (t.w.iss.poison = none → t.w.iss.stalled = false → t.w.iss.trapped = none → t.w.kind ≠ .none →
      settle s t cost = popAll (account s t cost)) ∧
    (t.w.iss.poison = none → t.w.iss.stalled = true → settle s t cost = undo s t) ∧
    ∀ pa pc, t.w.iss.poison = some (pa, pc) → settle s t cost = poisonStop (tryLater s) s.ctx pa pc) ∧
  (∀ s t cost, t.w.kind ≠ .none → let u := account s t cost
    let k := getCluster t s.w.cluster
    u.mem = t.mem ∧ (getCluster u s.w.cluster).charge = cost.foldl (fun n c => n + (tgetD k.weights c.1 16).toNat * c.2) k.charge ∧
    u.w = { t.w with
      heavy := decide (16 < (cost.getLast?.map (·.2)).getD 0), pipe := t.clock + 1, stamp := t.uses + 1, readyFor := 0, slipped := [] }) ∧
  (∀ s pc t x, let t1 := touch t (accessCls t t.walker) x.pa 4 false
    pc < 2 ^ 64 → pc % 32 ≤ 12 → pc % 4 = 0 → translate s s.walker s.ctx .fetch pc 4 = (t, .ok x) → t.w = s.w →
    (∀ n, 4 ≤ n → n ≤ 16 → translate t1 t1.walker t1.ctx .fetch (pc + 4) n = (t1, .ok { x with pa := x.pa + 4 }) ∧
      poisoned t1 t1.ctx (x.pa + 4) n = false ∧ (s.w.isSeq = true ∨ homeFirst t1 (x.pa + 4) n = t1)) →
    region x.pa < 2 → region (x.pa + 4) < 2 → poisoned t t.ctx x.pa 4 = false → s.w.isSeq = true ∨ homeFirst t x.pa 4 = t →
    x.pa % 2 ^ 48 + 20 < 2 ^ 48 → let n := wordCount (mreadLE t.mem x.pa 4)
    ∃ u ws, fetchWords s pc = (u, .ok ws) ∧ u.mem = t.mem ∧ u.w = s.w ∧ ws.length = n ∧
      ∀ i < n, ws.getD i 0 = BitVec.ofNat 32 (mreadLE t.mem (x.pa + 4 * i) 4)) ∧
  (∀ s i rest, s.agenda = .event i :: rest → encode i = none → step s = exec i { s with agenda := rest }) ∧
  (∀ s n rest, s.agenda = .tick n :: rest → ∃ t, step s = .next t ∧ s.clock ≤ t.clock ∧ t.clock ≤ s.clock + n ∧ t.mem = s.mem ∧
    t.clock = s.clock + mayPassTime { s with agenda := rest } n) ∧
  (∀ s core ctx pa rest, s.agenda = .evict core ctx pa :: rest → let here : State := { s with agenda := rest }
    ((getCore s core).line? ctx pa = none → step s = .next here) ∧
    ∀ l, (getCore s core).line? ctx pa = some l → step s = .next (evictLine here core l)) ∧
  (∀ s n rest, s.agenda = .busy s.w.id n :: rest → step s = .next { s with agenda := rest, w := { s.w with busy := s.clock + n, parked := true } }) ∧
  (∀ s, s.agenda = [] → s.mgmt.state = .booting → step s = exec .deviceReset s)

/-- 02 R17, R18, R22 to R31, and the encodings of each major's chapter: a word of each family, put together from the fields of its tables. -/
def Obligations.WrittenOutWordsDecode : Prop :=
  ∀ p ∈ ([
    (.warp, [0x00000000#32], .nop),
    (.warp, [word0 5 2 0 0 0], .brk 5),
    (.warp, [word0 0x7FFFF 0 0 1 0], .bra (-1)),
    (.warp, [word0 (formA 0 0 3 2 1) 2 0 2 0], .mand (plainOp .b32 (.msk 1) (.msk 2) (.msk 3))),
    (.warp, [word0 (formA 0 1 17 19 1) 0 0 4 0], .iadd { plainOp .i32 (.queue 1) (.vec 3) (.vec 1) with tr := true }),
    (.warp, word0 0 0 0 5 3 :: extWords 0 14 0 0 0 0 0 (specV 300) 0 (specC 0) (specS 40) ++ [0xF0, 0],
      .and { plainOp .b32 (.sca 40) .lit (.vec 300) with ext := true, lit := some 0xF0 }),
    (.warp, [word0 (formA 0 0 31 31 16) 0 0 6 0], .iaddi ⟨false, false, 0, -1, .vec 0⟩),
    (.warp, [word0 (formA 2 0 31 1 0) 2 0 7 0], .fcmp { plainOp .f32 (.queue 0) (.queue 1) (.msk 31) with mod := 2 }),
    (.warp, word0 0 0 1 8 2 :: extWords 7 2 0 0 1 0 5 (specS 1) 0 (specC 2) (specS 63),
      .fadd { plainOp .f32 (.sca 63) .one (.sca 1) with ext := true, u := true, rnd := .sr 7, neg := 1 }),
    (.warp, [word0 (formA 0 0 0 0 15) 0 0 9 0], .frcp (plainOp .f32 (.queue 15) .unused .queue)),
    (.warp, [word0 (formA 1 0 0 4 3) 0 0 10 0], .hadd2 { plainOp .f16 (.queue 3) (.queue 4) .queue with rnd := .rtz }),
    (.warp, word0 0 0 0 11 2 :: extWords 0 3 1 0 0 0 1 (specQ 0) 0 0 (specQ 15),
      .cvt { plainOp .f16 (.queue 15) .unused .queue with ext := true, rnd := .rtz, tr := true } .i32 0),
    (.warp, [word0 (formA 3 0 0 1 0) 0 0 12 0], .shfl { plainOp .b32 (.queue 0) (.queue 1) .queue with mod := 3 }),
    (.warp, [word0 (2#2 ++ 3#4 ++ 2#3 ++ 20#5 ++ 0#5) 0 0 0x10 0], .ld ⟨none, .queue 0, .vec 4, .word, 3, .keep⟩),
    (.warp, [word0 (3#2 ++ 2#4 ++ 2#3 ++ 1#5 ++ 0#5) 0 0 0x11 0], .aadd (.base none (.queue 0) (.queue 1) false 2 3)),
    (.warp, word0 0 0 0 0x12 2 :: extWords 0 14 0 0 0 0 0 (specQ 0) 0 (specV 4) (specS 7), .ldt none (.sca 7) (.vec 4) .queue false),
    (.warp, [word0 (0#6 ++ 9#6 ++ 2#3 ++ 1#4) 0 0 0x13 0], .push 9 2 1),
    (.warp, word0 0 0 0 0x14 2 :: extWords 0 14 0 0 0 0 0 (specV 8) 0 (specC 7) (specS 2), .tldv none (.sca 2) (.int 2) (.vec 8) false),
    (.sequencer, word0 0 6 1 0x15 2 :: extWords 0 2 0 0 0 0 0 (specS 3) 0 0 (specS 4), .mdrain .f32 none (.sca 4) (some 3)),
    (.warp, [word0 (0#11 ++ 4#5 ++ 6#3) 3 0 0x16 0], .bar 4 6),
    (.warp, word0 (0#10 ++ 1#1 ++ 2#2 ++ 5#6) 0 0 0x17 2 :: extWords 0 2 0 0 0 0 0 (specV 12) 0 (specQ 0) (specQ 1),
      .sample ⟨none, 5, 2, true, .queue 1, .queue 0, 12, false⟩),
    (.warp, word0 (0#10 ++ 3#3 ++ 2#3 ++ 1#3) 1 0 0x18 2 :: extWords 0 14 0 0 0 0 0 (specC 1) 0 0 0, .sand 1 2 3) ] :
    List (Where × List W32 × Instr)), decode p.1 p.2.1 = .ok p.2.2 ∧ encode p.2.2 = some p.2.1

/-- 02 R17 to R39: every instruction that an encoding stands for is read back from its own words, with every operand at every value. -/
def Obligations.DecodeInvertsEncode : Prop :=
  ∀ i ws, WellFormed i → encode i = some ws → decode (fetchedBy (ws.headD 0)) ws = .ok i

/-- 02 R17, R39, R41: no two encodings stand for one instruction: the words that decode are those that the encoder gives; words beyond the
length that LEN gives are not read. -/
def Obligations.EncodeInvertsDecode : Prop :=
  ∀ wh ws i, decode wh ws = .ok i → WellFormed i ∧ encode i = some (ws.take (wordCount (ws.headD 0).toNat)) ∧
    wordCount (ws.headD 0).toNat ≤ ws.length

/-- Every step keeps memory in its one canonical form: addresses strictly rising, no byte listed that an unlisted address reads as. -/
def Obligations.StepKeepsMemoryCanonical : Prop :=
  ∀ s t, s.memOk → step s = .next t → t.memOk
end

