-- ==== Sys2Proof/Laws/Enc.lean ====
section
/-! SUPPORT. Bit fields put together and taken apart, and words read back as the fields that they were written from. -/
namespace Sys2Proof.Machine

/-- The bits that the fields of a list take. -/
def fieldBits (xs : List (Nat × Nat)) : Nat := (xs.map (·.1)).sum

@[simp] theorem fieldBits_nil : fieldBits [] = 0 := rfl
@[simp] theorem fieldBits_cons (x : Nat × Nat) (xs) : fieldBits (x :: xs) = x.1 + fieldBits xs := by
  simp [fieldBits]

@[simp] theorem joinBits_nil : joinBits [] = 0 := rfl

theorem joinBits_cons (n v : Nat) (xs) : joinBits ((n, v) :: xs) = v % 2 ^ n + 2 ^ n * joinBits xs := rfl

/-- Fields put together stay below the power of two of their widths. -/
theorem joinBits_lt (xs : List (Nat × Nat)) : joinBits xs < 2 ^ fieldBits xs := by
  induction xs with
  | nil => simp
  | cons x xs ih =>
    obtain ⟨n, v⟩ := x
    have h : v % 2 ^ n < 2 ^ n := Nat.mod_lt _ (by positivity)
    rw [joinBits_cons, fieldBits_cons, pow_add]
    have h2 : joinBits xs + 1 ≤ 2 ^ fieldBits xs := ih
    calc v % 2 ^ n + 2 ^ n * joinBits xs < 2 ^ n * (joinBits xs + 1) := by rw [Nat.mul_add]; omega
      _ ≤ _ := Nat.mul_le_mul_left _ h2

/-- The first field reads back. -/
theorem bitsAt_joinBits_head (n v : Nat) (xs) : bitsAt (joinBits ((n, v) :: xs)) 0 n = v % 2 ^ n := by
  simp [bitsAt, joinBits_cons, Nat.add_mul_mod_self_left]

/-- A field past the first reads back from the rest. -/
theorem bitsAt_joinBits_tail (n v lo m : Nat) (xs) (h : n ≤ lo) :
    bitsAt (joinBits ((n, v) :: xs)) lo m = bitsAt (joinBits xs) (lo - n) m := by
  have hv : v % 2 ^ n < 2 ^ n := Nat.mod_lt _ (by positivity)
  obtain ⟨k, rfl⟩ := Nat.exists_eq_add_of_le h
  have hd : (v % 2 ^ n + 2 ^ n * joinBits xs) / 2 ^ n = joinBits xs := by
    rw [Nat.add_mul_div_left _ _ (by positivity), Nat.div_eq_of_lt hv, Nat.zero_add]
  simp [bitsAt, joinBits_cons, pow_add, ← Nat.div_div_eq_div_mul, hd]

theorem bitsAt_lt (w lo n : Nat) : bitsAt w lo n < 2 ^ n := Nat.mod_lt _ (by positivity)

end Sys2Proof.Machine

namespace Sys2Proof

open Machine

@[simp] theorem bit_lt_two (b : Bool) : bit b < 2 := by cases b <;> decide

@[simp] theorem bit_mod_two (b : Bool) : bit b % 2 = bit b := by cases b <;> rfl

theorem extWord_lt (e : Ext) : extWord e < 2 ^ 64 := by
  simpa [extWord] using joinBits_lt [(11, e.a), (11, e.b), (11, e.c), (11, e.d), (3, e.rnd), (1, e.sat), (3, e.neg),
    (3, e.abs), (1, e.t), (4, e.ty), (5, e.x5)]

/-- The fields of a word E read back. -/
theorem extOf_extWord (e : Ext) : extOf (extWord e) = ⟨e.a % 2 ^ 11, e.b % 2 ^ 11, e.c % 2 ^ 11, e.d % 2 ^ 11, e.rnd % 2 ^ 3,
    e.sat % 2 ^ 1, e.neg % 2 ^ 3, e.abs % 2 ^ 3, e.t % 2 ^ 1, e.ty % 2 ^ 4, e.x5 % 2 ^ 5⟩ := by
  simp only [extOf, extWord]
  congr 1 <;> (repeat rw [bitsAt_joinBits_tail _ _ _ _ _ (by decide)]) <;> exact bitsAt_joinBits_head _ _ _

/-- Whether each field of the words fits the bits that 02 Tables 02-1 and 02-4 give it. -/
structure Raw.Fits (r : Raw) : Prop where
  maj : r.maj < 64
  u   : r.u < 2
  mn  : r.mn < minorCount r.maj
  x   : r.x < 2 ^ 19
  e   : r.e < 2 ^ 64
  ext : r.ext = false → r.e = 0

theorem minorCount_le (m : Nat) : minorCount m ≤ 16 := by
  unfold minorCount; split <;> omega

theorem twoWords_wordsOf (n : Nat) (h : n < 2 ^ 64) :
    twoWords (BitVec.ofNat 32 n) (BitVec.ofNat 32 (n / 4294967296)) = n := by
  simp only [twoWords, BitVec.toNat_ofNat]; omega

theorem ofNat_twoWords (v : W64) :
    BitVec.ofNat 64 (twoWords (BitVec.ofNat 32 v.toNat) (BitVec.ofNat 32 (v.toNat / 4294967296))) = v := by
  rw [twoWords_wordsOf _ v.isLt]; simp

/-- Word 0 of the fields. -/
def Raw.word0 (r : Raw) : W32 :=
  BitVec.ofNat 32 (joinBits [(2, 2 * bit r.ext + bit r.lit.isSome), (6, r.maj), (1, r.u), (4, r.mn), (19, r.x)])

theorem Raw.word0_toNat (r : Raw) :
    r.word0.toNat = joinBits [(2, 2 * bit r.ext + bit r.lit.isSome), (6, r.maj), (1, r.u), (4, r.mn), (19, r.x)] := by
  rw [Raw.word0, BitVec.toNat_ofNat]
  exact Nat.mod_eq_of_lt (joinBits_lt _)

theorem Raw.word0_len (r : Raw) : r.word0.toNat % 4 = 2 * bit r.ext + bit r.lit.isSome := by
  rw [Raw.word0_toNat, joinBits_cons]
  cases r.ext <;> cases r.lit <;> simp [bit]

/-- The fields that fit are read back from the words that hold them. -/
theorem rawOf_wordsOfRaw (r : Raw) (h : r.Fits) : rawOf (wordsOfRaw r) = some r := by
  have hmn : r.mn < 16 := lt_of_lt_of_le h.mn (minorCount_le _)
  have hm : bitsAt r.word0.toNat 2 6 = r.maj := by
    rw [Raw.word0_toNat, bitsAt_joinBits_tail _ _ _ _ _ (by decide), bitsAt_joinBits_head]
    exact Nat.mod_eq_of_lt h.maj
  have hu : bitsAt r.word0.toNat 8 1 = r.u := by
    rw [Raw.word0_toNat, bitsAt_joinBits_tail _ _ _ _ _ (by decide), bitsAt_joinBits_tail _ _ _ _ _ (by decide),
      bitsAt_joinBits_head]
    exact Nat.mod_eq_of_lt h.u
  have hn : bitsAt r.word0.toNat 9 4 = r.mn := by
    rw [Raw.word0_toNat]
    repeat rw [bitsAt_joinBits_tail _ _ _ _ _ (by decide)]
    rw [bitsAt_joinBits_head]
    exact Nat.mod_eq_of_lt hmn
  have hx : bitsAt r.word0.toNat 13 19 = r.x := by
    rw [Raw.word0_toNat]
    repeat rw [bitsAt_joinBits_tail _ _ _ _ _ (by decide)]
    rw [bitsAt_joinBits_head]
    exact Nat.mod_eq_of_lt h.x
  have hl := r.word0_len
  have he := twoWords_wordsOf r.e h.e
  have h0 := h.ext
  have hw : wordsOfRaw r = r.word0 :: ((if r.ext then wordsOf r.e else []) ++
    (match r.lit with | some v => wordsOf v.toNat | none => [])) := rfl
  rw [hw]
  generalize r.word0 = w at *
  obtain ⟨ext, lit, maj, u, mn, x, e⟩ := r
  cases ext <;> cases lit <;>
    simp only [bit, Option.isSome, Nat.reduceMul, Nat.reduceAdd, Bool.false_eq_true, if_true, if_false] at hl h0 hm hu hn hx he <;>
    simp [rawOf, wordsOf, hl, hm, hu, hn, hx, he, h0, -BitVec.ofNat_toNat, ofNat_twoWords]

theorem rawS_fits (maj mn : Nat) (lit xs) (h : maj < 64) (h2 : mn < minorCount maj) (h3 : fieldBits xs ≤ 19) :
    (rawS maj mn lit xs).Fits :=
  ⟨h, by simp [rawS], h2, lt_of_lt_of_le (joinBits_lt xs) (Nat.pow_le_pow_right (by decide) h3), by simp [rawS], fun _ => rfl⟩

theorem rawX_fits (maj u mn : Nat) (lit xs e) (h : maj < 64) (hu : u < 2) (h2 : mn < minorCount maj) (h3 : fieldBits xs ≤ 19)
    (he : e < 2 ^ 64) : (rawX maj u mn lit xs e).Fits :=
  ⟨h, hu, h2, lt_of_lt_of_le (joinBits_lt xs) (Nat.pow_le_pow_right (by decide) h3), he, by simp [rawX]⟩

theorem rawM_fits (maj u mn : Nat) (lit a d sz sb hnt) (h : maj < 64) (hu : u < 2) (h2 : mn < minorCount maj) :
    (rawM maj u mn lit a d sz sb hnt).Fits :=
  ⟨h, hu, h2, joinBits_lt _, by simp [rawM], fun _ => rfl⟩

theorem immRaw_fits (mn : Nat) (m : Imm) (h : mn < 9) :
    (Raw.mk false none 6 (bit m.u) mn (joinBits [(5, srcCode5 m.a), (10, m.imm.toNat), (1, bit m.tr), (3, m.mod.toNat)]) 0).Fits :=
  ⟨show (6 : Nat) < 64 by decide, bit_lt_two _, h, joinBits_lt _, by simp, fun _ => rfl⟩

theorem atomRaw_fits (mn : Nat) (o : Atom) (h : mn < 10) : (atomRaw mn o).Fits := by
  cases o with
  | base => exact rawM_fits _ _ _ _ _ _ _ _ _ (by decide) (by decide) h
  | ext => exact rawX_fits _ _ _ _ _ _ (by decide) (by decide) h (by simp) (extWord_lt _)

theorem tyCode_lt (t : Ty) : tyCode t < 16 := by cases t <;> decide

theorem aluRaw_fits (x : Alu) (hx : (Nat.blt x.maj 64 && Nat.blt x.mn (minorCount x.maj)) = true) : (aluRaw x).Fits := by
  obtain ⟨h, h2⟩ : x.maj < 64 ∧ x.mn < minorCount x.maj := by simpa [Nat.blt_eq] using hx
  unfold aluRaw
  have ht := tyCode_lt x.sty
  have hs := x.sel.isLt
  have hm := x.op.mod.isLt
  have hb := bit_lt_two x.excl
  by_cases he : x.op.ext = true
  · rw [if_pos he]
    exact ⟨h, bit_lt_two _, h2, by dsimp only; split <;> omega, extWord_lt _, fun h => by simp at h⟩
  · rw [if_neg he]
    exact ⟨h, bit_lt_two _, h2, joinBits_lt _, by simp, fun _ => rfl⟩

end Sys2Proof
end

