-- ==== Sys2Proof/Laws/Mem.lean ====
section
/-! SUPPORT. Memory: what a write does to every byte, and that every operation keeps the canonical form. -/
namespace Sys2Proof.Machine

/-- The canonical form from a lower bound is the canonical form from any smaller one. -/
theorem Mem.wfFrom_mono {lo hi : Nat} (h : lo ≤ hi) : ∀ {m : Mem}, Mem.wfFrom hi m = true → Mem.wfFrom lo m = true
  | [], _ => rfl
  | (k, b) :: t, hm => by
    simp only [Mem.wfFrom, Bool.and_eq_true, decide_eq_true_eq] at hm ⊢
    exact ⟨⟨by omega, hm.1.2⟩, hm.2⟩

/-- A write keeps the canonical form above any bound at or below its address. -/
theorem mwrite_wfFrom {a : Byte} {n : Nat} : ∀ {m : Mem} {lo : Nat}, lo ≤ n → Mem.wfFrom lo m = true → Mem.wfFrom lo (mwrite m n a) = true
  | [], lo, h, _ => by
    unfold mwrite
    split
    · rfl
    · simp_all [Mem.wfFrom]
  | (k, b) :: t, lo, h, hm => by
    simp only [Mem.wfFrom, Bool.and_eq_true, decide_eq_true_eq] at hm
    have down : Mem.wfFrom lo t = true := Mem.wfFrom_mono (by omega) hm.2
    unfold mwrite
    split
    · next hk =>
      split
      · exact down
      · simp_all [Mem.wfFrom]
    · split
      · split
        · simp_all [Mem.wfFrom]
        · simp_all [Mem.wfFrom, Nat.succ_le_iff]
      · simp only [Mem.wfFrom, Bool.and_eq_true, decide_eq_true_eq]
        exact ⟨hm.1, mwrite_wfFrom (by omega) hm.2⟩

theorem mwrite_wf {m : Mem} (n : Nat) (a : Byte) (h : m.wf = true) : (mwrite m n a).wf = true := mwrite_wfFrom (Nat.zero_le n) h

theorem mwriteN_wf : ∀ {m : Mem} (a : Nat) (bs : List Byte), m.wf = true → (mwriteN m a bs).wf = true
  | _, _, [], h => h
  | _, a, b :: bs, h => mwriteN_wf (a + 1) bs (mwrite_wf a b h)

theorem mwriteLE_wf {m : Mem} (a n x : Nat) (h : m.wf = true) : (mwriteLE m a n x).wf = true := mwriteN_wf _ _ h

/-- An address below every listed one reads 0. -/
theorem mread_below : ∀ {m : Mem} {lo n : Nat}, n < lo → Mem.wfFrom lo m = true → mread m n = 0
  | [], _, _, _, _ => rfl
  | (k, b) :: t, lo, n, h, hm => by
    simp only [Mem.wfFrom, Bool.and_eq_true, decide_eq_true_eq] at hm
    unfold mread
    split
    · omega
    · split
      · rfl
      · omega

/-- A read after a write: the byte written, and every other byte as before. -/
theorem mread_mwrite {a : Byte} {n j : Nat} : ∀ {m : Mem} {lo : Nat}, Mem.wfFrom lo m = true →
    mread (mwrite m n a) j = if j = n then a else mread m j
  | [], _, _ => by
    unfold mwrite
    split <;> simp_all [mread]
  | (k, b) :: t, lo, hm => by
    simp only [Mem.wfFrom, Bool.and_eq_true, decide_eq_true_eq] at hm
    have below : ∀ i, i < k + 1 → mread t i = 0 := fun i hi => mread_below hi hm.2
    have ih := mread_mwrite (a := a) (n := n) (j := j) hm.2
    unfold mwrite
    grind [mread]

/-- Bytes written one after another read back, and every other byte is as before. -/
theorem mread_mwriteN {j : Nat} : ∀ {m : Mem} (a : Nat) (bs : List Byte), m.wf = true →
    mread (mwriteN m a bs) j = if a ≤ j ∧ j < a + bs.length then bs.getD (j - a) 0 else mread m j
  | _, a, [], _ => by
    have h : ¬ (a ≤ j ∧ j < a + ([] : List Byte).length) := by simp only [List.length_nil]; omega
    rw [mwriteN, if_neg h]
  | m, a, b :: bs, h => by
    rw [mwriteN, mread_mwriteN (a + 1) bs (mwrite_wf a b h), mread_mwrite h]
    grind [List.getD_cons_succ, List.getD_cons_zero]

end Sys2Proof.Machine
end

