-- ==== Sys2Proof/Laws/PerInstr.lean ====
section
/-! SUPPORT. For each instruction: the fields that the encoder gives it fit the bits of its words, so that they are read back
(`rawOf_wordsOfRaw`); an event has none. -/
namespace Sys2Proof.Laws.Fields

open Sys2Proof Machine

/-- The fields that the encoder gives the instruction fit their bits. -/
def Statement (i : Instr) : Prop := ∀ r, rawOfInstr i = some r → r.Fits

theorem of_some {i : Instr} {r : Raw} (h : rawOfInstr i = some r) (hr : r.Fits) : Statement i := by
  intro x hx; rw [h] at hx; exact Option.some.inj hx ▸ hr

theorem of_none {i : Instr} (h : rawOfInstr i = none) : Statement i := by
  intro x hx; rw [h] at hx; cases hx

theorem nop : Statement (Instr.nop) := of_some rfl (rawS_fits _ _ _ _ (by decide) (by decide) (by simp))
theorem exit : Statement (Instr.exit) := of_some rfl (rawS_fits _ _ _ _ (by decide) (by decide) (by simp))
theorem brk (a) : Statement (Instr.brk a) := of_some rfl (rawS_fits _ _ _ _ (by decide) (by decide) (by simp))
theorem trap (a) : Statement (Instr.trap a) := of_some rfl (rawS_fits _ _ _ _ (by decide) (by decide) (by simp))
theorem rtt (a) : Statement (Instr.rtt a) := of_some rfl (rawS_fits _ _ _ _ (by decide) (by decide) (by simp))
theorem yield (a) : Statement (Instr.yield a) := of_some rfl (rawS_fits _ _ _ _ (by decide) (by decide) (by simp))
theorem icpf (a b) : Statement (Instr.icpf a b) := of_some rfl (rawS_fits _ _ _ _ (by decide) (by decide) (by simp))
theorem srd (a b c) : Statement (Instr.srd a b c) := of_some rfl (rawS_fits _ _ _ _ (by decide) (by decide) (by simp))
theorem swr (a b c) : Statement (Instr.swr a b c) := of_some rfl (rawS_fits _ _ _ _ (by decide) (by decide) (by simp))
theorem swrLit (a b c) : Statement (Instr.swrLit a b c) := of_some rfl (rawS_fits _ _ _ _ (by decide) (by decide) (by simp))
theorem ntdrain : Statement (Instr.ntdrain) := of_some rfl (rawS_fits _ _ _ _ (by decide) (by decide) (by simp))
theorem lease (a b c) : Statement (Instr.lease a b c) := of_some rfl (rawS_fits _ _ _ _ (by decide) (by decide) (by simp))
theorem claim (a b) : Statement (Instr.claim a b) := of_some rfl (rawS_fits _ _ _ _ (by decide) (by decide) (by simp))
theorem claimLit (a b c) : Statement (Instr.claimLit a b c) := of_some rfl (rawS_fits _ _ _ _ (by decide) (by decide) (by simp))
theorem giveback (a) : Statement (Instr.giveback a) := of_some rfl (rawS_fits _ _ _ _ (by decide) (by decide) (by simp))
theorem chmapC (a b c d) : Statement (Instr.chmapC a b c d) := of_some rfl (rawS_fits _ _ _ _ (by decide) (by decide) (by simp))
theorem chmapP (a b) : Statement (Instr.chmapP a b) := of_some rfl (rawS_fits _ _ _ _ (by decide) (by decide) (by simp))
theorem waitmem (a b c d e) : Statement (Instr.waitmem a b c d e) := of_some rfl (rawS_fits _ _ _ _ (by decide) (by decide) (by simp))
theorem waitmemLit (a b c d e) : Statement (Instr.waitmemLit a b c d e) := of_some rfl (rawS_fits _ _ _ _ (by decide) (by decide) (by simp))
theorem waitmemRecheck (a) : Statement (Instr.waitmemRecheck a) := of_none rfl
theorem claimWaitLimit (a) : Statement (Instr.claimWaitLimit a) := of_none rfl
theorem bra (a) : Statement (Instr.bra a) := of_some rfl (rawS_fits _ _ _ _ (by decide) (by decide) (by simp))
theorem brs (a b c) : Statement (Instr.brs a b c) := of_some rfl (rawX_fits _ _ _ _ _ _ (by decide) (by decide) (by decide) (by simp) (extWord_lt _))
theorem brm (a b c) : Statement (Instr.brm a b c) := of_some rfl (rawX_fits _ _ _ _ _ _ (by decide) (by decide) (by decide) (by simp) (extWord_lt _))
theorem brany (a b) : Statement (Instr.brany a b) := of_some rfl (rawX_fits _ _ _ _ _ _ (by decide) (by decide) (by decide) (by simp) (extWord_lt _))
theorem brall (a b) : Statement (Instr.brall a b) := of_some rfl (rawX_fits _ _ _ _ _ _ (by decide) (by decide) (by decide) (by simp) (extWord_lt _))
theorem call (a) : Statement (Instr.call a) := of_some rfl (rawS_fits _ _ _ _ (by decide) (by decide) (by simp))
theorem callm (a b) : Statement (Instr.callm a b) := of_some rfl (rawX_fits _ _ _ _ _ _ (by decide) (by decide) (by decide) (by simp) (extWord_lt _))
theorem ret : Statement (Instr.ret) := of_some rfl (rawS_fits _ _ _ _ (by decide) (by decide) (by simp))
theorem plset (a b) : Statement (Instr.plset a b) := of_some rfl (rawX_fits _ _ _ _ _ _ (by decide) (by decide) (by decide) (by simp) (extWord_lt _))
theorem plsw (a b) : Statement (Instr.plsw a b) := of_some rfl (rawX_fits _ _ _ _ _ _ (by decide) (by decide) (by decide) (by simp) (extWord_lt _))
theorem loop (a b c d) : Statement (Instr.loop a b c d) := of_some rfl (rawX_fits _ _ _ _ _ _ (by decide) (by decide) (by decide) (by simp) (extWord_lt _))
theorem loopx (a b) : Statement (Instr.loopx a b) := of_some rfl (rawX_fits _ _ _ _ _ _ (by decide) (by decide) (by decide) (by simp) (extWord_lt _))
theorem mset (a) : Statement (Instr.mset a) := of_some rfl (aluRaw_fits _ rfl)
theorem mget (a) : Statement (Instr.mget a) := of_some rfl (aluRaw_fits _ rfl)
theorem mand (a) : Statement (Instr.mand a) := of_some rfl (aluRaw_fits _ rfl)
theorem mor (a) : Statement (Instr.mor a) := of_some rfl (aluRaw_fits _ rfl)
theorem mxor (a) : Statement (Instr.mxor a) := of_some rfl (aluRaw_fits _ rfl)
theorem mandn (a) : Statement (Instr.mandn a) := of_some rfl (aluRaw_fits _ rfl)
theorem mnot (a) : Statement (Instr.mnot a) := of_some rfl (aluRaw_fits _ rfl)
theorem mpop (a) : Statement (Instr.mpop a) := of_some rfl (aluRaw_fits _ rfl)
theorem mfirst (a) : Statement (Instr.mfirst a) := of_some rfl (aluRaw_fits _ rfl)
theorem mlit (a b c) : Statement (Instr.mlit a b c) := of_some rfl (rawX_fits _ _ _ _ _ _ (by decide) (by decide) (by decide) (by simp) (extWord_lt _))
theorem iadd (a) : Statement (Instr.iadd a) := of_some rfl (aluRaw_fits _ rfl)
theorem isub (a) : Statement (Instr.isub a) := of_some rfl (aluRaw_fits _ rfl)
theorem imul (a) : Statement (Instr.imul a) := of_some rfl (aluRaw_fits _ rfl)
theorem imulh (a) : Statement (Instr.imulh a) := of_some rfl (aluRaw_fits _ rfl)
theorem imad (a) : Statement (Instr.imad a) := of_some rfl (aluRaw_fits _ rfl)
theorem imin (a) : Statement (Instr.imin a) := of_some rfl (aluRaw_fits _ rfl)
theorem imax (a) : Statement (Instr.imax a) := of_some rfl (aluRaw_fits _ rfl)
theorem iabs (a) : Statement (Instr.iabs a) := of_some rfl (aluRaw_fits _ rfl)
theorem ineg (a) : Statement (Instr.ineg a) := of_some rfl (aluRaw_fits _ rfl)
theorem iadds (a) : Statement (Instr.iadds a) := of_some rfl (aluRaw_fits _ rfl)
theorem isubs (a) : Statement (Instr.isubs a) := of_some rfl (aluRaw_fits _ rfl)
theorem lea (a) : Statement (Instr.lea a) := of_some rfl (aluRaw_fits _ rfl)
theorem iadd64 (a) : Statement (Instr.iadd64 a) := of_some rfl (aluRaw_fits _ rfl)
theorem isub64 (a) : Statement (Instr.isub64 a) := of_some rfl (aluRaw_fits _ rfl)
theorem idiv (a) : Statement (Instr.idiv a) := of_some rfl (aluRaw_fits _ rfl)
theorem irem (a) : Statement (Instr.irem a) := of_some rfl (aluRaw_fits _ rfl)
theorem and (a) : Statement (Instr.and a) := of_some rfl (aluRaw_fits _ rfl)
theorem or (a) : Statement (Instr.or a) := of_some rfl (aluRaw_fits _ rfl)
theorem xor (a) : Statement (Instr.xor a) := of_some rfl (aluRaw_fits _ rfl)
theorem andn (a) : Statement (Instr.andn a) := of_some rfl (aluRaw_fits _ rfl)
theorem not (a) : Statement (Instr.not a) := of_some rfl (aluRaw_fits _ rfl)
theorem shl (a) : Statement (Instr.shl a) := of_some rfl (aluRaw_fits _ rfl)
theorem shr (a) : Statement (Instr.shr a) := of_some rfl (aluRaw_fits _ rfl)
theorem sra (a) : Statement (Instr.sra a) := of_some rfl (aluRaw_fits _ rfl)
theorem rot (a) : Statement (Instr.rot a) := of_some rfl (aluRaw_fits _ rfl)
theorem bfe (a) : Statement (Instr.bfe a) := of_some rfl (aluRaw_fits _ rfl)
theorem bfi (a) : Statement (Instr.bfi a) := of_some rfl (aluRaw_fits _ rfl)
theorem popc (a) : Statement (Instr.popc a) := of_some rfl (aluRaw_fits _ rfl)
theorem clz (a) : Statement (Instr.clz a) := of_some rfl (aluRaw_fits _ rfl)
theorem brev (a) : Statement (Instr.brev a) := of_some rfl (aluRaw_fits _ rfl)
theorem sel (a) : Statement (Instr.sel a) := of_some rfl (aluRaw_fits _ rfl)
theorem mov (a) : Statement (Instr.mov a) := of_some rfl (aluRaw_fits _ rfl)
theorem iaddi (a) : Statement (Instr.iaddi a) := of_some rfl (immRaw_fits _ _ (by decide))
theorem andi (a) : Statement (Instr.andi a) := of_some rfl (immRaw_fits _ _ (by decide))
theorem ori (a) : Statement (Instr.ori a) := of_some rfl (immRaw_fits _ _ (by decide))
theorem xori (a) : Statement (Instr.xori a) := of_some rfl (immRaw_fits _ _ (by decide))
theorem shli (a) : Statement (Instr.shli a) := of_some rfl (immRaw_fits _ _ (by decide))
theorem shri (a) : Statement (Instr.shri a) := of_some rfl (immRaw_fits _ _ (by decide))
theorem srai (a) : Statement (Instr.srai a) := of_some rfl (immRaw_fits _ _ (by decide))
theorem movi (a) : Statement (Instr.movi a) := of_some rfl (immRaw_fits _ _ (by decide))
theorem icmpi (a) : Statement (Instr.icmpi a) := of_some rfl (immRaw_fits _ _ (by decide))
theorem icmp (a) : Statement (Instr.icmp a) := of_some rfl (aluRaw_fits _ rfl)
theorem icmpn (a) : Statement (Instr.icmpn a) := of_some rfl (aluRaw_fits _ rfl)
theorem fcmp (a) : Statement (Instr.fcmp a) := of_some rfl (aluRaw_fits _ rfl)
theorem fcmpx (a) : Statement (Instr.fcmpx a) := of_some rfl (aluRaw_fits _ rfl)
theorem fadd (a) : Statement (Instr.fadd a) := of_some rfl (aluRaw_fits _ rfl)
theorem fsub (a) : Statement (Instr.fsub a) := of_some rfl (aluRaw_fits _ rfl)
theorem fmul (a) : Statement (Instr.fmul a) := of_some rfl (aluRaw_fits _ rfl)
theorem ffma (a) : Statement (Instr.ffma a) := of_some rfl (aluRaw_fits _ rfl)
theorem fmin (a) : Statement (Instr.fmin a) := of_some rfl (aluRaw_fits _ rfl)
theorem fmax (a) : Statement (Instr.fmax a) := of_some rfl (aluRaw_fits _ rfl)
theorem fabs (a) : Statement (Instr.fabs a) := of_some rfl (aluRaw_fits _ rfl)
theorem fneg (a) : Statement (Instr.fneg a) := of_some rfl (aluRaw_fits _ rfl)
theorem frnd (a) : Statement (Instr.frnd a) := of_some rfl (aluRaw_fits _ rfl)
theorem ffrac (a) : Statement (Instr.ffrac a) := of_some rfl (aluRaw_fits _ rfl)
theorem fldexp (a) : Statement (Instr.fldexp a) := of_some rfl (aluRaw_fits _ rfl)
theorem fclass (a) : Statement (Instr.fclass a) := of_some rfl (aluRaw_fits _ rfl)
theorem fcopysign (a) : Statement (Instr.fcopysign a) := of_some rfl (aluRaw_fits _ rfl)
theorem fdiv (a) : Statement (Instr.fdiv a) := of_some rfl (aluRaw_fits _ rfl)
theorem fsqrt (a) : Statement (Instr.fsqrt a) := of_some rfl (aluRaw_fits _ rfl)
theorem frcp (a) : Statement (Instr.frcp a) := of_some rfl (aluRaw_fits _ rfl)
theorem frsq (a) : Statement (Instr.frsq a) := of_some rfl (aluRaw_fits _ rfl)
theorem fexp2 (a) : Statement (Instr.fexp2 a) := of_some rfl (aluRaw_fits _ rfl)
theorem flog2 (a) : Statement (Instr.flog2 a) := of_some rfl (aluRaw_fits _ rfl)
theorem fsinp (a) : Statement (Instr.fsinp a) := of_some rfl (aluRaw_fits _ rfl)
theorem fcosp (a) : Statement (Instr.fcosp a) := of_some rfl (aluRaw_fits _ rfl)
theorem ftanh (a) : Statement (Instr.ftanh a) := of_some rfl (aluRaw_fits _ rfl)
theorem fsigm (a) : Statement (Instr.fsigm a) := of_some rfl (aluRaw_fits _ rfl)
theorem hadd2 (a) : Statement (Instr.hadd2 a) := of_some rfl (aluRaw_fits _ rfl)
theorem hmul2 (a) : Statement (Instr.hmul2 a) := of_some rfl (aluRaw_fits _ rfl)
theorem hfma2 (a) : Statement (Instr.hfma2 a) := of_some rfl (aluRaw_fits _ rfl)
theorem badd2 (a) : Statement (Instr.badd2 a) := of_some rfl (aluRaw_fits _ rfl)
theorem bmul2 (a) : Statement (Instr.bmul2 a) := of_some rfl (aluRaw_fits _ rfl)
theorem bfma2 (a) : Statement (Instr.bfma2 a) := of_some rfl (aluRaw_fits _ rfl)
theorem padd16 (a) : Statement (Instr.padd16 a) := of_some rfl (aluRaw_fits _ rfl)
theorem psub16 (a) : Statement (Instr.psub16 a) := of_some rfl (aluRaw_fits _ rfl)
theorem pmin16 (a) : Statement (Instr.pmin16 a) := of_some rfl (aluRaw_fits _ rfl)
theorem pmax16 (a) : Statement (Instr.pmax16 a) := of_some rfl (aluRaw_fits _ rfl)
theorem padds16 (a) : Statement (Instr.padds16 a) := of_some rfl (aluRaw_fits _ rfl)
theorem pdot4t8 (a) : Statement (Instr.pdot4t8 a) := of_some rfl (aluRaw_fits _ rfl)
theorem pdot8i4 (a) : Statement (Instr.pdot8i4 a) := of_some rfl (aluRaw_fits _ rfl)
theorem pshf (a) : Statement (Instr.pshf a) := of_some rfl (aluRaw_fits _ rfl)
theorem cvt (a b c) : Statement (Instr.cvt a b c) := of_some rfl (aluRaw_fits _ rfl)
theorem cvtsr (a b c) : Statement (Instr.cvtsr a b c) := of_some rfl (aluRaw_fits _ rfl)
theorem pack (a b c) : Statement (Instr.pack a b c) := of_some rfl (aluRaw_fits _ rfl)
theorem unpack (a b) : Statement (Instr.unpack a b) := of_some rfl (aluRaw_fits _ rfl)
theorem shfl (a) : Statement (Instr.shfl a) := of_some rfl (aluRaw_fits _ rfl)
theorem vote (a) : Statement (Instr.vote a) := of_some rfl (aluRaw_fits _ rfl)
theorem redu (a) : Statement (Instr.redu a) := of_some rfl (aluRaw_fits _ rfl)
theorem scan (a b) : Statement (Instr.scan a b) := of_some rfl (aluRaw_fits _ rfl)
theorem bcast (a) : Statement (Instr.bcast a) := of_some rfl (aluRaw_fits _ rfl)
theorem qdx (a) : Statement (Instr.qdx a) := of_some rfl (aluRaw_fits _ rfl)
theorem qdy (a) : Statement (Instr.qdy a) := of_some rfl (aluRaw_fits _ rfl)
theorem qswp (a) : Statement (Instr.qswp a) := of_some rfl (aluRaw_fits _ rfl)
theorem ld (a) : Statement (Instr.ld a) := of_some rfl (rawM_fits _ _ _ _ _ _ _ _ _ (by decide) (by decide) (by decide))
theorem st (a) : Statement (Instr.st a) := of_some rfl (rawM_fits _ _ _ _ _ _ _ _ _ (by decide) (by decide) (by decide))
theorem lde (a) : Statement (Instr.lde a) := of_some rfl (rawM_fits _ _ _ _ _ _ _ _ _ (by decide) (by decide) (by decide))
theorem ste (a) : Statement (Instr.ste a) := of_some rfl (rawM_fits _ _ _ _ _ _ _ _ _ (by decide) (by decide) (by decide))
theorem lds (a) : Statement (Instr.lds a) := of_some rfl (rawM_fits _ _ _ _ _ _ _ _ _ (by decide) (by decide) (by decide))
theorem sts (a) : Statement (Instr.sts a) := of_some rfl (rawM_fits _ _ _ _ _ _ _ _ _ (by decide) (by decide) (by decide))
theorem ldu (a) : Statement (Instr.ldu a) := of_some rfl (rawM_fits _ _ _ _ _ _ _ _ _ (by decide) (by decide) (by decide))
theorem stu (a) : Statement (Instr.stu a) := of_some rfl (rawM_fits _ _ _ _ _ _ _ _ _ (by decide) (by decide) (by decide))
theorem ntst (a) : Statement (Instr.ntst a) := of_some rfl (rawM_fits _ _ _ _ _ _ _ _ _ (by decide) (by decide) (by decide))
theorem prf (a b c d) : Statement (Instr.prf a b c d) := of_some rfl (rawM_fits _ _ _ _ _ _ _ _ _ (by decide) (by decide) (by decide))
theorem ld64 (a) : Statement (Instr.ld64 a) := of_some rfl (rawM_fits _ _ _ _ _ _ _ _ _ (by decide) (by decide) (by decide))
theorem st64 (a) : Statement (Instr.st64 a) := of_some rfl (rawM_fits _ _ _ _ _ _ _ _ _ (by decide) (by decide) (by decide))
theorem loadReturn (a) : Statement (Instr.loadReturn a) := of_none rfl
theorem aadd (a) : Statement (Instr.aadd a) := of_some rfl (atomRaw_fits _ _ (by decide))
theorem amin (a) : Statement (Instr.amin a) := of_some rfl (atomRaw_fits _ _ (by decide))
theorem amax (a) : Statement (Instr.amax a) := of_some rfl (atomRaw_fits _ _ (by decide))
theorem aand (a) : Statement (Instr.aand a) := of_some rfl (atomRaw_fits _ _ (by decide))
theorem aor (a) : Statement (Instr.aor a) := of_some rfl (atomRaw_fits _ _ (by decide))
theorem axor (a) : Statement (Instr.axor a) := of_some rfl (atomRaw_fits _ _ (by decide))
theorem axch (a) : Statement (Instr.axch a) := of_some rfl (atomRaw_fits _ _ (by decide))
theorem acas (a) : Statement (Instr.acas a) := of_some rfl (atomRaw_fits _ _ (by decide))
theorem afadd (a) : Statement (Instr.afadd a) := of_some rfl (atomRaw_fits _ _ (by decide))
theorem ainc (a) : Statement (Instr.ainc a) := of_some rfl (atomRaw_fits _ _ (by decide))
theorem ldt (a b c d e) : Statement (Instr.ldt a b c d e) := of_some rfl (rawX_fits _ _ _ _ _ _ (by decide) (by decide) (by decide) (by simp) (extWord_lt _))
theorem stt (a b c d e f) : Statement (Instr.stt a b c d e f) := of_some rfl (rawX_fits _ _ _ _ _ _ (by decide) (by decide) (by decide) (by simp) (extWord_lt _))
theorem lhbind (a b c d) : Statement (Instr.lhbind a b c d) := of_some rfl (rawX_fits _ _ _ _ _ _ (by decide) (by decide) (by decide) (by simp) (extWord_lt _))
theorem lhinv (a b c) : Statement (Instr.lhinv a b c) := of_some rfl (rawX_fits _ _ _ _ _ _ (by decide) (by decide) (by decide) (by simp) (extWord_lt _))
theorem lhq (a b c d e) : Statement (Instr.lhq a b c d e) := of_some rfl (rawX_fits _ _ _ _ _ _ (by decide) (by decide) (by decide) (by simp) (extWord_lt _))
theorem push (a b c) : Statement (Instr.push a b c) := of_some rfl (rawS_fits _ _ _ _ (by decide) (by decide) (by simp))
theorem yldc (a b c) : Statement (Instr.yldc a b c) := of_some rfl (rawX_fits _ _ _ _ _ _ (by decide) (by decide) (by decide) (by simp) (extWord_lt _))
theorem cwait (a b) : Statement (Instr.cwait a b) := of_some rfl (rawS_fits _ _ _ _ (by decide) (by decide) (by simp))
theorem ctest (a b) : Statement (Instr.ctest a b) := of_some rfl (rawS_fits _ _ _ _ (by decide) (by decide) (by simp))
theorem tldv (a b c d e) : Statement (Instr.tldv a b c d e) := of_some rfl (rawX_fits _ _ _ _ _ _ (by decide) (by decide) (by decide) (by simp) (extWord_lt _))
theorem tstv (a b c d e f) : Statement (Instr.tstv a b c d e f) := of_some rfl (rawX_fits _ _ _ _ _ _ (by decide) (by decide) (by decide) (by simp) (extWord_lt _))
theorem tldg (a) : Statement (Instr.tldg a) := of_some rfl (rawX_fits _ _ _ _ _ _ (by decide) (by decide) (by decide) (by simp) (extWord_lt _))
theorem tstg (a) : Statement (Instr.tstg a) := of_some rfl (rawX_fits _ _ _ _ _ _ (by decide) (by decide) (by decide) (by simp) (extWord_lt _))
theorem mwait (a b c) : Statement (Instr.mwait a b c) := of_some rfl (rawX_fits _ _ _ _ _ _ (by decide) (by decide) (by decide) (by simp) (extWord_lt _))
theorem mtest (a b c d) : Statement (Instr.mtest a b c d) := of_some rfl (rawX_fits _ _ _ _ _ _ (by decide) (by decide) (by decide) (by simp) (extWord_lt _))
theorem tileTransferComplete (a) : Statement (Instr.tileTransferComplete a) := of_none rfl
theorem mldb (a b c d) : Statement (Instr.mldb a b c d) := of_some rfl (rawX_fits _ _ _ _ _ _ (by decide) (by decide) (by decide) (by simp) (extWord_lt _))
theorem mlda (a b c) : Statement (Instr.mlda a b c) := of_some rfl (rawX_fits _ _ _ _ _ _ (by decide) (by decide) (by decide) (by simp) (extWord_lt _))
theorem mmul (a b) : Statement (Instr.mmul a b) := of_some rfl (rawX_fits _ _ _ _ _ _ (by decide) (by decide) (by decide) (by simp) (extWord_lt _))
theorem mlutb (a b) : Statement (Instr.mlutb a b) := of_some rfl (rawX_fits _ _ _ _ _ _ (by decide) (by decide) (by decide) (by simp) (extWord_lt _))
theorem mlut (a b c) : Statement (Instr.mlut a b c) := of_some rfl (rawX_fits _ _ _ _ _ _ (by decide) (by decide) (by decide) (by simp) (extWord_lt _))
theorem mzero (a b) : Statement (Instr.mzero a b) := of_some rfl (rawX_fits _ _ _ _ _ _ (by decide) (by decide) (by decide) (by simp) (extWord_lt _))
theorem mdrain (a b c d) : Statement (Instr.mdrain a b c d) := of_some rfl (rawX_fits _ _ _ _ _ _ (by decide) (by decide) (by decide) (by simp) (extWord_lt _))
theorem mbatch (a) : Statement (Instr.mbatch a) := of_some rfl (rawX_fits _ _ _ _ _ _ (by decide) (by decide) (by decide) (by simp) (extWord_lt _))
theorem mwaitb (a b) : Statement (Instr.mwaitb a b) := of_some rfl (rawX_fits _ _ _ _ _ _ (by decide) (by decide) (by decide) (by simp) (extWord_lt _))
theorem mwaitf (a b) : Statement (Instr.mwaitf a b) := of_some rfl (rawX_fits _ _ _ _ _ _ (by decide) (by decide) (by decide) (by simp) (extWord_lt _))
theorem matrixOperationPerformed (a) : Statement (Instr.matrixOperationPerformed a) := of_none rfl
theorem batchComplete (a) : Statement (Instr.batchComplete a) := of_none rfl
theorem isobarWindow (a) : Statement (Instr.isobarWindow a) := of_none rfl
theorem cimScrub (a) : Statement (Instr.cimScrub a) := of_none rfl
theorem spawn (a b c) : Statement (Instr.spawn a b c) := of_some rfl (rawX_fits _ _ _ _ _ _ (by decide) (by decide) (by decide) (by simp) (extWord_lt _))
theorem spawnu (a b c) : Statement (Instr.spawnu a b c) := of_some rfl (rawX_fits _ _ _ _ _ _ (by decide) (by decide) (by decide) (by simp) (extWord_lt _))
theorem await : Statement (Instr.await) := of_some rfl (rawS_fits _ _ _ _ (by decide) (by decide) (by simp))
theorem bar (a b) : Statement (Instr.bar a b) := of_some rfl (rawS_fits _ _ _ _ (by decide) (by decide) (by simp))
theorem bara (a b) : Statement (Instr.bara a b) := of_some rfl (rawS_fits _ _ _ _ (by decide) (by decide) (by simp))
theorem barw (a) : Statement (Instr.barw a) := of_some rfl (rawS_fits _ _ _ _ (by decide) (by decide) (by simp))
theorem nodeq (a b) : Statement (Instr.nodeq a b) := of_some rfl (rawS_fits _ _ _ _ (by decide) (by decide) (by simp))
theorem frameq (a b) : Statement (Instr.frameq a b) := of_some rfl (rawS_fits _ _ _ _ (by decide) (by decide) (by simp))
theorem binLaunch (a b c) : Statement (Instr.binLaunch a b c) := of_none rfl
theorem binTimerExpiry (a b c) : Statement (Instr.binTimerExpiry a b c) := of_none rfl
theorem threadComplete (a b) : Statement (Instr.threadComplete a b) := of_none rfl
theorem continuationSteal (a b c) : Statement (Instr.continuationSteal a b c) := of_none rfl
theorem channelDequeueWake (a) : Statement (Instr.channelDequeueWake a) := of_none rfl
theorem sample (a) : Statement (Instr.sample a) := of_some rfl (rawX_fits _ _ _ _ _ _ (by decide) (by decide) (by decide) (by simp) (extWord_lt _))
theorem samplel (a b) : Statement (Instr.samplel a b) := of_some rfl (rawX_fits _ _ _ _ _ _ (by decide) (by decide) (by decide) (by simp) (extWord_lt _))
theorem sampleg (a b) : Statement (Instr.sampleg a b) := of_some rfl (rawX_fits _ _ _ _ _ _ (by decide) (by decide) (by decide) (by simp) (extWord_lt _))
theorem imgld (a b c d e f g) : Statement (Instr.imgld a b c d e f g) := of_some rfl (rawX_fits _ _ _ _ _ _ (by decide) (by decide) (by decide) (by simp) (extWord_lt _))
theorem imgst (a b c d e f g) : Statement (Instr.imgst a b c d e f g) := of_some rfl (rawX_fits _ _ _ _ _ _ (by decide) (by decide) (by decide) (by simp) (extWord_lt _))
theorem trace (a b c d e f g h) : Statement (Instr.trace a b c d e f g h) := of_some rfl (rawX_fits _ _ _ _ _ _ (by decide) (by decide) (by decide) (by simp) (extWord_lt _))
theorem hitrd (a b c d) : Statement (Instr.hitrd a b c d) := of_some rfl (rawX_fits _ _ _ _ _ _ (by decide) (by decide) (by decide) (by simp) (extWord_lt _))
theorem sgen (a b c d e) : Statement (Instr.sgen a b c d e) := of_some rfl (rawX_fits _ _ _ _ _ _ (by decide) (by decide) (by decide) (by simp) (extWord_lt _))
theorem sand (a b c) : Statement (Instr.sand a b c) := of_some rfl (rawX_fits _ _ _ _ _ _ (by decide) (by decide) (by decide) (by simp) (extWord_lt _))
theorem sor (a b c) : Statement (Instr.sor a b c) := of_some rfl (rawX_fits _ _ _ _ _ _ (by decide) (by decide) (by decide) (by simp) (extWord_lt _))
theorem sandc (a b c) : Statement (Instr.sandc a b c) := of_some rfl (rawX_fits _ _ _ _ _ _ (by decide) (by decide) (by decide) (by simp) (extWord_lt _))
theorem sorc (a b c) : Statement (Instr.sorc a b c) := of_some rfl (rawX_fits _ _ _ _ _ _ (by decide) (by decide) (by decide) (by simp) (extWord_lt _))
theorem snot (a b) : Statement (Instr.snot a b) := of_some rfl (rawX_fits _ _ _ _ _ _ (by decide) (by decide) (by decide) (by simp) (extWord_lt _))
theorem smux (a b c d) : Statement (Instr.smux a b c d) := of_some rfl (rawX_fits _ _ _ _ _ _ (by decide) (by decide) (by decide) (by simp) (extWord_lt _))
theorem scnt (a b c) : Statement (Instr.scnt a b c) := of_some rfl (rawX_fits _ _ _ _ _ _ (by decide) (by decide) (by decide) (by simp) (extWord_lt _))
theorem scvtVal (a b c) : Statement (Instr.scvtVal a b c) := of_some rfl (rawX_fits _ _ _ _ _ _ (by decide) (by decide) (by decide) (by simp) (extWord_lt _))
theorem scvtDraw (a b c) : Statement (Instr.scvtDraw a b c) := of_some rfl (rawX_fits _ _ _ _ _ _ (by decide) (by decide) (by decide) (by simp) (extWord_lt _))
theorem scvtWord (a b c d e) : Statement (Instr.scvtWord a b c d e) := of_some rfl (rawX_fits _ _ _ _ _ _ (by decide) (by decide) (by decide) (by simp) (extWord_lt _))
theorem sregen (a b c) : Statement (Instr.sregen a b c) := of_some rfl (rawX_fits _ _ _ _ _ _ (by decide) (by decide) (by decide) (by simp) (extWord_lt _))
theorem sseed (a b) : Statement (Instr.sseed a b) := of_some rfl (rawX_fits _ _ _ _ _ _ (by decide) (by decide) (by decide) (by simp) (extWord_lt _))
theorem slen (a) : Statement (Instr.slen a) := of_some rfl (rawX_fits _ _ _ _ _ _ (by decide) (by decide) (by decide) (by simp) (extWord_lt _))
theorem scls (a b c) : Statement (Instr.scls a b c) := of_some rfl (rawX_fits _ _ _ _ _ _ (by decide) (by decide) (by decide) (by simp) (extWord_lt _))
theorem copyCmd (a) : Statement (Instr.copyCmd a) := of_none rfl
theorem copy2d (a) : Statement (Instr.copy2d a) := of_none rfl
theorem fill (a) : Statement (Instr.fill a) := of_none rfl
theorem convert (a) : Statement (Instr.convert a) := of_none rfl
theorem decomp (a) : Statement (Instr.decomp a) := of_none rfl
theorem notify : Statement (Instr.notify) := of_none rfl
theorem run (a) : Statement (Instr.run a) := of_none rfl
theorem runComplete (a) : Statement (Instr.runComplete a) := of_none rfl
theorem rasterRecord (a b) : Statement (Instr.rasterRecord a b) := of_none rfl
theorem close (a b) : Statement (Instr.close a b) := of_none rfl
theorem tileClosed (a b) : Statement (Instr.tileClosed a b) := of_none rfl
theorem classify (a) : Statement (Instr.classify a) := of_none rfl
theorem tileRelease (a b) : Statement (Instr.tileRelease a b) := of_none rfl
theorem fragmentRecord (a) : Statement (Instr.fragmentRecord a) := of_none rfl
theorem advance (a) : Statement (Instr.advance a) := of_none rfl
theorem pageWalk (a b c d) : Statement (Instr.pageWalk a b c d) := of_none rfl
theorem trapEntry (a) : Statement (Instr.trapEntry a) := of_none rfl
theorem placeWorkgroup (a b) : Statement (Instr.placeWorkgroup a b) := of_none rfl
theorem workgroupEvict (a) : Statement (Instr.workgroupEvict a) := of_none rfl
theorem workgroupResume (a b) : Statement (Instr.workgroupResume a b) := of_none rfl
theorem preemptDeadline (a) : Statement (Instr.preemptDeadline a) := of_none rfl
theorem matrixSetRelease (a) : Statement (Instr.matrixSetRelease a) := of_none rfl
theorem quantumEnd : Statement (Instr.quantumEnd) := of_none rfl
theorem barometerWindow (a) : Statement (Instr.barometerWindow a) := of_none rfl
theorem nearThresholdEntry (a b) : Statement (Instr.nearThresholdEntry a b) := of_none rfl
theorem nearThresholdExit (a b) : Statement (Instr.nearThresholdExit a b) := of_none rfl
theorem yieldExpiry (a) : Statement (Instr.yieldExpiry a) := of_none rfl
theorem icacheFill (a b c) : Statement (Instr.icacheFill a b c) := of_none rfl
theorem leaseRefill (a) : Statement (Instr.leaseRefill a) := of_none rfl
theorem leaseTick (a) : Statement (Instr.leaseTick a) := of_none rfl
theorem stackThermalChange (a b) : Statement (Instr.stackThermalChange a b) := of_none rfl
theorem watchdogFire (a) : Statement (Instr.watchdogFire a) := of_none rfl
theorem eccUncorrectable (a) : Statement (Instr.eccUncorrectable a) := of_none rfl
theorem contextStop (a) : Statement (Instr.contextStop a) := of_none rfl
theorem contextResume (a) : Statement (Instr.contextResume a) := of_none rfl
theorem launch (a b) : Statement (Instr.launch a b) := of_none rfl
theorem copyPacket (a b) : Statement (Instr.copyPacket a b) := of_none rfl
theorem waitev (a b) : Statement (Instr.waitev a b) := of_none rfl
theorem signal (a b) : Statement (Instr.signal a b) := of_none rfl
theorem mapupdInval (a b) : Statement (Instr.mapupdInval a b) := of_none rfl
theorem mapupdInvalall (a b) : Statement (Instr.mapupdInvalall a b) := of_none rfl
theorem mapupdWrite (a b) : Statement (Instr.mapupdWrite a b) := of_none rfl
theorem mapupdMigrate (a b) : Statement (Instr.mapupdMigrate a b) := of_none rfl
theorem ctxnew (a b) : Statement (Instr.ctxnew a b) := of_none rfl
theorem ctxend (a b) : Statement (Instr.ctxend a b) := of_none rfl
theorem queue (a b) : Statement (Instr.queue a b) := of_none rfl
theorem l2part (a b) : Statement (Instr.l2part a b) := of_none rfl
theorem ltab (a b) : Statement (Instr.ltab a b) := of_none rfl
theorem ntab (a b) : Statement (Instr.ntab a b) := of_none rfl
theorem areas (a b) : Statement (Instr.areas a b) := of_none rfl
theorem trapctl (a b) : Statement (Instr.trapctl a b) := of_none rfl
theorem power (a b) : Statement (Instr.power a b) := of_none rfl
theorem weights (a b) : Statement (Instr.weights a b) := of_none rfl
theorem sched (a b) : Statement (Instr.sched a b) := of_none rfl
theorem quote (a b) : Statement (Instr.quote a b) := of_none rfl
theorem peer (a b) : Statement (Instr.peer a b) := of_none rfl
theorem ctxstat (a b) : Statement (Instr.ctxstat a b) := of_none rfl
theorem packetReread (a b) : Statement (Instr.packetReread a b) := of_none rfl
theorem ack (a) : Statement (Instr.ack a) := of_none rfl
theorem write (a) : Statement (Instr.write a) := of_none rfl
theorem read (a) : Statement (Instr.read a) := of_none rfl
theorem kick (a) : Statement (Instr.kick a) := of_none rfl
theorem complete (a) : Statement (Instr.complete a) := of_none rfl
theorem sync (a) : Statement (Instr.sync a) := of_none rfl
theorem hostReadResponse (a) : Statement (Instr.hostReadResponse a) := of_none rfl
theorem ackTimer : Statement (Instr.ackTimer) := of_none rfl
theorem resendTimeout : Statement (Instr.resendTimeout) := of_none rfl
theorem hostWindowWrite (a) : Statement (Instr.hostWindowWrite a) := of_none rfl
theorem standbyImageBoot (a) : Statement (Instr.standbyImageBoot a) := of_none rfl
theorem standbyTakeover (a) : Statement (Instr.standbyTakeover a) := of_none rfl
theorem peerAccess (a b) : Statement (Instr.peerAccess a b) := of_none rfl
theorem deviceReset : Statement (Instr.deviceReset) := of_none rfl
theorem peerJoin (a) : Statement (Instr.peerJoin a) := of_none rfl
theorem signedTestToken (a) : Statement (Instr.signedTestToken a) := of_none rfl

end Sys2Proof.Laws.Fields
end

