-- ==== Sys2Proof/Laws/Phys.lean ====
section
/-! SUPPORT. Physical storage: what an access at the homes can change. -/
namespace Sys2Proof.Machine

/-- An access to L2 lines changes towers only. -/
theorem l2Range_frame (cls : Nat) (hint : Hint) (pa n : Nat) (wr : Bool) : ∀ (qs : List Nat) (s : State),
    ∃ ts, l2Range s cls hint pa n wr qs = { s with towers := ts }
  | [], s => ⟨s.towers, rfl⟩
  | q :: qs, s => by
    obtain ⟨ts, h⟩ := l2Range_frame cls hint pa n wr qs (l2Access s cls hint q (if wr then maskIn q pa n else 0))
    exact ⟨ts, h⟩

/-- A range touched at its homes changes towers only. -/
theorem touch_frame (s : State) (cls pa n : Nat) (wr : Bool) : ∃ ts, touch s cls pa n wr = { s with towers := ts } := by
  unfold touch
  split
  · exact l2Range_frame ..
  · exact ⟨s.towers, rfl⟩

theorem touch_eq (s : State) (cls pa n : Nat) (wr : Bool) : touch s cls pa n wr = { s with towers := (touch s cls pa n wr).towers } := by
  obtain ⟨ts, h⟩ := touch_frame s cls pa n wr
  rw [h]

@[simp] theorem touch_mem (s : State) (cls pa n : Nat) (wr : Bool) : (touch s cls pa n wr).mem = s.mem := by rw [touch_eq]
@[simp] theorem touch_w (s : State) (cls pa n : Nat) (wr : Bool) : (touch s cls pa n wr).w = s.w := by rw [touch_eq]
@[simp] theorem touch_cores (s : State) (cls pa n : Nat) (wr : Bool) : (touch s cls pa n wr).cores = s.cores := by rw [touch_eq]
@[simp] theorem touch_engines (s : State) (cls pa n : Nat) (wr : Bool) : (touch s cls pa n wr).engines = s.engines := by rw [touch_eq]
@[simp] theorem touch_clusters (s : State) (cls pa n : Nat) (wr : Bool) : (touch s cls pa n wr).clusters = s.clusters := by rw [touch_eq]
@[simp] theorem touch_ctxs (s : State) (cls pa n : Nat) (wr : Bool) : (touch s cls pa n wr).ctxs = s.ctxs := by rw [touch_eq]
@[simp] theorem touch_groups (s : State) (cls pa n : Nat) (wr : Bool) : (touch s cls pa n wr).groups = s.groups := by rw [touch_eq]
@[simp] theorem touch_poison (s : State) (cls pa n : Nat) (wr : Bool) : (touch s cls pa n wr).poison = s.poison := by rw [touch_eq]
@[simp] theorem touch_clock (s : State) (cls pa n : Nat) (wr : Bool) : (touch s cls pa n wr).clock = s.clock := by rw [touch_eq]
@[simp] theorem touch_free (s : State) (cls pa n : Nat) (wr : Bool) : (touch s cls pa n wr).free = s.free := by rw [touch_eq]
@[simp] theorem touch_mgmt (s : State) (cls pa n : Nat) (wr : Bool) : (touch s cls pa n wr).mgmt = s.mgmt := by rw [touch_eq]
@[simp] theorem touch_link (s : State) (cls pa n : Nat) (wr : Bool) : (touch s cls pa n wr).link = s.link := by rw [touch_eq]
@[simp] theorem touch_remotes (s : State) (cls pa n : Nat) (wr : Bool) : (touch s cls pa n wr).remotes = s.remotes := by rw [touch_eq]
@[simp] theorem touch_passes (s : State) (cls pa n : Nat) (wr : Bool) : (touch s cls pa n wr).passes = s.passes := by rw [touch_eq]

@[simp] theorem setWarp_mem (s : State) (w : Warp) : (setWarp s w).mem = s.mem := by
  unfold setWarp; split <;> rfl
@[simp] theorem modGroup_mem (s : State) (g : Nat) (f : Group → Group) : (modGroup s g f).mem = s.mem := by
  unfold modGroup; split <;> rfl

/-- A write of the on-chip map is no write of the DRAM. -/
theorem mapWrite_mem (s : State) (ctx pa : Nat) (x : Byte) : (mapWrite s ctx pa x).mem = s.mem := by
  unfold mapWrite
  simp only
  split <;> (try split) <;> (try split) <;> (try split) <;> simp [modCluster, setCluster]

theorem mapWriteN_mem (ctx : Nat) : ∀ (bs : List Byte) (pa : Nat) (s : State), (mapWriteN s ctx pa bs).mem = s.mem
  | [], _, _ => rfl
  | b :: bs, pa, s => by rw [mapWriteN, mapWriteN_mem ctx bs, mapWrite_mem]

/-- What a write at the homes does to the DRAM. -/
theorem physWrite_mem (s : State) (ctx cls pa : Nat) (bs : List Byte) :
    (physWrite s ctx cls pa bs).mem = if region pa < 2 then mwriteN s.mem pa bs else s.mem := by
  unfold physWrite
  simp only
  split
  · rename_i h; simp [h]
  · rename_i h; simp [h]
  · rename_i h; simp [h, mapWriteN_mem]
  · rename_i h0 h1 h2
    have h : ¬ region pa < 2 := fun h => by
      have : region pa = 0 ∨ region pa = 1 := by omega
      exact this.elim (fun e => h0 e) (fun e => h1 e)
    simp [h]

theorem physWrite_memOk {s : State} (ctx cls pa : Nat) (bs : List Byte) (h : s.mem.wf = true) : (physWrite s ctx cls pa bs).mem.wf = true := by
  rw [physWrite_mem]
  split
  · exact mwriteN_wf _ _ h
  · exact h

end Sys2Proof.Machine
end

