-- ==== Sys2Proof/Laws/State.lean ====
section
/-! SUPPORT. The fields of the state and of a warp under each update, and the plain facts of the shared operations. -/
namespace Sys2Proof.Machine

/-! A change of the warp in focus. -/

@[simp] theorem State.modW_w (s : State) (f : Warp → Warp) : (s.modW f).w = f s.w := rfl
theorem State.modW_modW (s : State) (f g : Warp → Warp) : (s.modW f).modW g = s.modW fun w => g (f w) := rfl
theorem State.modW_id (s : State) : (s.modW fun w => w) = s := rfl
theorem State.modW_congr {s : State} {f g : Warp → Warp} (h : f s.w = g s.w) : s.modW f = s.modW g := by
  unfold State.modW; rw [h]
@[simp] theorem State.modW_warps (s : State) (f : Warp → Warp) : (s.modW f).warps = s.warps := rfl
@[simp] theorem State.modW_frames (s : State) (f : Warp → Warp) : (s.modW f).frames = s.frames := rfl
@[simp] theorem State.modW_groups (s : State) (f : Warp → Warp) : (s.modW f).groups = s.groups := rfl
@[simp] theorem State.modW_launches (s : State) (f : Warp → Warp) : (s.modW f).launches = s.launches := rfl
@[simp] theorem State.modW_cores (s : State) (f : Warp → Warp) : (s.modW f).cores = s.cores := rfl
@[simp] theorem State.modW_engines (s : State) (f : Warp → Warp) : (s.modW f).engines = s.engines := rfl
@[simp] theorem State.modW_clusters (s : State) (f : Warp → Warp) : (s.modW f).clusters = s.clusters := rfl
@[simp] theorem State.modW_towers (s : State) (f : Warp → Warp) : (s.modW f).towers = s.towers := rfl
@[simp] theorem State.modW_ctxs (s : State) (f : Warp → Warp) : (s.modW f).ctxs = s.ctxs := rfl
@[simp] theorem State.modW_passes (s : State) (f : Warp → Warp) : (s.modW f).passes = s.passes := rfl
@[simp] theorem State.modW_mem (s : State) (f : Warp → Warp) : (s.modW f).mem = s.mem := rfl
@[simp] theorem State.modW_poison (s : State) (f : Warp → Warp) : (s.modW f).poison = s.poison := rfl
@[simp] theorem State.modW_clock (s : State) (f : Warp → Warp) : (s.modW f).clock = s.clock := rfl
@[simp] theorem State.modW_link (s : State) (f : Warp → Warp) : (s.modW f).link = s.link := rfl
@[simp] theorem State.modW_mgmt (s : State) (f : Warp → Warp) : (s.modW f).mgmt = s.mgmt := rfl
@[simp] theorem State.modW_peers (s : State) (f : Warp → Warp) : (s.modW f).peers = s.peers := rfl
@[simp] theorem State.modW_remotes (s : State) (f : Warp → Warp) : (s.modW f).remotes = s.remotes := rfl
@[simp] theorem State.modW_portCmds (s : State) (f : Warp → Warp) : (s.modW f).portCmds = s.portCmds := rfl
@[simp] theorem State.modW_sets (s : State) (f : Warp → Warp) : (s.modW f).sets = s.sets := rfl
@[simp] theorem State.modW_quantumAt (s : State) (f : Warp → Warp) : (s.modW f).quantumAt = s.quantumAt := rfl
@[simp] theorem State.modW_nextKey (s : State) (f : Warp → Warp) : (s.modW f).nextKey = s.nextKey := rfl
@[simp] theorem State.modW_uses (s : State) (f : Warp → Warp) : (s.modW f).uses = s.uses := rfl
@[simp] theorem State.modW_free (s : State) (f : Warp → Warp) : (s.modW f).free = s.free := rfl
@[simp] theorem State.modW_agenda (s : State) (f : Warp → Warp) : (s.modW f).agenda = s.agenda := rfl

/-! A register of a warp written. -/

@[simp] theorem Warp.setS_id (w : Warp) (n : Nat) (x : W64) : (w.setS n x).id = w.id := rfl
@[simp] theorem Warp.setS_kind (w : Warp) (n : Nat) (x : W64) : (w.setS n x).kind = w.kind := rfl
@[simp] theorem Warp.setS_live (w : Warp) (n : Nat) (x : W64) : (w.setS n x).live = w.live := rfl
@[simp] theorem Warp.setS_home (w : Warp) (n : Nat) (x : W64) : (w.setS n x).home = w.home := rfl
@[simp] theorem Warp.setS_queue (w : Warp) (n : Nat) (x : W64) : (w.setS n x).queue = w.queue := rfl
@[simp] theorem Warp.setS_hqueue (w : Warp) (n : Nat) (x : W64) : (w.setS n x).hqueue = w.hqueue := rfl
@[simp] theorem Warp.setS_v (w : Warp) (n : Nat) (x : W64) : (w.setS n x).v = w.v := rfl
@[simp] theorem Warp.setS_exec (w : Warp) (n : Nat) (x : W64) : (w.setS n x).exec = w.exec := rfl
@[simp] theorem Warp.setS_exited (w : Warp) (n : Nat) (x : W64) : (w.setS n x).exited = w.exited := rfl
@[simp] theorem Warp.setS_o (w : Warp) (n : Nat) (x : W64) : (w.setS n x).o = w.o := rfl
@[simp] theorem Warp.setS_planes (w : Warp) (n : Nat) (x : W64) : (w.setS n x).planes = w.planes := rfl
@[simp] theorem Warp.setS_code (w : Warp) (n : Nat) (x : W64) : (w.setS n x).code = w.code := rfl
@[simp] theorem Warp.setS_fp (w : Warp) (n : Nat) (x : W64) : (w.setS n x).fp = w.fp := rfl
@[simp] theorem Warp.setS_link (w : Warp) (n : Nat) (x : W64) : (w.setS n x).link = w.link := rfl
@[simp] theorem Warp.setS_wid (w : Warp) (n : Nat) (x : W64) : (w.setS n x).wid = w.wid := rfl
@[simp] theorem Warp.setS_role (w : Warp) (n : Nat) (x : W64) : (w.setS n x).role = w.role := rfl
@[simp] theorem Warp.setS_slip (w : Warp) (n : Nat) (x : W64) : (w.setS n x).slip = w.slip := rfl
@[simp] theorem Warp.setS_trapcause (w : Warp) (n : Nat) (x : W64) : (w.setS n x).trapcause = w.trapcause := rfl
@[simp] theorem Warp.setS_trapaddr (w : Warp) (n : Nat) (x : W64) : (w.setS n x).trapaddr = w.trapaddr := rfl
@[simp] theorem Warp.setS_trapmask (w : Warp) (n : Nat) (x : W64) : (w.setS n x).trapmask = w.trapmask := rfl
@[simp] theorem Warp.setS_trapExec (w : Warp) (n : Nat) (x : W64) : (w.setS n x).trapExec = w.trapExec := rfl
@[simp] theorem Warp.setS_stack (w : Warp) (n : Nat) (x : W64) : (w.setS n x).stack = w.stack := rfl
@[simp] theorem Warp.setS_spilled (w : Warp) (n : Nat) (x : W64) : (w.setS n x).spilled = w.spilled := rfl
@[simp] theorem Warp.setS_raySpill (w : Warp) (n : Nat) (x : W64) : (w.setS n x).raySpill = w.raySpill := rfl
@[simp] theorem Warp.setS_stackBase (w : Warp) (n : Nat) (x : W64) : (w.setS n x).stackBase = w.stackBase := rfl
@[simp] theorem Warp.setS_stackSize (w : Warp) (n : Nat) (x : W64) : (w.setS n x).stackSize = w.stackSize := rfl
@[simp] theorem Warp.setS_pooled (w : Warp) (n : Nat) (x : W64) : (w.setS n x).pooled = w.pooled := rfl
@[simp] theorem Warp.setS_exiting (w : Warp) (n : Nat) (x : W64) : (w.setS n x).exiting = w.exiting := rfl
@[simp] theorem Warp.setS_handler (w : Warp) (n : Nat) (x : W64) : (w.setS n x).handler = w.handler := rfl
@[simp] theorem Warp.setS_hbase (w : Warp) (n : Nat) (x : W64) : (w.setS n x).hbase = w.hbase := rfl
@[simp] theorem Warp.setS_faultVAs (w : Warp) (n : Nat) (x : W64) : (w.setS n x).faultVAs = w.faultVAs := rfl
@[simp] theorem Warp.setS_slen (w : Warp) (n : Nat) (x : W64) : (w.setS n x).slen = w.slen := rfl
@[simp] theorem Warp.setS_lmax (w : Warp) (n : Nat) (x : W64) : (w.setS n x).lmax = w.lmax := rfl
@[simp] theorem Warp.setS_zregs (w : Warp) (n : Nat) (x : W64) : (w.setS n x).zregs = w.zregs := rfl
@[simp] theorem Warp.setS_zbase (w : Warp) (n : Nat) (x : W64) : (w.setS n x).zbase = w.zbase := rfl
@[simp] theorem Warp.setS_zbad (w : Warp) (n : Nat) (x : W64) : (w.setS n x).zbad = w.zbad := rfl
@[simp] theorem Warp.setS_seed (w : Warp) (n : Nat) (x : W64) : (w.setS n x).seed = w.seed := rfl
@[simp] theorem Warp.setS_z (w : Warp) (n : Nat) (x : W64) : (w.setS n x).z = w.z := rfl
@[simp] theorem Warp.setS_frame (w : Warp) (n : Nat) (x : W64) : (w.setS n x).frame = w.frame := rfl
@[simp] theorem Warp.setS_frameVA (w : Warp) (n : Nat) (x : W64) : (w.setS n x).frameVA = w.frameVA := rfl
@[simp] theorem Warp.setS_lease (w : Warp) (n : Nat) (x : W64) : (w.setS n x).lease = w.lease := rfl
@[simp] theorem Warp.setS_ports (w : Warp) (n : Nat) (x : W64) : (w.setS n x).ports = w.ports := rfl
@[simp] theorem Warp.setS_counts (w : Warp) (n : Nat) (x : W64) : (w.setS n x).counts = w.counts := rfl
@[simp] theorem Warp.setS_errors (w : Warp) (n : Nat) (x : W64) : (w.setS n x).errors = w.errors := rfl
@[simp] theorem Warp.setS_liveSet (w : Warp) (n : Nat) (x : W64) : (w.setS n x).liveSet = w.liveSet := rfl
@[simp] theorem Warp.setS_quads (w : Warp) (n : Nat) (x : W64) : (w.setS n x).quads = w.quads := rfl
@[simp] theorem Warp.setS_hits (w : Warp) (n : Nat) (x : W64) : (w.setS n x).hits = w.hits := rfl
@[simp] theorem Warp.setS_wake (w : Warp) (n : Nat) (x : W64) : (w.setS n x).wake = w.wake := rfl
@[simp] theorem Warp.setS_parked (w : Warp) (n : Nat) (x : W64) : (w.setS n x).parked = w.parked := rfl
@[simp] theorem Warp.setS_log (w : Warp) (n : Nat) (x : W64) : (w.setS n x).log = w.log := rfl
@[simp] theorem Warp.setS_logQueue (w : Warp) (n : Nat) (x : W64) : (w.setS n x).logQueue = w.logQueue := rfl
@[simp] theorem Warp.setS_ntst (w : Warp) (n : Nat) (x : W64) : (w.setS n x).ntst = w.ntst := rfl
@[simp] theorem Warp.setS_frozen (w : Warp) (n : Nat) (x : W64) : (w.setS n x).frozen = w.frozen := rfl
@[simp] theorem Warp.setS_slipped (w : Warp) (n : Nat) (x : W64) : (w.setS n x).slipped = w.slipped := rfl
@[simp] theorem Warp.setS_yieldLeft (w : Warp) (n : Nat) (x : W64) : (w.setS n x).yieldLeft = w.yieldLeft := rfl
@[simp] theorem Warp.setS_stamp (w : Warp) (n : Nat) (x : W64) : (w.setS n x).stamp = w.stamp := rfl
@[simp] theorem Warp.setS_readyFor (w : Warp) (n : Nat) (x : W64) : (w.setS n x).readyFor = w.readyFor := rfl
@[simp] theorem Warp.setS_heavy (w : Warp) (n : Nat) (x : W64) : (w.setS n x).heavy = w.heavy := rfl
@[simp] theorem Warp.setS_pipe (w : Warp) (n : Nat) (x : W64) : (w.setS n x).pipe = w.pipe := rfl
@[simp] theorem Warp.setS_busy (w : Warp) (n : Nat) (x : W64) : (w.setS n x).busy = w.busy := rfl
@[simp] theorem Warp.setS_xfers (w : Warp) (n : Nat) (x : W64) : (w.setS n x).xfers = w.xfers := rfl
@[simp] theorem Warp.setS_scalars (w : Warp) (n : Nat) (x : W64) : (w.setS n x).scalars = w.scalars := rfl
@[simp] theorem Warp.setS_iss (w : Warp) (n : Nat) (x : W64) : (w.setS n x).iss = w.iss := rfl
@[simp] theorem Warp.setS_halted (w : Warp) (n : Nat) (x : W64) : (w.setS n x).halted = w.halted := rfl
@[simp] theorem Warp.setS_tag (w : Warp) (n : Nat) (x : W64) : (w.setS n x).tag = w.tag := rfl
@[simp] theorem Warp.setS_recVA (w : Warp) (n : Nat) (x : W64) : (w.setS n x).recVA = w.recVA := rfl
@[simp] theorem Warp.setS_issuer (w : Warp) (n : Nat) (x : W64) : (w.setS n x).issuer = w.issuer := rfl
@[simp] theorem Warp.setS_runEng (w : Warp) (n : Nat) (x : W64) : (w.setS n x).runEng = w.runEng := rfl
@[simp] theorem Warp.setM_id (w : Warp) (k : Nat) (m : Mask) : (w.setM k m).id = w.id := rfl
@[simp] theorem Warp.setM_kind (w : Warp) (k : Nat) (m : Mask) : (w.setM k m).kind = w.kind := rfl
@[simp] theorem Warp.setM_live (w : Warp) (k : Nat) (m : Mask) : (w.setM k m).live = w.live := rfl
@[simp] theorem Warp.setM_home (w : Warp) (k : Nat) (m : Mask) : (w.setM k m).home = w.home := rfl
@[simp] theorem Warp.setM_queue (w : Warp) (k : Nat) (m : Mask) : (w.setM k m).queue = w.queue := rfl
@[simp] theorem Warp.setM_hqueue (w : Warp) (k : Nat) (m : Mask) : (w.setM k m).hqueue = w.hqueue := rfl
@[simp] theorem Warp.setM_v (w : Warp) (k : Nat) (m : Mask) : (w.setM k m).v = w.v := rfl
@[simp] theorem Warp.setM_exec (w : Warp) (k : Nat) (m : Mask) : (w.setM k m).exec = w.exec := rfl
@[simp] theorem Warp.setM_exited (w : Warp) (k : Nat) (m : Mask) : (w.setM k m).exited = w.exited := rfl
@[simp] theorem Warp.setM_o (w : Warp) (k : Nat) (m : Mask) : (w.setM k m).o = w.o := rfl
@[simp] theorem Warp.setM_planes (w : Warp) (k : Nat) (m : Mask) : (w.setM k m).planes = w.planes := rfl
@[simp] theorem Warp.setM_code (w : Warp) (k : Nat) (m : Mask) : (w.setM k m).code = w.code := rfl
@[simp] theorem Warp.setM_fp (w : Warp) (k : Nat) (m : Mask) : (w.setM k m).fp = w.fp := rfl
@[simp] theorem Warp.setM_link (w : Warp) (k : Nat) (m : Mask) : (w.setM k m).link = w.link := rfl
@[simp] theorem Warp.setM_wid (w : Warp) (k : Nat) (m : Mask) : (w.setM k m).wid = w.wid := rfl
@[simp] theorem Warp.setM_role (w : Warp) (k : Nat) (m : Mask) : (w.setM k m).role = w.role := rfl
@[simp] theorem Warp.setM_slip (w : Warp) (k : Nat) (m : Mask) : (w.setM k m).slip = w.slip := rfl
@[simp] theorem Warp.setM_trapcause (w : Warp) (k : Nat) (m : Mask) : (w.setM k m).trapcause = w.trapcause := rfl
@[simp] theorem Warp.setM_trapaddr (w : Warp) (k : Nat) (m : Mask) : (w.setM k m).trapaddr = w.trapaddr := rfl
@[simp] theorem Warp.setM_trapmask (w : Warp) (k : Nat) (m : Mask) : (w.setM k m).trapmask = w.trapmask := rfl
@[simp] theorem Warp.setM_trapExec (w : Warp) (k : Nat) (m : Mask) : (w.setM k m).trapExec = w.trapExec := rfl
@[simp] theorem Warp.setM_stack (w : Warp) (k : Nat) (m : Mask) : (w.setM k m).stack = w.stack := rfl
@[simp] theorem Warp.setM_spilled (w : Warp) (k : Nat) (m : Mask) : (w.setM k m).spilled = w.spilled := rfl
@[simp] theorem Warp.setM_raySpill (w : Warp) (k : Nat) (m : Mask) : (w.setM k m).raySpill = w.raySpill := rfl
@[simp] theorem Warp.setM_stackBase (w : Warp) (k : Nat) (m : Mask) : (w.setM k m).stackBase = w.stackBase := rfl
@[simp] theorem Warp.setM_stackSize (w : Warp) (k : Nat) (m : Mask) : (w.setM k m).stackSize = w.stackSize := rfl
@[simp] theorem Warp.setM_pooled (w : Warp) (k : Nat) (m : Mask) : (w.setM k m).pooled = w.pooled := rfl
@[simp] theorem Warp.setM_exiting (w : Warp) (k : Nat) (m : Mask) : (w.setM k m).exiting = w.exiting := rfl
@[simp] theorem Warp.setM_handler (w : Warp) (k : Nat) (m : Mask) : (w.setM k m).handler = w.handler := rfl
@[simp] theorem Warp.setM_hbase (w : Warp) (k : Nat) (m : Mask) : (w.setM k m).hbase = w.hbase := rfl
@[simp] theorem Warp.setM_faultVAs (w : Warp) (k : Nat) (m : Mask) : (w.setM k m).faultVAs = w.faultVAs := rfl
@[simp] theorem Warp.setM_slen (w : Warp) (k : Nat) (m : Mask) : (w.setM k m).slen = w.slen := rfl
@[simp] theorem Warp.setM_lmax (w : Warp) (k : Nat) (m : Mask) : (w.setM k m).lmax = w.lmax := rfl
@[simp] theorem Warp.setM_zregs (w : Warp) (k : Nat) (m : Mask) : (w.setM k m).zregs = w.zregs := rfl
@[simp] theorem Warp.setM_zbase (w : Warp) (k : Nat) (m : Mask) : (w.setM k m).zbase = w.zbase := rfl
@[simp] theorem Warp.setM_zbad (w : Warp) (k : Nat) (m : Mask) : (w.setM k m).zbad = w.zbad := rfl
@[simp] theorem Warp.setM_seed (w : Warp) (k : Nat) (m : Mask) : (w.setM k m).seed = w.seed := rfl
@[simp] theorem Warp.setM_z (w : Warp) (k : Nat) (m : Mask) : (w.setM k m).z = w.z := rfl
@[simp] theorem Warp.setM_frame (w : Warp) (k : Nat) (m : Mask) : (w.setM k m).frame = w.frame := rfl
@[simp] theorem Warp.setM_frameVA (w : Warp) (k : Nat) (m : Mask) : (w.setM k m).frameVA = w.frameVA := rfl
@[simp] theorem Warp.setM_lease (w : Warp) (k : Nat) (m : Mask) : (w.setM k m).lease = w.lease := rfl
@[simp] theorem Warp.setM_ports (w : Warp) (k : Nat) (m : Mask) : (w.setM k m).ports = w.ports := rfl
@[simp] theorem Warp.setM_counts (w : Warp) (k : Nat) (m : Mask) : (w.setM k m).counts = w.counts := rfl
@[simp] theorem Warp.setM_errors (w : Warp) (k : Nat) (m : Mask) : (w.setM k m).errors = w.errors := rfl
@[simp] theorem Warp.setM_liveSet (w : Warp) (k : Nat) (m : Mask) : (w.setM k m).liveSet = w.liveSet := rfl
@[simp] theorem Warp.setM_quads (w : Warp) (k : Nat) (m : Mask) : (w.setM k m).quads = w.quads := rfl
@[simp] theorem Warp.setM_hits (w : Warp) (k : Nat) (m : Mask) : (w.setM k m).hits = w.hits := rfl
@[simp] theorem Warp.setM_wake (w : Warp) (k : Nat) (m : Mask) : (w.setM k m).wake = w.wake := rfl
@[simp] theorem Warp.setM_parked (w : Warp) (k : Nat) (m : Mask) : (w.setM k m).parked = w.parked := rfl
@[simp] theorem Warp.setM_log (w : Warp) (k : Nat) (m : Mask) : (w.setM k m).log = w.log := rfl
@[simp] theorem Warp.setM_logQueue (w : Warp) (k : Nat) (m : Mask) : (w.setM k m).logQueue = w.logQueue := rfl
@[simp] theorem Warp.setM_ntst (w : Warp) (k : Nat) (m : Mask) : (w.setM k m).ntst = w.ntst := rfl
@[simp] theorem Warp.setM_frozen (w : Warp) (k : Nat) (m : Mask) : (w.setM k m).frozen = w.frozen := rfl
@[simp] theorem Warp.setM_slipped (w : Warp) (k : Nat) (m : Mask) : (w.setM k m).slipped = w.slipped := rfl
@[simp] theorem Warp.setM_yieldLeft (w : Warp) (k : Nat) (m : Mask) : (w.setM k m).yieldLeft = w.yieldLeft := rfl
@[simp] theorem Warp.setM_stamp (w : Warp) (k : Nat) (m : Mask) : (w.setM k m).stamp = w.stamp := rfl
@[simp] theorem Warp.setM_readyFor (w : Warp) (k : Nat) (m : Mask) : (w.setM k m).readyFor = w.readyFor := rfl
@[simp] theorem Warp.setM_heavy (w : Warp) (k : Nat) (m : Mask) : (w.setM k m).heavy = w.heavy := rfl
@[simp] theorem Warp.setM_pipe (w : Warp) (k : Nat) (m : Mask) : (w.setM k m).pipe = w.pipe := rfl
@[simp] theorem Warp.setM_busy (w : Warp) (k : Nat) (m : Mask) : (w.setM k m).busy = w.busy := rfl
@[simp] theorem Warp.setM_xfers (w : Warp) (k : Nat) (m : Mask) : (w.setM k m).xfers = w.xfers := rfl
@[simp] theorem Warp.setM_scalars (w : Warp) (k : Nat) (m : Mask) : (w.setM k m).scalars = w.scalars := rfl
@[simp] theorem Warp.setM_iss (w : Warp) (k : Nat) (m : Mask) : (w.setM k m).iss = w.iss := rfl
@[simp] theorem Warp.setM_halted (w : Warp) (k : Nat) (m : Mask) : (w.setM k m).halted = w.halted := rfl
@[simp] theorem Warp.setM_tag (w : Warp) (k : Nat) (m : Mask) : (w.setM k m).tag = w.tag := rfl
@[simp] theorem Warp.setM_recVA (w : Warp) (k : Nat) (m : Mask) : (w.setM k m).recVA = w.recVA := rfl
@[simp] theorem Warp.setM_issuer (w : Warp) (k : Nat) (m : Mask) : (w.setM k m).issuer = w.issuer := rfl
@[simp] theorem Warp.setM_runEng (w : Warp) (k : Nat) (m : Mask) : (w.setM k m).runEng = w.runEng := rfl
@[simp] theorem Warp.setV_id (w : Warp) (n : Nat) (m : Mask) (x : Vec) : (w.setV n m x).id = w.id := rfl
@[simp] theorem Warp.setV_kind (w : Warp) (n : Nat) (m : Mask) (x : Vec) : (w.setV n m x).kind = w.kind := rfl
@[simp] theorem Warp.setV_live (w : Warp) (n : Nat) (m : Mask) (x : Vec) : (w.setV n m x).live = w.live := rfl
@[simp] theorem Warp.setV_home (w : Warp) (n : Nat) (m : Mask) (x : Vec) : (w.setV n m x).home = w.home := rfl
@[simp] theorem Warp.setV_queue (w : Warp) (n : Nat) (m : Mask) (x : Vec) : (w.setV n m x).queue = w.queue := rfl
@[simp] theorem Warp.setV_hqueue (w : Warp) (n : Nat) (m : Mask) (x : Vec) : (w.setV n m x).hqueue = w.hqueue := rfl
@[simp] theorem Warp.setV_s (w : Warp) (n : Nat) (m : Mask) (x : Vec) : (w.setV n m x).s = w.s := rfl
@[simp] theorem Warp.setV_exec (w : Warp) (n : Nat) (m : Mask) (x : Vec) : (w.setV n m x).exec = w.exec := rfl
@[simp] theorem Warp.setV_exited (w : Warp) (n : Nat) (m : Mask) (x : Vec) : (w.setV n m x).exited = w.exited := rfl
@[simp] theorem Warp.setV_o (w : Warp) (n : Nat) (m : Mask) (x : Vec) : (w.setV n m x).o = w.o := rfl
@[simp] theorem Warp.setV_planes (w : Warp) (n : Nat) (m : Mask) (x : Vec) : (w.setV n m x).planes = w.planes := rfl
@[simp] theorem Warp.setV_code (w : Warp) (n : Nat) (m : Mask) (x : Vec) : (w.setV n m x).code = w.code := rfl
@[simp] theorem Warp.setV_fp (w : Warp) (n : Nat) (m : Mask) (x : Vec) : (w.setV n m x).fp = w.fp := rfl
@[simp] theorem Warp.setV_link (w : Warp) (n : Nat) (m : Mask) (x : Vec) : (w.setV n m x).link = w.link := rfl
@[simp] theorem Warp.setV_wid (w : Warp) (n : Nat) (m : Mask) (x : Vec) : (w.setV n m x).wid = w.wid := rfl
@[simp] theorem Warp.setV_role (w : Warp) (n : Nat) (m : Mask) (x : Vec) : (w.setV n m x).role = w.role := rfl
@[simp] theorem Warp.setV_slip (w : Warp) (n : Nat) (m : Mask) (x : Vec) : (w.setV n m x).slip = w.slip := rfl
@[simp] theorem Warp.setV_trapcause (w : Warp) (n : Nat) (m : Mask) (x : Vec) : (w.setV n m x).trapcause = w.trapcause := rfl
@[simp] theorem Warp.setV_trapaddr (w : Warp) (n : Nat) (m : Mask) (x : Vec) : (w.setV n m x).trapaddr = w.trapaddr := rfl
@[simp] theorem Warp.setV_trapmask (w : Warp) (n : Nat) (m : Mask) (x : Vec) : (w.setV n m x).trapmask = w.trapmask := rfl
@[simp] theorem Warp.setV_trapExec (w : Warp) (n : Nat) (m : Mask) (x : Vec) : (w.setV n m x).trapExec = w.trapExec := rfl
@[simp] theorem Warp.setV_stack (w : Warp) (n : Nat) (m : Mask) (x : Vec) : (w.setV n m x).stack = w.stack := rfl
@[simp] theorem Warp.setV_spilled (w : Warp) (n : Nat) (m : Mask) (x : Vec) : (w.setV n m x).spilled = w.spilled := rfl
@[simp] theorem Warp.setV_raySpill (w : Warp) (n : Nat) (m : Mask) (x : Vec) : (w.setV n m x).raySpill = w.raySpill := rfl
@[simp] theorem Warp.setV_stackBase (w : Warp) (n : Nat) (m : Mask) (x : Vec) : (w.setV n m x).stackBase = w.stackBase := rfl
@[simp] theorem Warp.setV_stackSize (w : Warp) (n : Nat) (m : Mask) (x : Vec) : (w.setV n m x).stackSize = w.stackSize := rfl
@[simp] theorem Warp.setV_pooled (w : Warp) (n : Nat) (m : Mask) (x : Vec) : (w.setV n m x).pooled = w.pooled := rfl
@[simp] theorem Warp.setV_exiting (w : Warp) (n : Nat) (m : Mask) (x : Vec) : (w.setV n m x).exiting = w.exiting := rfl
@[simp] theorem Warp.setV_handler (w : Warp) (n : Nat) (m : Mask) (x : Vec) : (w.setV n m x).handler = w.handler := rfl
@[simp] theorem Warp.setV_hbase (w : Warp) (n : Nat) (m : Mask) (x : Vec) : (w.setV n m x).hbase = w.hbase := rfl
@[simp] theorem Warp.setV_faultVAs (w : Warp) (n : Nat) (m : Mask) (x : Vec) : (w.setV n m x).faultVAs = w.faultVAs := rfl
@[simp] theorem Warp.setV_slen (w : Warp) (n : Nat) (m : Mask) (x : Vec) : (w.setV n m x).slen = w.slen := rfl
@[simp] theorem Warp.setV_lmax (w : Warp) (n : Nat) (m : Mask) (x : Vec) : (w.setV n m x).lmax = w.lmax := rfl
@[simp] theorem Warp.setV_zregs (w : Warp) (n : Nat) (m : Mask) (x : Vec) : (w.setV n m x).zregs = w.zregs := rfl
@[simp] theorem Warp.setV_zbase (w : Warp) (n : Nat) (m : Mask) (x : Vec) : (w.setV n m x).zbase = w.zbase := rfl
@[simp] theorem Warp.setV_zbad (w : Warp) (n : Nat) (m : Mask) (x : Vec) : (w.setV n m x).zbad = w.zbad := rfl
@[simp] theorem Warp.setV_seed (w : Warp) (n : Nat) (m : Mask) (x : Vec) : (w.setV n m x).seed = w.seed := rfl
@[simp] theorem Warp.setV_z (w : Warp) (n : Nat) (m : Mask) (x : Vec) : (w.setV n m x).z = w.z := rfl
@[simp] theorem Warp.setV_frame (w : Warp) (n : Nat) (m : Mask) (x : Vec) : (w.setV n m x).frame = w.frame := rfl
@[simp] theorem Warp.setV_frameVA (w : Warp) (n : Nat) (m : Mask) (x : Vec) : (w.setV n m x).frameVA = w.frameVA := rfl
@[simp] theorem Warp.setV_lease (w : Warp) (n : Nat) (m : Mask) (x : Vec) : (w.setV n m x).lease = w.lease := rfl
@[simp] theorem Warp.setV_ports (w : Warp) (n : Nat) (m : Mask) (x : Vec) : (w.setV n m x).ports = w.ports := rfl
@[simp] theorem Warp.setV_counts (w : Warp) (n : Nat) (m : Mask) (x : Vec) : (w.setV n m x).counts = w.counts := rfl
@[simp] theorem Warp.setV_errors (w : Warp) (n : Nat) (m : Mask) (x : Vec) : (w.setV n m x).errors = w.errors := rfl
@[simp] theorem Warp.setV_liveSet (w : Warp) (n : Nat) (m : Mask) (x : Vec) : (w.setV n m x).liveSet = w.liveSet := rfl
@[simp] theorem Warp.setV_quads (w : Warp) (n : Nat) (m : Mask) (x : Vec) : (w.setV n m x).quads = w.quads := rfl
@[simp] theorem Warp.setV_hits (w : Warp) (n : Nat) (m : Mask) (x : Vec) : (w.setV n m x).hits = w.hits := rfl
@[simp] theorem Warp.setV_wake (w : Warp) (n : Nat) (m : Mask) (x : Vec) : (w.setV n m x).wake = w.wake := rfl
@[simp] theorem Warp.setV_parked (w : Warp) (n : Nat) (m : Mask) (x : Vec) : (w.setV n m x).parked = w.parked := rfl
@[simp] theorem Warp.setV_log (w : Warp) (n : Nat) (m : Mask) (x : Vec) : (w.setV n m x).log = w.log := rfl
@[simp] theorem Warp.setV_logQueue (w : Warp) (n : Nat) (m : Mask) (x : Vec) : (w.setV n m x).logQueue = w.logQueue := rfl
@[simp] theorem Warp.setV_ntst (w : Warp) (n : Nat) (m : Mask) (x : Vec) : (w.setV n m x).ntst = w.ntst := rfl
@[simp] theorem Warp.setV_frozen (w : Warp) (n : Nat) (m : Mask) (x : Vec) : (w.setV n m x).frozen = w.frozen := rfl
@[simp] theorem Warp.setV_slipped (w : Warp) (n : Nat) (m : Mask) (x : Vec) : (w.setV n m x).slipped = w.slipped := rfl
@[simp] theorem Warp.setV_yieldLeft (w : Warp) (n : Nat) (m : Mask) (x : Vec) : (w.setV n m x).yieldLeft = w.yieldLeft := rfl
@[simp] theorem Warp.setV_stamp (w : Warp) (n : Nat) (m : Mask) (x : Vec) : (w.setV n m x).stamp = w.stamp := rfl
@[simp] theorem Warp.setV_readyFor (w : Warp) (n : Nat) (m : Mask) (x : Vec) : (w.setV n m x).readyFor = w.readyFor := rfl
@[simp] theorem Warp.setV_heavy (w : Warp) (n : Nat) (m : Mask) (x : Vec) : (w.setV n m x).heavy = w.heavy := rfl
@[simp] theorem Warp.setV_pipe (w : Warp) (n : Nat) (m : Mask) (x : Vec) : (w.setV n m x).pipe = w.pipe := rfl
@[simp] theorem Warp.setV_busy (w : Warp) (n : Nat) (m : Mask) (x : Vec) : (w.setV n m x).busy = w.busy := rfl
@[simp] theorem Warp.setV_xfers (w : Warp) (n : Nat) (m : Mask) (x : Vec) : (w.setV n m x).xfers = w.xfers := rfl
@[simp] theorem Warp.setV_scalars (w : Warp) (n : Nat) (m : Mask) (x : Vec) : (w.setV n m x).scalars = w.scalars := rfl
@[simp] theorem Warp.setV_iss (w : Warp) (n : Nat) (m : Mask) (x : Vec) : (w.setV n m x).iss = w.iss := rfl
@[simp] theorem Warp.setV_halted (w : Warp) (n : Nat) (m : Mask) (x : Vec) : (w.setV n m x).halted = w.halted := rfl
@[simp] theorem Warp.setV_tag (w : Warp) (n : Nat) (m : Mask) (x : Vec) : (w.setV n m x).tag = w.tag := rfl
@[simp] theorem Warp.setV_recVA (w : Warp) (n : Nat) (m : Mask) (x : Vec) : (w.setV n m x).recVA = w.recVA := rfl
@[simp] theorem Warp.setV_issuer (w : Warp) (n : Nat) (m : Mask) (x : Vec) : (w.setV n m x).issuer = w.issuer := rfl
@[simp] theorem Warp.setV_runEng (w : Warp) (n : Nat) (m : Mask) (x : Vec) : (w.setV n m x).runEng = w.runEng := rfl

/-! Lists written at an index. -/

@[simp] theorem listPut_getD {α : Type} (d : α) : ∀ (l : List α) (n m : Nat) (a : α),
    (listPut d l n a).getD m d = if m = n then a else l.getD m d
  | [], 0, 0, _ => rfl
  | [], 0, m + 1, _ => by simp [listPut]
  | [], n + 1, 0, _ => by simp [listPut]
  | [], n + 1, m + 1, a => by simpa [listPut] using listPut_getD d [] n m a
  | b :: t, 0, 0, _ => rfl
  | b :: t, 0, m + 1, _ => by simp [listPut]
  | b :: t, n + 1, 0, _ => by simp [listPut]
  | b :: t, n + 1, m + 1, a => by simpa [listPut] using listPut_getD d t n m a

@[simp] theorem listSet_length {α : Type} : ∀ (l : List α) (n : Nat) (a : α), (listSet l n a).length = l.length
  | [], _, _ => rfl
  | _ :: t, 0, _ => rfl
  | b :: t, n + 1, a => by simpa [listSet] using listSet_length t n a

theorem listSet_getD {α : Type} (d : α) : ∀ (l : List α) (n m : Nat) (a : α),
    (listSet l n a).getD m d = if m = n ∧ n < l.length then a else l.getD m d
  | [], _, _, _ => by simp [listSet]
  | b :: t, 0, 0, _ => by simp [listSet]
  | b :: t, 0, m + 1, _ => by simp [listSet]
  | b :: t, n + 1, 0, _ => by simp [listSet]
  | b :: t, n + 1, m + 1, a => by simpa [listSet] using listSet_getD d t n m a

/-! Tables. -/

/-- A key read after a key was written. -/
@[simp] theorem tget_tput {α : Type} {n j : Nat} {a : α} : ∀ t : Tab α, tget (tput t n a) j = if j = n then some a else tget t j
  | [] => by grind [tput, tget]
  | (k, b) :: t => by
    have ih := tget_tput (n := n) (j := j) (a := a) t
    unfold tput
    grind [tget]

theorem tgetD_tput {α : Type} {n j : Nat} {a d : α} (t : Tab α) : tgetD (tput t n a) j d = if j = n then a else tgetD t j d := by
  unfold tgetD; rw [tget_tput]; split <;> rfl

/-! A unit of the state written: the warp in focus, memory and the clock stay, and it reads back. -/

@[simp] theorem setCluster_w (s : State) (k : Nat) (x : Cluster) : (setCluster s k x).w = s.w := rfl
@[simp] theorem setCluster_mem (s : State) (k : Nat) (x : Cluster) : (setCluster s k x).mem = s.mem := rfl
@[simp] theorem setCluster_clock (s : State) (k : Nat) (x : Cluster) : (setCluster s k x).clock = s.clock := rfl
@[simp] theorem setCluster_link (s : State) (k : Nat) (x : Cluster) : (setCluster s k x).link = s.link := rfl
@[simp] theorem setCluster_remotes (s : State) (k : Nat) (x : Cluster) : (setCluster s k x).remotes = s.remotes := rfl
@[simp] theorem getCluster_setCluster (s : State) (k : Nat) (x : Cluster) (j : Nat) : getCluster (setCluster s k x) j = if j = k then x else getCluster s j := tgetD_tput s.clusters
@[simp] theorem setCore_w (s : State) (k : Nat) (x : Core) : (setCore s k x).w = s.w := rfl
@[simp] theorem setCore_mem (s : State) (k : Nat) (x : Core) : (setCore s k x).mem = s.mem := rfl
@[simp] theorem setCore_clock (s : State) (k : Nat) (x : Core) : (setCore s k x).clock = s.clock := rfl
@[simp] theorem setCore_link (s : State) (k : Nat) (x : Core) : (setCore s k x).link = s.link := rfl
@[simp] theorem setCore_remotes (s : State) (k : Nat) (x : Core) : (setCore s k x).remotes = s.remotes := rfl
@[simp] theorem getCore_setCore (s : State) (k : Nat) (x : Core) (j : Nat) : getCore (setCore s k x) j = if j = k then x else getCore s j := tgetD_tput s.cores
@[simp] theorem setTower_w (s : State) (k : Nat) (x : Tower) : (setTower s k x).w = s.w := rfl
@[simp] theorem setTower_mem (s : State) (k : Nat) (x : Tower) : (setTower s k x).mem = s.mem := rfl
@[simp] theorem setTower_clock (s : State) (k : Nat) (x : Tower) : (setTower s k x).clock = s.clock := rfl
@[simp] theorem setTower_link (s : State) (k : Nat) (x : Tower) : (setTower s k x).link = s.link := rfl
@[simp] theorem setTower_remotes (s : State) (k : Nat) (x : Tower) : (setTower s k x).remotes = s.remotes := rfl
@[simp] theorem getTower_setTower (s : State) (k : Nat) (x : Tower) (j : Nat) : getTower (setTower s k x) j = if j = k then x else getTower s j := tgetD_tput s.towers
@[simp] theorem setCtx_w (s : State) (k : Nat) (x : Ctx) : (setCtx s k x).w = s.w := rfl
@[simp] theorem setCtx_mem (s : State) (k : Nat) (x : Ctx) : (setCtx s k x).mem = s.mem := rfl
@[simp] theorem setCtx_clock (s : State) (k : Nat) (x : Ctx) : (setCtx s k x).clock = s.clock := rfl
@[simp] theorem setCtx_link (s : State) (k : Nat) (x : Ctx) : (setCtx s k x).link = s.link := rfl
@[simp] theorem setCtx_remotes (s : State) (k : Nat) (x : Ctx) : (setCtx s k x).remotes = s.remotes := rfl
@[simp] theorem getCtx_setCtx (s : State) (k : Nat) (x : Ctx) (j : Nat) : getCtx (setCtx s k x) j = if j = k then some x else getCtx s j := tget_tput s.ctxs
@[simp] theorem setGroup_w (s : State) (k : Nat) (x : Group) : (setGroup s k x).w = s.w := rfl
@[simp] theorem setGroup_mem (s : State) (k : Nat) (x : Group) : (setGroup s k x).mem = s.mem := rfl
@[simp] theorem setGroup_clock (s : State) (k : Nat) (x : Group) : (setGroup s k x).clock = s.clock := rfl
@[simp] theorem setGroup_link (s : State) (k : Nat) (x : Group) : (setGroup s k x).link = s.link := rfl
@[simp] theorem setGroup_remotes (s : State) (k : Nat) (x : Group) : (setGroup s k x).remotes = s.remotes := rfl
@[simp] theorem getGroup_setGroup (s : State) (k : Nat) (x : Group) (j : Nat) : getGroup (setGroup s k x) j = if j = k then some x else getGroup s j := tget_tput s.groups
@[simp] theorem setFrame_w (s : State) (k : Nat) (x : Frame) : (setFrame s k x).w = s.w := rfl
@[simp] theorem setFrame_mem (s : State) (k : Nat) (x : Frame) : (setFrame s k x).mem = s.mem := rfl
@[simp] theorem setFrame_clock (s : State) (k : Nat) (x : Frame) : (setFrame s k x).clock = s.clock := rfl
@[simp] theorem setFrame_link (s : State) (k : Nat) (x : Frame) : (setFrame s k x).link = s.link := rfl
@[simp] theorem setFrame_remotes (s : State) (k : Nat) (x : Frame) : (setFrame s k x).remotes = s.remotes := rfl
@[simp] theorem getFrame_setFrame (s : State) (k : Nat) (x : Frame) (j : Nat) : getFrame (setFrame s k x) j = if j = k then some x else getFrame s j := tget_tput s.frames

/-! Registers. -/

@[simp] theorem Warp.sreg_setS (w : Warp) (n m : Nat) (x : W64) : (w.setS n x).sreg m = if m = n then x else w.sreg m :=
  listPut_getD 0 w.s n m x

theorem Warp.sreg_setM (w : Warp) (k n : Nat) (m : Mask) :
    (w.setM k m).sreg n = if n = 2 * k then m.extractLsb' 0 64 else if n = 2 * k + 1 then m.extractLsb' 64 64 else w.sreg n := by
  have lo : BitVec.ofNat 64 m.toNat = m.extractLsb' 0 64 := by apply BitVec.eq_of_toNat_eq; simp
  have hi : BitVec.ofNat 64 (m.toNat / 2 ^ 64) = m.extractLsb' 64 64 := by
    apply BitVec.eq_of_toNat_eq; simp [Nat.shiftRight_eq_div_pow]
  unfold Warp.setM
  simp only [Warp.sreg_setS, lo, hi]
  grind

/-- A mask register holds what was written (07 R160). -/
@[simp] theorem Warp.mreg_setM (w : Warp) (k : Nat) (m : Mask) : (w.setM k m).mreg k = m := by
  have h : 2 * k + 1 ≠ 2 * k := by omega
  simp only [Warp.mreg, Warp.sreg_setM, if_true, h, if_false]
  apply BitVec.eq_of_toNat_eq
  simp [Nat.shiftRight_eq_div_pow]
  have := m.isLt
  omega

/-- A named register after a write: the value in the lanes of the mask, if the register exists. -/
theorem Warp.vreg_setV (w : Warp) (n k : Nat) (m : Mask) (x : Vec) :
    (w.setV n m x).vreg k = if k = n ∧ n < w.v.length then Vec.select m x (w.vreg n) else w.vreg k :=
  listSet_getD Vec.zero w.v n k _

@[simp] theorem Warp.setV_length (w : Warp) (n : Nat) (m : Mask) (x : Vec) : (w.setV n m x).v.length = w.v.length := by
  simp [Warp.setV]

/-! Vectors. -/

@[simp] theorem Vec.lane_ofFn (f : Nat → W32) {l : Nat} (h : l < 128) : (Vec.ofFn f).lane l = f l := by
  simp [Vec.ofFn, Vec.lane, h]

theorem Vec.lane_select (m : Mask) (x y : Vec) {l : Nat} (h : l < 128) :
    (Vec.select m x y).lane l = if hasLane m l then x.lane l else y.lane l := Vec.lane_ofFn _ h

@[simp] theorem Vec.lane_zero (l : Nat) : Vec.zero.lane l = 0 := by
  unfold Vec.zero Vec.lane
  rw [List.getD_eq_getElem?_getD, List.getElem?_replicate]
  split <;> rfl

/-! Masks. -/

theorem maskOfAux_lt (p : Nat → Bool) : ∀ n, maskOfAux p n < 2 ^ n
  | 0 => by simp [maskOfAux]
  | n + 1 => by
    have := maskOfAux_lt p n
    have h2 : 2 ^ (n + 1) = 2 ^ n + 2 ^ n := by rw [Nat.pow_succ]; omega
    unfold maskOfAux
    split <;> omega

theorem testBit_maskOfAux (p : Nat → Bool) : ∀ n l, (maskOfAux p n).testBit l = (decide (l < n) && p l)
  | 0, l => by simp [maskOfAux]
  | n + 1, l => by
    have hlt := maskOfAux_lt p n
    have ih := testBit_maskOfAux p n l
    unfold maskOfAux
    split
    · next hp =>
      have e : maskOfAux p n + 2 ^ n = 2 ^ n * 1 + maskOfAux p n := by omega
      rw [e, Nat.testBit_two_pow_mul_add 1 hlt, ih]
      by_cases h : l < n
      · simp [h]; omega
      · by_cases h2 : l = n
        · subst h2; simp [hp]
        · have h3 : ¬ l < n + 1 := by omega
          have h4 : Nat.testBit 1 (l - n) = false := by
            obtain ⟨j, hj⟩ : ∃ j, l - n = j + 1 := ⟨l - n - 1, by omega⟩
            simp [hj, Nat.testBit_succ]
          simp [h, h3, h4]
    · next hp =>
      rw [Nat.add_zero, ih]
      by_cases h : l = n
      · subst h; simp_all
      · grind

/-- A mask of lanes has a bit exactly where the test holds (07 R160). -/
@[simp] theorem hasLane_maskOf (p : Nat → Bool) {l : Nat} (h : l < 128) : hasLane (maskOf p) l = p l := by
  unfold hasLane maskOf
  rw [BitVec.getLsbD_ofNat, testBit_maskOfAux]
  simp [h]

/-! Results. -/

theorem raiseFlags_zero (s : State) : raiseFlags s 0 = s := by
  show s.modW _ = s
  exact State.modW_congr (g := fun w => w) (by simp)

theorem drawIf_none {s : State} {r : Rnd} {b : Bool} (h : rndDraws r = false) : drawIf s r b = s := by
  simp [drawIf, h]

/-- The top entry removed from a stack that is all in the warp (13 R324). -/
theorem dropTop_eq {s : State} (h : s.w.spilled = 0) : dropTop s = s.modW fun w => { w with stack := w.stack.tail } := by
  simp [dropTop, refill, h]

/-- A push that fits in the warp (13 R324). -/
theorem push1_fits {s : State} (limit : Nat) (e : SEntry) (h : s.w.stack.length < 16) :
    push1 s limit e = .ok (s.modW fun w => { w with stack := e :: w.stack }) := by
  simp [push1, h]

/-- A push that finds no room (13 R327, 15 R375). -/
theorem push1_full {s : State} {limit : Nat} (e : SEntry) (h : 16 ≤ s.w.stack.length)
    (room : s.w.isSeq = true ∨ limit < 32 * (s.w.spilled + 1) + s.w.raySpill) : push1 s limit e = .full := by
  have h' : ¬ s.w.stack.length < 16 := by omega
  simp only [push1, h', if_false]
  rw [if_pos]
  simpa using room

/-- Nothing is popped where no entry is due (13 R325). -/
theorem popCheck_none {s : State} (n : Nat) (h : popDue s.w = none) : popCheck n s = s := by
  cases n with
  | zero => rfl
  | succ n => simp [popCheck, h]

theorem popAll_none {s : State} (h : popDue s.w = none) : popAll s = s := popCheck_none _ h

/-- With no entry in the warp nothing is due. -/
theorem popAll_empty {s : State} (h : s.w.stack = []) : popAll s = s := popAll_none (by simp [popDue, h])

end Sys2Proof.Machine
end

