-- ==== Sys2Proof/Tests/Slice0.lean ====
section
/-! SUPPORT. Tests: ill-formed instructions, words decoded, and for each statement a state and operands that meet its hypotheses. -/
namespace Sys2Proof.Tests
set_option Elab.async false

open Sys2Proof Sys2Proof.Machine

/-! A small state. -/

/-- A warp of context 1 on core 0 about to act, alone in its workgroup, all lanes active; its page of code is also data. -/
def base : State :=
  let s := State.reset.withFetchWord 32 0
  { s with agenda := [], w := { s.w with iss := { Issue.idle with lanes := ~~~ 0, all := ~~~ 0, pc := 0x10000, next := 4 } } }

/-- The same with the scalars given, from s0 up. -/
def withS (s : State) (xs : List W64) : State := s.modW fun w => { w with s := xs ++ w.s.drop xs.length }

def goes (c : Prep) : Bool := match c with | .go _ => true | .stop _ => false
def got (c : Prep) : State := match c with | .go s => s | .stop s => s
theorem goes_got {c : Prep} (h : goes c = true) : c = .go (got c) := by
  cases c with
  | go => rfl
  | stop => cases h

def isNext (o : Out) : Bool := match o with | .next _ => true | _ => false

/-- Operands of one, two and three sources, on vectors and on scalars, of every type. -/
def shapes : List Op :=
  [Ty.i32, .n32, .f32, .f16, .bf16, .t8, .i4, .i16, .i64, .b32, .n64].flatMap fun ty =>
    let v : Op := { plainOp ty (.vec 2) .unused (.vec 6) with ext := true }
    let u : Op := { v with u := true, a := .sca 2, d := .sca 6 }
    [v, { v with b := .vec 4 }, { v with b := .vec 4, c := .vec 8 }, u, { u with b := .sca 4 }, { u with b := .sca 4, c := .sca 8 },
     { v with d := .msk 3 }, { v with b := .vec 4, d := .msk 3 }, { u with b := .sca 4, d := .sca 3 }]

/-! Arithmetic. -/

/-- What the statements about the accesses ask of a state: nothing held, no trap joined, room in L1, and no copy of the line there. -/
def readyAt (s : State) (pa : Nat) : Bool :=
  !s.w.iss.hold && !s.w.iss.many && !s.w.isSeq && s.mem.wf && decide ((getCore s s.core).lines.length + 128 ≤ l1Lines s s.core) &&
    (lineHeld s pa).isNone && ((getCore s s.core).lines.filter fun l => l.ctx == s.ctx && l.pa == pa / 128 * 128).isEmpty
theorem ready_all {s : State} {pa : Nat} (h : readyAt s pa = true) :
    performs s ∧ alone s ∧ s.w.isSeq = false ∧ s.memOk ∧ roomFor s 128 ∧ inStep s pa ∧ oneCopy s pa := by
  simp only [readyAt, Bool.and_eq_true, Bool.not_eq_true', decide_eq_true_eq, Option.isNone_iff_eq_none, List.isEmpty_iff] at h
  obtain ⟨⟨⟨⟨⟨⟨h1, h2⟩, h3⟩, h4⟩, h5⟩, h6⟩, h7⟩ := h
  refine ⟨h1, h2, h3, h4, h5, fun l hl => ?_, ?_⟩
  · rw [h6] at hl; cases hl
  · rw [oneCopy, h7]; exact Nat.zero_le _

theorem wit_IntegerArithmetic :
    (∀ r ∈ intaRules ++ intbRules, (∃ o ∈ shapes, formOk (r.1 o) = true ∧ o.u = false ∧ goes (prep base (sources o) [(o.d, 1)]) = true) ∧
      ∃ o ∈ shapes, formOk (r.1 o) = true ∧ o.u = true) ∧
    ∀ r ∈ pairRules, (∃ o ∈ shapes, formOk (r.1 o) = true ∧ o.u = false ∧
      goes (prep base [(o.a, 2), (o.b, if r.2.1 then 2 else 1), (o.c, 1)] [(o.d, 2)]) = true) ∧ ∃ o ∈ shapes, formOk (r.1 o) = true ∧ o.u = true := by
  decide +kernel

theorem wit_ImmediateForms :
    (∀ r ∈ immRules, (∃ a ∈ [Src.vec 15, .unused], formOk (r.1 ⟨false, false, 0, 63, a⟩) = true ∧ goes (prep base [(a, 1)] []) = true) ∧
      formOk (r.1 ⟨true, false, 0, 63, .sca 31⟩) = true) ∧
    formOk (.icmpi ⟨false, false, 7, -1, .queue 15⟩) = true ∧ goes (prep base [(.queue 15, 1)] []) = true ∧
    formOk (.icmpi ⟨true, false, 6, -512, .sca 31⟩) = true := by decide +kernel

theorem wit_IntegerCompares :
    ∀ mk ∈ [Instr.icmp, .icmpn, .fcmp, .fcmpx], (∃ o ∈ shapes, formOk (mk o) = true ∧ o.u = false ∧ goes (prep base (sources o) []) = true) ∧
      ∃ o ∈ shapes, formOk (mk o) = true ∧ o.u = true := by decide +kernel

theorem wit_MaskRegisters :
    (∃ o ∈ shapes, formOk (.mset o) = true ∧ goes (prep base (sources o) []) = true) ∧
    (∀ r ∈ maskRules, ∃ o ∈ [plainOp .b32 (.msk 31) (.msk 0) (.msk 31), plainOp .b32 (.msk 0) .unused (.msk 31)], formOk (r.1 o) = true) ∧
    (∀ r ∈ maskToLaneRules, let o := plainOp .b32 (.msk 31) .unused .queue
      formOk (r.1 o) = true ∧ goes (prep base (sources o) [(o.d, 1)]) = true) ∧
    formOk (.mlit 5 0 0) = true ∧ formOk (.mlit 5 1 31) = true := by decide +kernel

theorem wit_FloatLanes :
    (∀ r ∈ fltRules, (∃ o ∈ shapes, formOk (r.op o) = true ∧ o.u = false ∧ goes (prep base (sources o) [(o.d, 1)]) = true) ∧
      ∃ o ∈ shapes, formOk (r.op o) = true ∧ o.u = true) ∧
    (∀ r ∈ pkdRules, ∃ o ∈ shapes, formOk (r.op o) = true ∧ o.u = false ∧ goes (prep base (sources o) [(o.d, 1)]) = true) ∧
    (∀ r ∈ cvtRules .i32 0, ∃ o ∈ shapes, formOk (r.op o) = true ∧ o.u = false ∧ goes (prep base (sources o) [(o.d, 1)]) = true) ∧
    (∃ o ∈ shapes, formOk (.cvt o .i64 0) = true ∧ o.u = true) ∧ formOk (.cvt { plainOp .f32 (.vec 2) .unused .queue with ext := true } .i4 7) = true ∧
    formOk (.cvt { plainOp .f32 (.vec 2) .unused .queue with ext := true } .t6 5) = false := by decide +kernel

theorem wit_CrossLane :
    (∀ r ∈ crossRules, ∃ o ∈ shapes, formOk (r.1 o) = true ∧ goes (prep base [(o.a, 1), (o.b, 1)] [(o.d, 1)]) = true) ∧
    ∀ e, ∃ o ∈ shapes, formOk (.scan o e) = true ∧ goes (prep base [(o.a, 1), (o.b, 1)] [(o.d, 1)]) = true := by decide +kernel

theorem base_group : base.group = some placedGroup := by decide +kernel

/-- The small state has no channels, whatever its scalars, registers and queue hold. -/
theorem base_noChannels (f : Warp → Warp) (h : (f base.w).ports = [] ∧ (f base.w).groupId = base.w.groupId) :
    noChannels (base.modW f) := by
  refine ⟨h.1, fun n => ?_⟩
  have hg : (base.modW f).group = some placedGroup := by
    have h2 := base_group
    rw [State.group] at h2 ⊢
    exact (congrArg (fun x => x.bind (getGroup base)) h.2).trans h2
  simp [consumerChan, hiddenReg, hg, placedGroup, freshGroup]

/-- The small state with no active lane. -/
def noLanes : State := base.modW fun w => { w with iss := { w.iss with lanes := 0, all := 0 } }
/-- Queue entries that are all transient. -/
def transient : State := base.modW fun w => { w with queue := List.replicate 16 ⟨Vec.zero, true⟩ }

theorem wit_OperandsAreCheckedFirst :
    noChannels base ∧ noChannels transient ∧
    (∃ n ∈ [(Src.vec 64, 1)].flatMap srcRegs ++ [(Dst.vec 63, 1)].flatMap dstRegs, base.w.v.length ≤ n) ∧
    base.allLanes ≠ 0 ∧ transient.allLanes ≠ 0 ∧ noLanes.allLanes = 0 ∧ noChannels noLanes ∧
    ((∀ n ∈ [(Src.vec 63, 1), (.queue 8, 1)].flatMap srcRegs ++ [(Dst.vec 62, 2)].flatMap dstRegs, n < transient.w.v.length) ∧
      8 ≤ (8 : BitVec 4).toNat ∧ (transient.w.activeQueue.getD 8 ⟨Vec.zero, false⟩).tr = true) ∧
    ((∀ n ∈ [(Src.vec 63, 1), (.queue 7, 1)].flatMap srcRegs, n < transient.w.v.length) ∧ ¬ 8 ≤ (7 : BitVec 4).toNat) :=
  ⟨base_noChannels id ⟨rfl, rfl⟩, base_noChannels _ ⟨rfl, rfl⟩, by decide +kernel, by decide +kernel, by decide +kernel, by decide +kernel,
    base_noChannels _ ⟨rfl, rfl⟩, by decide +kernel, by decide +kernel⟩

theorem wit_ResultsAreDelivered :
    base.w.isSeq = false ∧ (mkReq base (.uload 0 4) (.vec 60) true []).slots = [] ∧ (∀ n, producerChan base.w n = none) ∧ (63#9).toNat < base.w.v.length ∧ (60#9).toNat + 4 ≤ base.w.v.length ∧
    ∃ e rest, base.w.activeQueue = e :: rest :=
  ⟨by decide +kernel, rfl, fun _ => rfl, by decide +kernel, by decide +kernel, ⟨_, _, rfl⟩⟩

theorem wit_ArithmeticFrame :
    (∀ i ∈ [Instr.iadd { plainOp .i32 (.queue 0) (.vec 15) .queue with tr := true },
        .iadd64 { plainOp .i64 (.vec 14) (.vec 12) (.vec 10) with ext := true }, .fadd { plainOp .f32 (.queue 0) (.queue 1) (.vec 1) with rnd := .rtz },
        .mand (plainOp .b32 (.msk 0) (.msk 1) (.msk 31)), .icmp (plainOp .i32 (.queue 0) (.queue 1) (.msk 2)),
        .redu { plainOp .i32 (.queue 0) .unused .queue with ext := true }],
      formOk i = true ∧ ∃ x ∈ (aluOf i).toList, x.op.u = false ∧ goes (prep base (aluSources x) (aluDests x)) = true ∧ isNext (exec i base) = true) ∧
    (∃ x ∈ (aluOf (.iadd { plainOp .i64 (.sca 2) (.sca 3) (.sca 31) with u := true })).toList, aluOk x = true ∧ x.op.u = true) ∧
    formOk (.shli ⟨false, true, 0, 31, .queue 15⟩) = true ∧ goes (prep base [(.queue 15, 1)] []) = true ∧
    isNext (exec (.shli ⟨false, true, 0, 31, .queue 15⟩) base) = true ∧ formOk (.iaddi ⟨true, false, 0, -1, .sca 31⟩) = true := by decide +kernel

/-! Control flow. -/

theorem wit_UniformBranches : base.w.iss.all = base.w.exec := by decide +kernel

/-- An entry of a kind at an offset. -/
def entryAt (k : SKind) (o : W32) : SEntry := ⟨0xF0, o, o + 8, k, false, 0, 0, 2, 0, 0, 0⟩
/-- The small state in a handler, and with a stack. -/
def inHandler : State := base.modW fun w => { w with handler := true }
def stacked (es : List SEntry) : State := base.modW fun w => { w with stack := es }
/-- A state whose mask m0 and stack are given. -/
def forked (m : W64) (n : Nat) : State := (withS base [m, m]).modW fun w => { w with stack := List.replicate n (entryAt .reconv 0x40) }

theorem wit_DivergentBranches :
    noLanes.w.iss.all = 0 ∧
    (let s := forked (~~~ 0) 0;
      s.w.iss.all ≠ 0 ∧ s.w.iss.all &&& ~~~ s.w.mreg 0 = 0) ∧
    (let s := forked 0 0;
      s.w.iss.all ≠ 0 ∧ s.w.iss.all &&& s.w.mreg 0 = 0) ∧
    (∀ n ∈ [0, 14, 15, 16], let s := forked 5 n;
      s.w.iss.all &&& s.w.mreg 0 ≠ 0 ∧ s.w.iss.all &&& ~~~ s.w.mreg 0 ≠ 0 ∧ s.w.stack.length = n ∧ s.w.spillLimit < 32 * (s.w.spilled + 1) + s.w.raySpill) ∧
    formOk (.loop none (.sca 0) 4 none) = true ∧ formOk (.loop (some 9) .lit 6 (some (0, 1))) = true ∧ srcBits 32 base .n32 none (.sca 0) 0 = 0 ∧
    srcBits 32 (forked 5 15) .n32 none (.sca 0) 0 ≠ 0 ∧ ¬ (base.w.sreg 0 = 0 ↔ false = true) ∧
    (∀ k ∈ [SKind.loop, .path], let s := stacked [entryAt k 0x40];
      (s.w.sreg 0 = 0 ↔ true = true) ∧ s.w.stack = entryAt k 0x40 :: [] ∧ s.w.spilled = 0) := by decide +kernel

theorem wit_EntriesPop :
    (∀ k ∈ [SKind.path, .reconv, .call, .loop], let s := stacked [entryAt k 0];
      s.w.stack = entryAt k 0 :: [] ∧ s.w.spilled = 0 ∧ (entryAt k 0).kind = k ∧ (entryAt k 0).count ≠ 1) ∧ (({ entryAt .loop 0 with count := 1 }).count = 1) ∧
    (let s := forked 5 14;
      s.w.iss.all &&& s.w.mreg 0 ≠ 0 ∧ s.w.iss.all &&& ~~~ s.w.mreg 0 ≠ 0 ∧ s.w.stack.length ≤ 14 ∧ s.w.spilled = 0 ∧ branchTo s 9 ≠ s.w.o + 0x20 ∧
      ∀ e ∈ s.w.stack.head?, e.kind = .trap ∨ s.w.o + 0x20 ≠ e.rpc) ∧
    (let s := stacked [entryAt .path 0, entryAt .trap 4];
      (entryAt .path 0).kind ≠ .trap ∧ s.w.o = (entryAt .path 0).rpc ∧ (entryAt .trap 4).kind = .trap) := by decide +kernel

theorem wit_PlaneSelection :
    (let s := forked 5 0;
      (0 : BitVec 2).toNat ≤ s.w.code.planes ∧ s.w.iss.all &&& s.w.mreg 0 ≠ 0 ∧ s.w.code.planes < (1 : BitVec 2).toNat) ∧
    (base.w.iss.all &&& base.w.mreg 0 = 0) ∧
    formOk (.plsw none (.queue 15)) = true ∧ goes (prep base [(.queue 15, 1)] []) = true ∧
    (∀ p ∈ [(Src.zero, true), (.one, false)], formOk (.plsw none p.1) = true ∧ goes (prep base [(p.1, 1)] []) = true ∧
      ((maskOf fun l => hasLane base.w.iss.all l && decide (base.w.code.planes < (srcBits 32 base .n32 none p.1 l).toNat)) = 0 ↔ p.2 = true)) ∧
    base.w.code.planes ≤ 3 ∧ base.allLanes ≠ 0 ∧ noLanes.allLanes = 0 := by decide +kernel

theorem wit_StackEntriesRoundTrip : (entryAt .loop 0xFFFFFFFC).canonical ∧ SEntry.canonical ⟨~~~ 0, 4, 8, .trap, false, 0, 0, 0, 0x41, 15, 2⟩ :=
  ⟨by simp [SEntry.canonical, entryAt], by simp [SEntry.canonical]⟩

/-! Traps. -/

/-- The context's handler at an address. -/
def handlerAt (s : State) (h : W64) : State :=
  { s with ctxs := tput s.ctxs 1 { placedCtx with trap := { placedCtx.trap with handler := h } } }
/-- A sequencer that runs for context 1. -/
def onSeq : State :=
  let s := State.reset.withFetchWord 32 0x54
  { s with agenda := [], w := { s.w with iss := { Issue.idle with lanes := 1, all := 1, pc := 0x10000, next := 4 } } }

theorem base_handlerReady (h : W64) (h0 : h ≠ 0) : handlerReady (handlerAt base h) h :=
  ⟨show base.w.isSeq = false by decide +kernel, show base.w.handler = false by decide +kernel,
    show base.w.stack.length < 16 by decide +kernel, h0, { placedCtx with trap := { placedCtx.trap with handler := h } },
    by simp [handlerAt, getCtx, State.ctx, show base.w.home.ctx = 1 by decide +kernel], rfl⟩

theorem wit_TrapsAreTaken :
    handlerReady (handlerAt base 0x8000) 0x8000 ∧
    (base.w.isSeq = false ∧ base.w.handler = false ∧ base.w.stack.length < 16 ∧
      ∃ c ∈ (getCtx base base.ctx).toList, c.trap.handler = 0 ∧ c.running = .running) ∧
    (inHandler.w.isSeq = false ∧ inHandler.w.handler = true ∧ (getCtx inHandler inHandler.ctx).isSome = true) ∧
    (onSeq.w.isSeq = true ∧ ∃ c ∈ (getCtx onSeq onSeq.ctx).toList, c.running = .running) ∧
    noLanes.w.iss.all = 0 ∧ base.w.iss.all ≠ 0 ∧ (∀ s ∈ [base, inHandler, onSeq, handlerAt base 0x8000], s.w.iss.many = false) ∧
    (base.modW fun w => { w with iss := { w.iss with many := true } }).w.iss.many = true :=
  ⟨base_handlerReady _ (by decide), by decide +kernel, by decide +kernel, by decide +kernel, by decide +kernel, by decide +kernel, by decide +kernel⟩

theorem wit_TrapsComeBack :
    (let e : SEntry := ⟨~~~ 0, 4, 0, .trap, false, 0, 0, 0, 0x41, 0, 2⟩
      ∀ s ∈ [inHandler.modW fun w => { w with stack := [entryAt .path 0, e, entryAt .loop 8] }],
        s.w.stack = [entryAt .path 0] ++ e :: [entryAt .loop 8] ∧ (∀ x ∈ [entryAt .path 0], x.kind ≠ .trap) ∧ e.kind = .trap ∧ s.w.spilled = 0 ∧
        (e.cause ≠ 0x10 ∧ e.cause ≠ 0x11 ∧ e.cause ≠ 0x12 ∧ e.cause ≠ 0x31 ∧ e.cause ≠ 0x32) ∧ e.mode ≠ 1) ∧
    handlerReady (handlerAt base 0x8000) 0x8000 ∧ alone (handlerAt base 0x8000) ∧ base.w.spilled = 0 ∧
    plainCause 0x41 ∧ (2 : BitVec 2) ≠ 1 ∧ base.w.exec &&& base.w.exited = 0 ∧ base.w.hqueue = [] ∧ noPop base.w 4 :=
  ⟨by decide +kernel, base_handlerReady _ (by decide), show base.w.iss.many = false by decide +kernel, by decide +kernel,
    by unfold plainCause; decide, by decide, by decide +kernel, by decide +kernel, by
    intro e he
    rw [show base.w.stack.head? = none by decide +kernel] at he
    cases he⟩

/-! Special registers and small instructions. -/

/-- The small state with some lanes active. -/
def active (m : Mask) : State := base.modW fun w => { w with exec := m }

theorem wit_SpecialRegistersRead :
    base.w.isSeq = false ∧ base.w.handler = false ∧ inHandler.w.handler = true ∧ onSeq.w.isSeq = true ∧
    (∀ l ∈ [0, 127], (active (1#128 <<< l)).w.exec.getLsbD l = true ∧ ∀ i < l, (active (1#128 <<< l)).w.exec.getLsbD i = false) ∧
    (active 0).w.exec = 0 := by decide +kernel

/-- The small state with its cluster changed. -/
def withCluster (f : Cluster → Cluster) : State := modCluster base 0 f
/-- The small state with a stack, its lanes about to exit. -/
def pathEntry : SEntry := entryAt .path 0x40

theorem wit_SystemInstructions :
    (match (translatePrefetch base base.walker base.ctx .fetch ((base.w.iss.pc + 4 * (0 : W64)).toNat / 128 * 128)).2 with | .ok _ => true | .error _ => false) = true ∧
    (let s := base.modW fun w => { w with ntst := [(0x10000, 7)] };
      s.mem.wf = true ∧ ∀ r ∈ s.w.ntst.map (fun q => region q.1.toNat), r < 2) ∧
    onSeq.w.isSeq = true ∧ base.w.isSeq = false ∧ noLanes.w.iss.all = 0 ∧
    (let s := base.modW fun w => { w with iss := { w.iss with all := 1 } };
      s.w.iss.all ≠ 0 ∧ (exiting s).w.exec &&& ~~~ (exiting s).w.exited ≠ 0) ∧
    (let s := stacked [pathEntry];
      s.w.iss.all ≠ 0 ∧ (exiting s).w.exec &&& ~~~ (exiting s).w.exited = 0 ∧ (exiting s).w.stack = [pathEntry] ∧ (exiting s).w.spilled = 0 ∧ pathEntry.kind = .path) ∧
    (let s := stacked [{ pathEntry with mask := ~~~ 0 }];
      let s := s.modW fun w => { w with iss := { w.iss with all := 1 }, exec := 1 };
      s.w.iss.all ≠ 0 ∧ (exiting s).w.exec &&& ~~~ (exiting s).w.exited = 0 ∧ ({ pathEntry with mask := ~~~ 0 } : SEntry).mask &&& ~~~ (exiting s).w.exited ≠ 0) ∧
    (base.w.iss.all ≠ 0 ∧ (exiting base).w.exec &&& ~~~ (exiting base).w.exited = 0 ∧ (exiting base).w.stack = [] ∧
      (exiting base).w.spilled = 0 ∧ (getFrame (exiting base) (exiting base).w.frame).isSome = true) ∧
    (let s := base.modW fun w => { w with spilled := 1 };
      s.w.iss.all ≠ 0 ∧ (exiting s).w.exec &&& ~~~ (exiting s).w.exited = 0 ∧ (exiting s).w.stack = [] ∧ (exiting s).w.spilled ≠ 0) ∧
    (getCluster base base.w.cluster).icache.length + 15 < 2048 ∧
    formOk (.lease 2047 2 63) = true ∧ formOk (.lease 0 0 0) = true ∧
    ((getTower base 0).thermal = 0 ∧ (getCluster base 0).lastSum < 256 * (getCluster base 0).power.soft ∧ 2 ≤ (getCluster base 0).power.leasemax ∧
      2047 ≤ (getCluster base 0).pool + unitsLeft base.w.lease) ∧
    (let s := withCluster fun k => { k with power := { k.power with leasemax := 1 }, pool := 0 };
      (getCluster s 0).power.leasemax < 2 ∧ 1 ≤ (getCluster s 0).power.leasemax ∧ (getCluster s 0).pool + unitsLeft s.w.lease < 1 ∧
      (getCluster s 0).lastSum < 256 * (getCluster s 0).power.soft) := by decide +kernel

/-- The small state with its workgroup changed. -/
def withGroup (f : Group → Group) : State := setGroup base 1 (f placedGroup)
theorem inGroup_withGroup (f : Group → Group) : inGroup (withGroup f) 1 (f placedGroup) :=
  ⟨show base.w.kind = .group 1 by decide +kernel, by simp [withGroup, getGroup, setGroup]⟩
def pooled : Group → Group := fun g => { g with pool := [(0, 8)] }

theorem wit_RegisterClaims :
    inGroup (withGroup pooled) 1 (pooled placedGroup) ∧
    (∀ n ∈ [1, 64], ∀ l ∈ [none, some 0, some 0xFFFFFFFF], formOk (claimForms 63 (BitVec.ofNat 7 n) (l.map (BitVec.ofNat 32))) = true) ∧
    (512 < (withGroup pooled).w.v.length + 8 * 64 ∧
      ¬ (512 < (withGroup pooled).w.v.length + 8 * 1 ∨ tgetD (pooled placedGroup).reserve 0 0 < 8 * 1) ∧
      claimsOf (withGroup pooled) (pooled placedGroup) (withGroup pooled).w.home.group = [] ∧ 8 * 1 ≤ tgetD (pooled placedGroup).pool 0 0 ∧
      tgetD (pooled placedGroup).pool 0 0 < 8 * 2) ∧
    (let s := base.modW fun w => { w with wake := .claim 1 3 (some 0) };
      s.w.wake = .claim 1 3 (some 0) ∧ 0 ≤ s.clock) ∧
    base.w.v.length < 8 * 9 ∧ 8 * 8 ≤ base.w.v.length ∧ (∀ c ∈ (pooled placedGroup).chans, 0 < c.2.depth) ∧
    (∃ c ∈ [(0, (⟨some 0, 56, 8, 0, 0, [], 1, false⟩ : Channel))], 0 < c.2.depth ∧ c.2.consumer = some base.w.home.index ∧ c.2.port ≤ 56 ∧ 56 < c.2.port + c.2.depth) :=
  ⟨inGroup_withGroup _, by decide +kernel⟩

/-- A channel of the workgroup whose two ends are this warp, at v8 and v9. -/
def channelled (slots : List ChanSlot) (consumer : Option Nat) : State :=
  (withGroup fun g => { g with chans := [(3, ⟨consumer, 8, 1, 0, 0, slots, 1, false⟩)] }).modW fun w => { w with ports := [(3, 9)] }

theorem wit_Channels :
    inGroup (withGroup id) 1 placedGroup ∧
    base.w.v.length < (63 : BitVec 9).toNat + ((1 : BitVec 4).toNat + 1) ∧ (63 : BitVec 9).toNat + ((0 : BitVec 4).toNat + 1) ≤ base.w.v.length ∧
    base.w.v.length ≤ (64 : BitVec 9).toNat ∧ (63 : BitVec 9).toNat < base.w.v.length ∧
    (∀ vs ∈ [[ChanSlot.full], [], [.due 0 1]], let s := channelled vs (some 0);
      (consumerChan s 8).map (·.1) = some 3 ∧ (chanOf s 3).map (·.slots) = some vs ∧ s.w.iss.took = [] ∧ 8 < s.w.v.length ∧ hiddenReg s 8 = false ∧ s.allLanes ≠ 0 ∧
      ∀ ch ∈ (chanOf s 3).toList, (slotHolder s ch).isSome = true) ∧
    (∀ m, producerChan ({ channelled [.full] (some 0) with w := { (channelled [.full] (some 0)).w with ports := [] } } : State).w m = none) ∧
    (let s := channelled [] (some 0);
      (∀ ch ∈ (chanOf s 3).toList, orphaned s ch = false) ∧ (∀ ch ∈ [(⟨some 0, 8, 1, 1, 0, [], 1, false⟩ : Channel)], orphaned s ch = true) ∧
      producerChan s.w 9 = some 3 ∧ s.w.iss.gave = [] ∧ ∀ ch ∈ (chanOf s 3).toList, ch.gone = false ∧ ch.consumer ≠ none ∧ ch.slots.length < ch.depth) ∧
    (∀ s ∈ [channelled [.full] (some 0), channelled [] none], portFull s 9 = true ∧ transientFault s.w [(.queue 0, 1)] = none ∧
      ∀ ch ∈ (chanOf s 3).toList, s.w.role.toNat = ch.role) ∧
    (let s := (channelled [.full] (some 0)).modW fun w => { w with wake := .channel 3 };
      s.w.wake = .channel 3 ∧ (chanOf s 3).isSome = true) :=
  ⟨inGroup_withGroup _, by decide +kernel, by decide +kernel, by decide +kernel, by decide +kernel, by decide +kernel, fun _ => rfl,
    by decide +kernel, by decide +kernel, by decide +kernel⟩

/-! Memory. -/

def withTlb (s : State) (es : List TlbEntry) : State :=
  let core := getCore s 0
  { s with cores := tput s.cores 0 { core with tlbs := { core.tlbs with first := tput core.tlbs.first 0 (es ++ tgetD core.tlbs.first 0 []) } } }

/-- A state with more pages: at 0x20000 host memory, at 0x30000 one of bf16 elements, at 0x40000 one of t6 elements; v3 counts lanes, and
s0 to s3 hold the addresses of the pages. -/
def mapped : State :=
  let s := withTlb (withS base [0x10000, 0x20000, 0x30000, 0x40000])
    [⟨1, 0x20000, 4096, 3 * 2 ^ 48, 0xCF, true⟩, ⟨1, 0x30000, 4096, 0x30000, 0x3CF, true⟩, ⟨1, 0x40000, 4096, 0x40000, 0x2CF, true⟩]
  { s with
    mgmt := { s.mgmt with windows := [(0, ⟨0, 4096, 1, true⟩)] }
    w := { s.w with v := s.w.v.take 3 ++ [Vec.ofFn fun l => BitVec.ofNat 32 l] ++ s.w.v.drop 4 } }

def gotOk {α : Type} (x : Got α) : Bool := match x with | .ok _ => true | _ => false
def gotWait {α : Type} (x : Got α) : Bool := match x with | .wait => true | _ => false
def okE {ε α : Type} (x : Except ε α) : Bool := match x with | .ok _ => true | _ => false

theorem wit_Loads :
    (∀ p ∈ [((0 : BitVec 4), true), (1, false)], let m : Load := ⟨none, .vec 3, .queue, .word, p.1, .default⟩;
      formOk (.ld m) = true ∧ goes (prep mapped [(m.adr, 1)] [(m.dst, sizeRegs m.size)]) = true ∧
      let s1 := got (prep mapped [(m.adr, 1)] [(m.dst, sizeRegs m.size)])
      let va := perLane (laneAddr s1 m.lit m.adr m.base 4)
      let c := laneChecks .read 4 va s1.lanes (asNoted s1 (.load va 4 m.hint) m.dst true false)
      raisedOnly c.1 c.2.2 = [] ∧ c.2.1.length = 128 ∧
      let g := (readPieces m.hint (c.2.1.map fun q => (q.1, q.2.pa, 4)) c.1 [] false).2
      if p.2 = true then gotOk g = true else gotWait g = true) ∧
    formOk (.ld64 ⟨none, .vec 4, .vec 12, .quad, 0, .default⟩) = true ∧
    (let m : Load := ⟨none, .sca 7, .sca 31, .double, 0, .default⟩;
      formOk (.ldu m) = true ∧
      let c := checkAligned .read 8 0x10000 (asNoted mapped (.uload 0x10000 8) m.dst false false)
      okE c.2 = true ∧ gotOk (readPiece c.1 .default 0x10000 8).2 = true) ∧
    (let m : Load := ⟨none, .vec 3, .vec 12, .quad, 4, .default⟩;
      formOk (.lds m) = true ∧ goes (prep mapped [(m.adr, 1)] [(m.dst, sizeRegs m.size)]) = true ∧
      ∀ l < 128, (laneAddr mapped m.lit m.adr m.base 16 l).toNat % 16 = 0) ∧ readyAt mapped 0x10000 = true ∧
    (let r := mkReq mapped (.load (List.replicate 128 0x20000) 4 .default) .queue true [];
      let s := mapped.modW fun w => { w with wake := .remote [r] };
      s.w.wake = .remote [r] ∧ remoteReady s [r] = false) := by decide +kernel

/-- One active lane. -/
def oneLane (s : State) (l : Nat) : State := s.modW fun w => { w with iss := { w.iss with lanes := 1#128 <<< l } }

theorem wit_ReadsReturnWhatIsSeen :
    region 0x10078 < 3 ∧ poisoned mapped mapped.ctx 0x10078 8 = false ∧ formOk (.prf none (.vec 3) 0 .keep) = true ∧
    (let s := oneLane mapped 127;
      goes (prep s [(.vec 3, 1)] []) = true ∧ maskLanes s.lanes = [127] ∧
      let c := translatePrefetch s s.walker s.ctx .read (laneAddr s none (.vec 3) 0 1 127).toNat
      ∀ x ∈ c.2.toOption, region x.pa < 2) ∧
    okE (translatePrefetch mapped mapped.walker 1 .read (laneAddr mapped none (.vec 3) 0 1 127).toNat).2 = true ∧
    readyAt mapped 0x10078 = true ∧ (∀ p ∈ [(0, 0x10078, 8), (1, 0x10100, 4)], region p.2.1 < 3 ∧ poisoned mapped mapped.ctx p.2.1 p.2.2 = false) ∧
    onSeq.w.isSeq = true ∧ base.mem.wf = true := by decide +kernel

/-- The checks of a store's lanes. -/
def storeChecks (s : State) (m : Store) (va : List W64) (nt : Bool) : State × List (Nat × Xlat) × List (Nat × LFault) :=
  laneChecks .write (sizeBytes m.size) va (s.lanes &&& ~~~ s.w.helpers)
    (asNoted s (.store va (sizeBytes m.size) (perLane (dataOf s.w m.src (sizeRegs m.size))) m.hint nt) .discard false false)

/-- v2 holds addresses in the page, for LD64 and ST64, with v3 zero. -/
def paired : State := mapped.modW fun w => { w with v := w.v.take 2 ++ [Vec.ofFn fun l => BitVec.ofNat 32 (0x10000 + 16 * l), Vec.zero] ++ w.v.drop 4 }

theorem wit_Stores :
    (∀ r ∈ storeRules, let s := if r.2.1 = 2 then paired else mapped;
      let m : Store := ⟨none, if r.2.1 = 2 then .vec 2 else .vec 3, .vec 12, .quad, 0, .default⟩;
      formOk (r.1 m) = true ∧ goes (prep s [(m.adr, r.2.1), (m.src, sizeRegs m.size)] []) = true ∧
      let c := storeChecks s m (perLane (r.2.2.2 s m)) r.2.2.1
      c.2.1.length = 128 ∧ c.2.2 = []) ∧
    (let m : Store := ⟨some 0x10000, .sca 31, .sca 8, .double, 5, .default⟩;
      formOk (.stu m) = true ∧ (mapped.w.sreg 5 + srcBits 64 mapped .n64 none (.sca 31) 0 + m.lit.getD 0) = 0x10000 ∧
      okE (checkAligned .write 8 0x10000 (asNoted mapped (.ustore 0x10000 8 0) .discard false false)).2 = true) ∧
    (let m : Store := ⟨none, .vec 3, .vec 12, .quad, 4, .default⟩;
      formOk (.sts m) = true ∧ goes (prep mapped [(m.adr, 1), (m.src, sizeRegs m.size)] []) = true ∧ mapped.group = some placedGroup ∧
      readyAt mapped 0x10000 = true ∧ readyAt paired 0x10000 = true ∧ placedGroup.mem.wf = true ∧ ∀ l ∈ maskLanes (mapped.lanes &&& ~~~ mapped.w.helpers), (laneAddr mapped m.lit m.adr m.base 16 l).toNat % 16 = 0) := by
  decide +kernel

theorem wit_StoresAreSeen :
    (0x10078 / 2 ^ 48 < 2 ∧ 0x10078 % 128 + [1#8, 2, 3, 4, 5, 6, 7, 8].length ≤ 128) ∧ readyAt base 0x10078 = true ∧ base.w.ntst = [] ∧ onSeq.w.isSeq = true ∧
    region (2 * 2 ^ 48) = 2 ∧ 3 ≤ region (3 * 2 ^ 48) ∧ 3 ≤ region (4 * 2 ^ 48) := by decide +kernel

/-- Operands of an atomic of each form. -/
def atoms : List Atom :=
  [Ty.i32, .f32, .n64].flatMap fun ty => [.base none (.vec 3) (.vec 12) (tyWide ty) 0 0, .ext (.vec 3) (.vec 12) .unused .discard ty 0 3 false,
    .ext (.vec 3) (.vec 12) (.vec 10) (.vec 4) ty 0 1 true, .ext (.vec 3) (.vec 12) .unused (.vec 4) ty 1 2 true]

/-- The checks of an atomic's lanes. -/
def atomChecks (s : State) (k : AOp) (x : AtomParts) : State × List (Nat × Xlat) × List (Nat × LFault) :=
  checkLanes (fun s l => checkAtomic x.n ((perLane (laneAddr s x.lit x.adr x.sb x.n)).getD l 0).toNat s) (maskLanes (writers s))
    (asNoted s (x.op k s) x.dst (x.dst != .discard) x.tr) [] []

theorem wit_Atomics :
    (∀ r ∈ atomicRules, ∃ a ∈ atoms, formOk (r.1 a) = true ∧ let x := atomParts a;
      goes (prep (oneLane mapped 3) x.srcs [(x.dst, x.n / 4)]) = true ∧
      let c := atomChecks (oneLane mapped 3) r.2.1 x
      c.2.1.length = 1 ∧ c.2.2 = [] ∧ gotOk (homePieces (c.2.1.map fun p => (p.1, p.2.pa, x.n)) c.1 false).2 = true) ∧
    (∀ a ∈ [Atom.ext (.vec 3) (.vec 12) .unused (.vec 4) .i32 1 2 true], let x := atomParts a;
      let c := atomChecks (oneLane mapped 3) .add x
      c.2.1.length = 1 ∧ c.2.2 = [] ∧ gotWait (homePieces (c.2.1.map fun p => (p.1, p.2.pa, x.n)) c.1 false).2 = true) ∧
    (0x1007C / 2 ^ 48 < 2 ∧ 0x1007C % 128 + 4 ≤ 128 ∧ mapped.w.ntst = [] ∧ readyAt mapped 0x1007C = true ∧ (oneLane mapped 3).w.iss.hold = false) := by
  decide +kernel

/-- A layout record: 100 elements from 0x30000 on, one dimension; out of bounds reads 7, or raises. -/
def layoutRec (oob : Nat) : BitVec 512 :=
  BitVec.ofNat 512 (0x30000 + 100 * 2 ^ 64 + 2 ^ 224 + 7 * 2 ^ 384 + 2 ^ 416 + oob * 2 ^ 419)

/-- The context has a table of two records, kept in the core's record cache. -/
def withRecords : State :=
  let s := { mapped with ctxs := tput mapped.ctxs 1 { placedCtx with ltbase := 0x10000, ltcount := 2 } }
  setCore s 0 { getCore s 0 with records := [(1, 0, layoutRec 0), (1, 1, layoutRec 2)] }

theorem wit_ElementAccesses :
    (let m : Load := ⟨none, .vec 3, .queue, .word, 2, .default⟩;
      formOk (.lde m) = true ∧ goes (prep mapped [(m.adr, 1)] [(m.dst, 1)]) = true ∧
      let c := checkLanes (fun s l => elemCheck s .read 0x30000 ((srcList mapped .n32 none m.adr).getD l 0).toNat none) (maskLanes mapped.lanes)
        (asNoted mapped (.loadElem 0x30000 (srcList mapped .n32 none m.adr) m.hint) m.dst true false) [] []
      raisedOnly mapped c.2.2 = [] ∧ c.2.1.length = 128 ∧ gotOk (readPieces .default (c.2.1.flatMap elemReads) c.1 [] false).2 = true) ∧
    (let h : Src := .zero;
      let s := oneLane withRecords 100;
      formOk (.ldt none h (.vec 3) .queue true) = true ∧ goes (prep s ((h, 1) :: coordSrcs s.w (.vec 3)) [(.queue, 1)]) = true ∧
      ∀ l ∈ [99, 100], let c := checkLanes (fun s l => layoutCheck .read ((srcList s .b32 none h).getD l 0) (coords s.w (.vec 3)) l s) [l] s [] []
        raisedOnly s c.2.2 = [] ∧ c.2.1.length = 1 ∧ layoutStop c.2.1 = (none, false) ∧ (layoutElems c.2.1).length = (if l = 99 then 1 else 0) ∧
        gotOk (readPieces .default ((layoutElems c.2.1).flatMap elemReads) c.1 [] false).2 = true) ∧
    (let m : Store := ⟨none, .vec 3, .vec 12, .word, 3, .default⟩;
      let s := oneLane mapped 127;
      formOk (.ste m) = true ∧ goes (prep s [(m.adr, 1), (m.src, 1)] []) = true ∧
      let c := checkLanes (fun s l => elemCheck s .write 0x40000 ((srcList s .n32 none m.adr).getD l 0).toNat none) (maskLanes (writers s)) s [] []
      c.2.2 = [] ∧ c.2.1.length = 1 ∧ gotOk (readPieces .default (c.2.1.flatMap storeReads) c.1 [] false).2 = true) ∧
    (let s := oneLane withRecords 99;
      formOk (.stt none .zero (.vec 3) (.vec 12) (.sr 3) false) = true ∧
      goes (prep s ((Src.zero, 1) :: (.vec 12, 1) :: coordSrcs s.w (.vec 3)) []) = true ∧
      let c := checkLanes (fun s l => layoutCheck .write 0 (coords s.w (.vec 3)) l s) (maskLanes (writers s)) s [] []
      c.2.2 = [] ∧ layoutStop c.2.1 = (none, false) ∧ gotOk (readPieces .default ((layoutElems c.2.1).flatMap storeReads) c.1 [] false).2 = true) ∧
    mapped.w.iss.hold = false ∧ withRecords.w.iss.hold = false := by
  decide +kernel

theorem wit_ElementsHaveTheirPlaces :
    (6, 3) ∈ elementPages ∧ (7, 0) ∈ elementPages ∧ okE (elemCheck mapped .read 0x40000 41 none).2 = true ∧ okE (elemCheck mapped .read 0x30000 0 none).2 = true ∧
    (∀ p ∈ (elemCheck mapped .write 0x40000 41 none).2.toOption, (p.fmt, p.geom) ∈ elementPages ∧ p.pa / 2 ^ 48 < 2 ∧ p.pa % 32 = 0 ∧
      p.lo + elemWidth p.fmt ≤ 256 ∧ ¬ (p.fmt ≠ 2 ∧ p.fmt ≠ 6) ∧ readyAt mapped p.pa = true) ∧ mapped.w.ntst = [] := by decide +kernel

theorem wit_LayoutHandles :
    (let s := withRecords;
      formOk (.lhinv (some 1) .lit true) = true ∧ srcBits 32 s .b32 (some 1) .lit 0 = 1 ∧ handleOk s 1 = true ∧ handleOk s 2 = false ∧
      okE (xlateLane (asNoted s (.lhinv 1) .discard false false) .read .read (recordVA s 1) 64).2 = true ∧
      formOk (.lhbind none .zero (.sca 0) false) = true ∧ gotOk (vaLoadN (performNt (asNoted s (.lhbind 0 0x10000) .discard false false) fun _ => true) 0x10000 64).2 = true ∧
      okE (xlateLane s .write .write (recordVA s 0) 64).2 = true ∧
      formOk (.lhq none (.vec 2) (.vec 3) .queue false) = true ∧ goes (prep s [(.vec 2, 1), (.vec 3, 1)] [(.queue, 1)]) = true ∧
      (∀ l ∈ [0, 127], ((getCore s s.core).records.find? fun x => x.1 == s.ctx && x.2.1 == ((srcList s .b32 none (.vec 2)).getD l 0).toNat) = some (1, 0, layoutRec 0))) ∧
    (let s := { withRecords with cores := tput withRecords.cores 0 { getCore withRecords 0 with records := [] } };
      (getCore s s.core).records.find? (fun x => x.1 == s.ctx && x.2.1 == 1) = none ∧
      let c := xlateLane s .read .read (recordVA s 1) 64
      ∀ x ∈ c.2.toOption, gotOk (readPiece (staleBytes c.1 c.1.core c.1.ctx x.pa 64) .default x.pa 64).2 = true) ∧
    withRecords.w.iss.hold = false := by decide +kernel

def pollMet (x : Poll) : Option Bool := match x with | .met _ => some true | .unmet _ => some false | _ => none

theorem wit_MemoryWaits :
    formOk (.waitmem 0 true true 5 31) = true ∧ formOk (.waitmemLit 0xFFFFFFFF false false 0 31) = true ∧
    (∀ p ∈ [((0 : BitVec 3), true), (1, false)],
      pollMet (pollMem mapped 0x10000 4 p.1 0) = some p.2) ∧
    (let c := checkAligned .read 8 0x10078 mapped;
      c.1.w.ntst = [] ∧ (∀ x ∈ c.2.toOption, x.pa / 2 ^ 48 < 2 ∧ x.pa % 128 + 8 ≤ 128 ∧ poisoned c.1 c.1.ctx x.pa 8 = false ∧
        readyAt c.1 x.pa = true) ∧ okE c.2 = true) ∧ mapped.w.iss.hold = false ∧
    (let r := mkReq base (.waitmem 0x10000 4 0 0 true) .discard false [];
      let s := base.modW fun w => { w with wake := .waitmem r 0 };
      s.w.wake = .waitmem r 0 ∧ r.op = .waitmem 0x10000 4 0 0 true ∧ 0 ≤ s.clock) := by decide +kernel

theorem wit_AccessesFault :
    (let m : Load := ⟨some 1, .vec 3, .queue, .word, 0, .default⟩;
      formOk (.ld m) = true ∧ goes (prep mapped [(m.adr, 1)] [(m.dst, 1)]) = true ∧
      let va := perLane (laneAddr mapped m.lit m.adr m.base 4)
      let c := laneChecks .read 4 va mapped.lanes (asNoted mapped (.load va 4 m.hint) m.dst true false)
      raisedOnly c.1 c.2.2 ≠ [] ∧ ∀ p ∈ raisedOnly c.1 c.2.2, p.2.cause ≠ 0) ∧
    (∀ nt ∈ [false, true], let m : Store := ⟨some 1, .vec 3, .vec 12, .word, 0, .default⟩;
      formOk (if nt then .ntst m else .st m) = true ∧ goes (prep mapped [(m.adr, 1), (m.src, 1)] []) = true ∧
      (storeChecks mapped m (perLane (laneAddr mapped m.lit m.adr m.base 4)) nt).2.2 ≠ [] ∧
      ∀ p ∈ (storeChecks mapped m (perLane (laneAddr mapped m.lit m.adr m.base 4)) nt).2.2, p.2.cause ≠ 0) ∧ mapped.w.iss.hold = false := by decide +kernel

/-! Translation. -/

/-- Page tables of context 1 from 0x100000 on that map 0x12345678000 to the page at 0x200000, read, written and run. -/
def tabled : State :=
  let va := 0x12345678000
  let e (k table : Nat) (x : Nat) (m : Mem) : Mem := mwriteLE m (table + 8 * vaIndex va k) 8 x
  let m := e 0 0x100000 0x1010001 (e 1 0x101000 0x1020001 (e 2 0x102000 0x1030001 (e 3 0x103000 0x1040001 (e 4 0x104000 0x200000F []))))
  { base with mem := m, cores := [], ctxs := tput base.ctxs 1 { placedCtx with root := 0x100000 } }

theorem wit_Translations :
    2 ^ 57 ≤ 2 ^ 57 ∧ (let s := tabled;
      let va := 0x12345678000;
      let at_ (table level : Nat) : Nat := table + 8 * (va / 2 ^ (48 - 9 * level) % 512)
      va < 2 ^ 57 ∧ (∃ c ∈ (getCtx s 1).toList, c.root = 0x100000) ∧ (getTlbs s s.walker).find (walkerGroup s.walker) 1 va = none ∧ (getTlbs s s.walker).walks = [] ∧
      0x1010001 = word64 s (at_ 0x100000 0) ∧ 0x1020001 = word64 s (at_ (entPa 0x1010001) 1) ∧ 0x1030001 = word64 s (at_ (entPa 0x1020001) 2) ∧
      0x1040001 = word64 s (at_ (entPa 0x1030001) 3) ∧ 0x200000F = word64 s (at_ (entPa 0x1040001) 4) ∧
      (∀ p ∈ [(0x1010001, 0), (0x1020001, 1), (0x1030001, 2), (0x1040001, 3)], p.1 % 2 = 1 ∧ p.1 / 2 % 2 = 0 ∧ entryReserved false p.1 p.2 = false) ∧
      0x200000F % 2 = 1 ∧ 0x200000F / 2 % 2 = 1 ∧ entryReserved false 0x200000F 4 = false ∧
      (∀ a ∈ [at_ 0x100000 0, at_ (entPa 0x1010001) 1, at_ (entPa 0x1020001) 2, at_ (entPa 0x1030001) 3, at_ (entPa 0x1040001) 4], poisoned s 1 a 8 = false) ∧
      0x200000F / 4 % 2 = 1 ∧ 0x200000F / 8 % 2 = 1 ∧
      entPa 0x200000F / 2 ^ 48 < 3) := by decide +kernel

/-! Engines, tiles, the matrix sequencer. -/

theorem wit_EngineInstructions :
    (∀ r ∈ engineTable base, ¬ ((∃ n ∈ r.2.2.toList, n ≤ (engineQueue base r.2.1).length) ∨ 65535 ≤ tgetD base.w.counts r.1.toNat 0)) ∧
    (let s := base.modW fun w => { w with counts := [(0, 65535), (3, 5)] };
      65535 ≤ tgetD s.w.counts 0 0 ∧ (scalarOf s none (.int 4)).toNat < tgetD s.w.counts 3 0 ∧ tgetD s.w.counts 4 0 ≤ (scalarOf s none .zero).toNat ∧
      (4 : BitVec 5).toNat < tgetD s.w.counts 3 0 ∧ tgetD s.w.counts 3 0 ≤ (5 : BitVec 5).toNat) ∧
    formOk (.yldc 3 (.int 4) 0xFFFFFFFC) = true ∧ formOk (.yldc 4 .zero 4) = true ∧ tabWf 0 base.w.errors = true ∧ 11 ≤ (11 : BitVec 4).toNat := by
  decide +kernel

def cmdOf (ws : List W64) : Cmd := ⟨ws, 1, none, none, 0, false, 0, 0, 0, none, 0⟩
def fillCmd : Cmd := cmdOf [2, 0, 0x10040, 8, 0, 0, 0xA1B2C3D4, 0]
def copyOp : Cmd := cmdOf [0, 0x10000, 0x10040, 32, 0, 0, 0, 0]
/-- A copy engine with a command, its translation of the page cached. -/
def engined (c : Cmd) : State :=
  let s := modCluster base 0 fun k => { k with queues := [(0, [c])] }
  { s with engines := [(.copy 0 0, ⟨[(0, [⟨1, 0x10000, 4096, 0x10000, 0xCF, true⟩])], [], []⟩)] }

/-- The status at which a command stops. -/
def stopOf (r : Run) : Option Nat := match r.2.2.2 with | some (.status k _ _) => some k | _ => none

theorem wit_EngineCommands :
    (∀ c ∈ [fillCmd, copyOp], let s := engined c;
      engineQueue s (.copy 0 0) = c :: [] ∧ engineRuns s c.ctx = true ∧ copyFieldsOk c = true ∧ (runCmd s ⟨.copy 0 0, 1⟩ c).2.2.2 = none) ∧
    (∀ p ∈ [(cmdOf [2, 0, 0x90000, 8, 0, 0, 0, 0], 2), (cmdOf [2, 1, 0x10000, 8, 0, 0, 0, 0], 1)],
      stopOf (runCmd (engined p.1) ⟨.copy 0 0, 1⟩ p.1) = some p.2) ∧
    (let s := { engined copyOp with poison := [0x10000 / 32] };
      (runCmd s ⟨.copy 0 0, 1⟩ copyOp).2.2.2 = some (.poison 0x10000)) ∧
    copyFieldsOk (cmdOf [2, 1, 0x10000, 8, 0, 0, 0, 0]) = false ∧ 5 ≤ cmdOp (cmdOf [5, 0, 0, 0, 0, 0, 0, 0]) ∧
    (let c := cmdOf [16, 99, 0, 0, 0, 0, 0, 0];
      let s := { base with portCmds := [(9, [c])] };
      engineQueue s .host = c :: [] ∧ cmdOp c = 16 ∧ engineRuns s c.ctx = true ∧ cmdPlain c = true) ∧
    (let c : Cmd := { fillCmd with issuer := some 160 };
      c.issuer = some base.w.id ∧ base.w.home.resident = true ∧ c.packet = none ∧ cmdRec c = false) ∧
    (let c := cmdOf [0x102, 0, 0x10040, 8, 0, 0, 0, 0x10060];
      let s := engined c;
      cmdRec c = true ∧ cmdWord c 7 % 32 = 0 ∧ c.issuer = none ∧ c.packet = none ∧ s.mem.wf = true ∧
      ∀ x ∈ (translate (pulse s c.ctx) (.engine (.copy 0 0)) c.ctx .write (cmdWord c 7 % 2 ^ 64) 32).2.toOption, region x.pa < 2 ∧ x.pa = 0x10060) ∧
    (let s := engined fillCmd;
      opTaken (.copy 0 0) 2 = true ∧ cmdOp fillCmd = 2 ∧ copyFieldsOk fillCmd = true ∧
      piecesOf (cmdWord fillCmd 2) (cmdWord fillCmd 3) = [(cmdWord fillCmd 2, cmdWord fillCmd 3)] ∧
      okE (translate s (.engine (.copy 0 0)) 1 .write (cmdWord fillCmd 2 % 2 ^ 64) (cmdWord fillCmd 3)).2 = true ∧ s.mem.wf = true) ∧
    (let s := engined copyOp;
      let c := copyOp;
      let g : Eng := ⟨.copy 0 0, 1⟩;
      let r := engReadAll s g .read (piecesOf (cmdWord c 1) (cmdWord c 3)) [];
      opTaken g.e 0 = true ∧ cmdOp c = 0 ∧ copyFieldsOk c = true ∧ vaMeet (cmdWord c 1) (cmdWord c 3) (cmdWord c 2) (cmdWord c 3) = false ∧
      piecesOf (cmdWord c 2) (cmdWord c 3) = [(cmdWord c 2, cmdWord c 3)] ∧ okE r.2 = true ∧
      (engReadAll (withStorage s r.1) g .read (piecesOf (cmdWord c 1) (cmdWord c 3)) []).2.toOption = r.2.toOption ∧
      (r.2.toOption.map (·.length)) = some (cmdWord c 3) ∧
      okE (translate r.1 (.engine g.e) g.ctx .write (cmdWord c 2 % 2 ^ 64) (cmdWord c 3)).2 = true) := by decide +kernel

def movedOk (m : Moved) : Option State := match m with | .ok s _ => some s | _ => none

/-- The small state with the tile store holding a byte, and with matrix operations queued. -/
def withOps (ops : List (MOp × Option W32)) : State :=
  modCluster base 0 fun k => { k with owner := some 1, ops := ops, tile := [(0, 7)], acc := [(0x4000, 1)], done := 5, batch := 6, feed := 0xFFFFFFFF }

theorem wit_TileInstructions :
    (let s := withOps [];
      (∀ t ∈ [0, 126, 128, 254], tileDenied s (t % 128) = false) ∧ tileDenied s 127 = true ∧
      tileDenied (s.modW fun w => { w with handler := true }) 127 = false ∧ tileDenied (s.modW fun w => { w with handler := true }) 126 = true ∧
      formOk (.tldv (some 126) .lit (.int 15) .queue false) = true ∧ goes (prep s [] [(.queue, 1)]) = true ∧
      formOk (.tstv true none .zero (.int 15) (.vec 15) true) = true ∧ goes (prep s [(.vec 15, 1)] []) = true ∧
      (getCluster s s.w.cluster).tile.wf = true ∧ s.w.iss.all = s.lanes ∧ s.poison = [] ∧
      marked s = true ∧ formOk (.mwait (some 5) .lit false) = true ∧ formOk (.mtest 31 none (.sca 1) false) = true ∧
      (∀ p ∈ [(5, true), (6, false), (0x80000006, true), (0x80000005, false)],
        decide (0 ≤ ((getCluster s s.w.cluster).done - BitVec.ofNat 32 p.1).toInt) = p.2)) ∧
    (∀ p ∈ [(32, true), (33, false)],
      let t : TileRun := ⟨some (BitVec.ofNat 64 p.1), 126, 254, .f16, .rne, .sca 0, .zero, .lit, true⟩;
      formOk (.tldg t) = true ∧ formOk (.tstg t) = true ∧ tileDenied mapped t.tile.toNat = false ∧ (scalarOf mapped t.lit t.b0).toNat % 32 = 0 ∧
      decide (32 * t.ofs.toNat + (scalarOf mapped t.lit t.n).toNat * 2 ≤ 8192) = p.2) ∧
    (let q := mkReq mapped (.tile false 3 0 .f32 .rne 0x30000 1 1 0 0) .discard false [];
      let s := mapped.modW fun w => { w with xfers := [q] };
      s.w.xfers = q :: [] ∧ (movedOk (moveTile s false 3 0 .f32 .rne 0x30000 1 1 0 0)).isSome = true) ∧
    (let c := elemFind mapped .read 0x30000 1 3 0 false;
      okE c.2 = true ∧
      ∀ p ∈ c.2.toOption, p.scale = none ∧ gotOk (homePiece (homeFirst c.1 p.pa 32) p.pa 32).2 = true ∧
        (getCluster c.1 c.1.w.cluster).tile.wf = true ∧ c.1.w.ntst = []) := by decide +kernel

/-- A sequencer with its cluster changed. -/
def seqWith (f : Cluster → Cluster) : State := modCluster onSeq 0 f
def runCmd0 (op va : W64) : Cmd := cmdOf [op, va, 1, 2, 3, 4, 5, 0]

theorem wit_MatrixIssue :
    (∀ n ∈ [31, 32], let s := seqWith fun k => { k with ops := List.replicate n (.zero 0, none) };
      mtxOk (some 0x123) .lit = true ∧ mtxOk none (.sca 63) = true ∧ formOk (.mdrain .bf16 none (.sca 63) (some 31)) = true ∧
      (getCluster s s.w.cluster).ops.length = n) ∧
    (∀ p ∈ [(0, 0x10000, false), (1, 0x10000, true), (0, 0x10002, true)],
      let s := seqWith fun k => { k with queues := [(8, [runCmd0 (BitVec.ofNat 64 p.1) (BitVec.ofNat 64 p.2.1)])] };
      let s := s.modW fun w => { w with live := false };
      s.w.id = 0 ∧ s.w.kind = .seq 0 ∧ s.w.live = false ∧ (∃ c ∈ [runCmd0 (BitVec.ofNat 64 p.1) (BitVec.ofNat 64 p.2.1)], engineQueue s (.matrix 0) = c :: [] ∧ engineRuns s c.ctx = true ∧
        runRefused s 0 c = p.2.2) ∧ tabWf 0 (getCluster s 0).queues = true) ∧
    (let s := onSeq.modW fun w => { w with exited := 1 };
      s.w.id = 0 ∧ s.w.kind = .seq 0 ∧ s.w.live = true ∧ s.w.exited ≠ 0 ∧ (getCluster s 0).ops = []) := by decide +kernel

theorem wit_MatrixDatapath :
    (let s := withOps [(.zero 31, some 6)];
      let k := getCluster s 0;
      k.ops = (.zero 31, some 6) :: [] ∧ k.owner = some 1 ∧ s.poison = [] ∧ k.acc.wf = true ∧ k.tile.wf = true ∧
      ¬ (k.done ≠ k.batch ∧ ∀ x ∈ k.ops, x.2 ≠ some (k.done + 1))) ∧
    (let k := getCluster (withOps [(.zero 31, some 7)]) 0;
      k.done ≠ k.batch ∧ ∀ x ∈ k.ops, x.2 ≠ some (k.done + 1)) ∧
    (let k := { Cluster.reset with lut := [(2, ⟨subsetSums ⟨List.replicate 256 3, List.replicate 8 none, 0⟩, 0, [], 0⟩)] };
      (slotOf k 2).sums = subsetSums ⟨List.replicate 256 3, List.replicate 8 none, 0⟩) ∧
    (alignSeg [Fv.num false 3 (-2) false] 8).isSome = true ∧
    ((2 ^ 24 - 1 : Int).natAbs ≤ 2 ^ 24 ∧ (2 ^ 24 - 1 + 1 : Int).natAbs ≤ 2 ^ 24 ∧ (1 : Int).natAbs ≤ 2 ^ 23) ∧
    (let k := { Cluster.reset with activity := 256 };
      k.activity ≤ k.lastAct + k.power.istep) ∧
    (let k := { Cluster.reset with activity := 257 };
      k.lastAct + k.power.istep < k.activity) ∧ base.clock < (getCluster base 0).isobarAt ∧ (getCluster base 0).badExp = [] ∧
    (∀ b ∈ [true, false], (getCluster (modCluster (withOps [(.zero 31, some 6)]) 0 fun k => { k with delayed := b }) 0).delayed = b) ∧ onSeq.w.id = 0 := by decide +kernel

/-! Work. -/

/-- A node entry: code at 0x10000, records of four words, two a warp, a timer of 100 cycles, eight registers, the parameter 9. -/
def nodeEntry : BitVec 512 := BitVec.ofNat 512 (0x10000 + 3 * 2 ^ 128 + 2 ^ 134 + 100 * 2 ^ 160 + 2 ^ 192 + 9 * 2 ^ 256)

/-- The context has node 5 in its table of six, areas, and, in the cluster, a bin with the records given. -/
def noded (recs : List BinRec) : State :=
  let area (size : Nat) : Area := ⟨0x10000, size, []⟩
  let s := withS base [5, 0xFF00, 6, 0xFF02, 0xFF01]
  modCluster { s with ctxs := tput s.ctxs 1 { placedCtx with ntcount := 6, areas := some (area 4096, area 4096, area 4096, area 0) } } 0 fun k =>
    { k with nodes := [(1, 5, nodeEntry)], bins := if recs.isEmpty then [] else [(0, ⟨1, 5, recs, some 7, 0⟩)] }

def binRec (x : W32) : BinRec := ⟨[x, 1, 2, 3], 161, 127, 0, 0, 0, 0, 0, 0, []⟩
def isEntry (d : SpawnTo) : Bool := match d with | .entry _ => true | _ => false
def isUnit (d : SpawnTo) : Bool := match d with | .unit _ => true | _ => false

theorem wit_SpawningThreads :
    (∀ p ∈ [(0, true), (1, false), (4, false)], let s := noded [];
      formOk (.spawn none (.sca (BitVec.ofNat 6 p.1)) 60) = true ∧ formOk (.spawnu (some 5) .lit 62) = true ∧
      let c := spawnNode s (s.w.sreg p.1);
      isEntry c.2 = p.2 ∧ isUnit c.2 = !p.2 ∧
      goes (prep c.1 [(.vec (if p.1 = 4 then 48 else 60), c.2.words)] []) = true ∧
      let s2 := got (prep c.1 [(.vec (if p.1 = 4 then 48 else 60), c.2.words)] []);
      maskLanes (writers s2) ≠ [] ∧ spawnRoom s2 (s.w.sreg p.1).toNat c.2 (if p.1 = 4 then [128] else maskLanes (writers s2)) = true) ∧
    (spawnRoom (noded (List.replicate 129 (binRec 0))) 5 (.entry nodeEntry) (List.range 128) = false ∧ (noded []).w.frame = 161) ∧
    (∀ r ∈ [2, 3], isEntry (spawnNode (noded []) ((noded []).w.sreg r)).2 = false ∧ ((noded []).w.sreg r).toNat < 2 ^ 16) ∧
    (getFrame (noded []) (noded []).w.frame).isSome = true ∧ (findBin (getCluster (noded []) 0) 1 5).isNone = true ∧
    (findBin (getCluster (noded [binRec 0]) 0) 1 5).isSome = true ∧ tabWf 0 (getCluster (noded [binRec 0]) 0).bins = true ∧
    (getCluster (noded []) 0).bins.length < 64 := by decide +kernel

/-- The frame of the warp changed, and its barriers. -/
def framed (f : Frame → Frame) : State := { base with frames := (base.frames.map fun p => (p.1, f p.2)) }
def barred (b : List (Nat × Barrier)) : State := withGroup fun g => { g with bars := b }

theorem wit_AwaitAndBarriers :
    (getFrame base base.w.frame).isSome = true ∧
    (∀ p ∈ [((0, []), true), ((1, []), false), ((0, [(127, 1)]), false)],
      ∀ f ∈ (getFrame (framed fun f => { f with warp := p.1.1, lanes := p.1.2 }) 161).toList,
        decide (f.warp = 0 ∧ (List.range 128).all fun l => laneCount f l == 0) = p.2) ∧
    (∀ b ∈ [([] : List (Nat × Barrier)), [(7, ⟨1, 2, [1]⟩)], [(7, ⟨1, 3, [1]⟩)], [(7, ⟨1, 2, [0]⟩)]], tabWf 0 b = true ∧ (barred b).w.home.index = 0 ∧
      (barred b).w.wake = .ready) ∧
    liveWarps base placedGroup = 1 ∧
    (let s := framed fun f => { f with exited := ~~~ 0, mask := 3, parent := [(1, (163, 9))], packet := some (4, 0) };
      let s := { s with frames := s.frames ++ [(163, freshFrame 1 [] none [] (~~~ 0))] };
      (∃ f ∈ (getFrame s 161).toList, f.mask &&& ~~~ f.done &&& ~~~ (1#128 <<< 1) ≠ 0 ∧ hasLane f.mask 1 = true ∧ hasLane f.exited 1 = true ∧
        hasLane f.done 1 = false ∧ laneCount f 1 = 0 ∧ f.warp = 0 ∧ tget f.parent 1 = some (163, 9)) ∧ (getFrame s 163).isSome = true ∧ tabWf 0 s.frames = true) ∧
    (let s := framed fun f => { f with exited := 1, mask := 1, packet := some (4, 0) };
      ∀ f ∈ (getFrame s 161).toList, f.mask &&& ~~~ f.done &&& ~~~ (1#128 <<< 0) = 0 ∧ f.packet = some (4, 0)) ∧
    (let s := base.modW fun w => { w with wake := .await 1 };
      (∃ w ∈ (getWarp s 160).toList, w.id = 160 ∧ w.wake = .await 1 ∧ w.kind = .group 1 ∧ w.live = true ∧ w.home.resident = true ∧
        stealFits s w placedGroup 11 3 = true) ∧ getGroup s 1 = some placedGroup) := by
  refine ⟨by decide +kernel, by decide +kernel, by decide +kernel, by decide +kernel, by decide +kernel, by decide +kernel, by decide +kernel⟩

/-- A launch of one workgroup of two warps in two roles, two lanes each, its fields one bit wide. -/
def oneLaunch : Launch :=
  let header := 0x10000 + 2 ^ 128 * (1 + 2 ^ 5 + 2 ^ 10 + 2 ^ 15 + 2 ^ 20 + 2 ^ 25 + 2 ^ 30 * 2) + 2 ^ 192 * (2 + 2 ^ 32 * 2 + 2 ^ 64 + 2 ^ 96 + 2 ^ 128 + 2 ^ 160) +
    2 ^ 384 * (1 + 2 ^ 5) + 2 ^ 448 * (1 + 2 ^ 5 * 8 + 2 ^ 12 + 2 ^ 32 * 0x40) + 2 ^ 640 * 9
  ⟨1, 0, 1, BitVec.ofNat 1024 header, [7, 8], 0, 2, 2, 0, 0⟩
def launched : State := { noded [] with launches := [(4, oneLaunch)] }

theorem wit_WorkIsPlaced :
    (let s := launched;
      let p : Place := ⟨2, [0, 3]⟩;
      tget s.launches 4 = some oneLaunch ∧ queuePlaces s oneLaunch.ctx oneLaunch.qi = true ∧ gangSize oneLaunch = 1 ∧ [p].length = 1 ∧
      oneLaunch.next + gangSize oneLaunch ≤ oneLaunch.total ∧ placeFits s (launchNeeds oneLaunch) p = true ∧ (roleWarps oneLaunch).length = 2 ∧
      (placeGang 4 oneLaunch s.nextKey [p] 0 s).isSome = true ∧ placeFits s (launchNeeds oneLaunch) ⟨640, [0, 3]⟩ = false ∧
      (placeGang 4 oneLaunch s.nextKey [⟨640, [0, 3]⟩] 0 s).isNone = true ∧ (∀ j < 6, 1 ≤ hdrExt oneLaunch j ∧ hdrExt oneLaunch j ≤ 2 ^ hdrWidth oneLaunch j) ∧
      1 < hdrExt oneLaunch 1 ∧ oneLaunch.params.length ≤ 64 ∧ goesFirst s (4, oneLaunch) = false ∧ queuePlaces s 2 0 = false ∧
      goesFirst { s with launches := [(4, oneLaunch), (6, { oneLaunch with prio := 1 })] } (4, oneLaunch) = true) ∧
    (let x := { oneLaunch with header := oneLaunch.header &&& ~~~ (BitVec.ofNat 1024 (31 * 2 ^ 448)) };
      (roleWarps x).length = 1 ∧ placeFits launched (launchNeeds x) ⟨0, [0]⟩ = true ∧ (takeAreas launched x.ctx (hdr x 768 32)).isSome = true) ∧
    (∀ rs ∈ [[binRec 5], [binRec 5, binRec 6], [binRec 5, binRec 6, binRec 7]], let s := noded rs;
      ∃ b ∈ (tget (getCluster s 0).bins 0).toList, b.recs = rs ∧ (∃ f ∈ b.recs.head?.toList, f.kind = 0) ∧ queuePlaces s b.ctx 0 = true ∧
        nodeInvalid nodeEntry = false ∧ placeFits s (nodeNeeds b.ctx nodeEntry) ⟨11, [2]⟩ = true ∧ clusterOfCore 11 = 0 ∧
        (takeAreas s b.ctx (nodeField nodeEntry 320 32)).isSome = true ∧ tabWf 0 (getCluster s 0).bins = true ∧
        (match (readNode s .firmware (binKey 0) 0 b.ctx b.node).2 with | .ok e => e == nodeEntry | _ => false) = true) := by decide +kernel

/-! Images, rays, streams. -/

/-- A state with bytes placed in memory, little-endian. -/
def poke (s : State) (a n x : Nat) : State := { s with mem := mwriteLE s.mem a n x }

/-- The page at 0x10000 translated for the units that are not cores. -/
def pageTlb : Tlbs := ⟨[(0, [⟨1, 0x10000, 4096, 0x10000, 0xCF, true⟩])], [], []⟩

/-- A linear image of one pixel at 0x10200, its descriptor at 0x10080, s5. -/
def imaged : State :=
  let s := poke (poke (withS mapped [0, 0, 0, 0, 0, 0x10080]) 0x10080 64 (0x10200 + 2 ^ 128 + 2 ^ 144 + 2 ^ 160 + 4 * 2 ^ 192)) 0x10200 4 0xA1B2C3D4
  { s with engines := [(.sampler 0, pageTlb), (.traverse 0, pageTlb)] }
def onePixel : ImgDesc := ⟨0x10200, 0, 1, 1, 1, 0, 4, 0⟩
def descOk (x : DescGot) : Option ImgDesc := match x with | .ok d => some d | _ => none

/-- A translation through a cached entry that permits the access changes nothing. -/
theorem translate_hit (u : State) (w : Walker) (ctx : Nat) (k : Access) (va n : Nat) (t : TlbEntry) (hv : va < 2 ^ 57)
    (hf : (getTlbs u w).find (walkerGroup w) ctx va = some t)
    (hp : permitted u ctx t.ent.toNat (if t.size ≤ 65536 then 4 else if t.size ≤ 2 ^ 21 then 3 else 2) k va (t.pa + (va - t.va)) n = none)
    (hd : t.d = true ∨ k = .fetch) :
    Machine.translate u w ctx k va n =
      (u, .ok ⟨t.pa + (va - t.va), bitsAt t.ent.toNat 8 4, bitsAt t.ent.toNat 12 2, bitsAt t.ent.toNat 14 2⟩) := by
  unfold Machine.translate
  rw [if_neg (Nat.not_le.mpr hv)]
  dsimp only
  rw [hf]
  dsimp only
  rw [hp]
  rcases hd with hd | rfl <;> simp [*]

/-- An access through a cached entry that permits it changes nothing. -/
theorem xlate_hit (u : State) (w : Walker) (k : Access) (va n : Nat) (t : TlbEntry) (hk : k = .read ∨ k = .write)
    (hv : va % 2 ^ 64 < 2 ^ 57) (hf : (getTlbs u w).find (walkerGroup w) u.ctx (va % 2 ^ 64) = some t)
    (hr : region (t.pa + (va % 2 ^ 64 - t.va)) < 3) (hw : bitsAt t.ent.toNat 2 1 = 1) (hd : t.d = true) :
    xlateBy w u k k va n =
      (u, .ok ⟨t.pa + (va % 2 ^ 64 - t.va), bitsAt t.ent.toNat 8 4, bitsAt t.ent.toNat 12 2, bitsAt t.ent.toNat 14 2⟩) := by
  unfold xlateBy
  generalize va % 2 ^ 64 = p at *
  rw [translate_hit u w u.ctx k p n t hv hf (by rcases hk with rfl | rfl <;> simp [permitted, windowOk, hr, hw]) (.inl hd)]

/-- A pixel that the sampler's cache translates, whatever else the caches do, as for the image of one pixel. -/
def canAccess (s : State) : Bool :=
  decide ((getTlbs s s.sampler).find 0 s.ctx 0x10200 = some ⟨1, 0x10000, 4096, 0x10000, 0xCF, true⟩) && !poisoned s s.ctx 0x10200 4

theorem ready_onePixel (s : State) (k : Access) (hk : k = .read ∨ k = .write) (h : canAccess s = true) : imageReady s k onePixel := by
  simp only [canAccess, Bool.and_eq_true, decide_eq_true_eq, Bool.not_eq_true'] at h
  refine ⟨rfl, .inr rfl, fun n x y hn hx hy => ⟨⟨0x10200, 0, 0, 0⟩, fun u hu => ?_, by decide, by decide, h.2⟩⟩
  have e0 : n = 0 := Nat.le_zero.mp hn
  subst e0
  have ex : x = 0 := Nat.lt_one_iff.mp hx
  have ey : y = 0 := Nat.lt_one_iff.mp hy
  subst ex ey
  have hf : (getTlbs u (.engine (.sampler s.core))).find (walkerGroup (.engine (.sampler s.core))) u.ctx (0x10200 % 2 ^ 64) =
      some ⟨1, 0x10000, 4096, 0x10000, 0xCF, true⟩ := by
    rw [hu.1]; exact h.1
  exact xlate_hit u _ k 0x10200 4 _ hk (by decide) hf (by decide) (by decide) rfl

/-- The states after the descriptor of a SAMPLE, an IMGLD and an IMGST is read. -/
def samp : Samp := ⟨none, 5, 2, false, .vec 3, .vec 3, 8, true⟩
def sampled (m : Nat) (ls : Nat → List W32) : State × DescGot :=
  getDesc (asNoted imaged (.sample m (imaged.w.sreg 5) samp.addr samp.near (srcList imaged .f32 none samp.u) (srcList imaged .f32 none samp.v)
    (ls 0) (ls 1) (ls 2) (ls 3)) (.vec samp.d) true samp.tr) (imaged.w.sreg 5)
def imgStored : State × DescGot :=
  getDesc (asNoted imaged (.imgst (imaged.w.sreg 5) 0 (srcList imaged .b32 none (.vec 0)) (srcList imaged .b32 none (.vec 0)) (srcList imaged .b32 none (.vec 3)))
    .discard false false) (imaged.w.sreg 5)

theorem wit_ImagesAreAccessed :
    (∀ r ∈ sampleForms samp (.vec 1) 12, formOk r.1 = true ∧ goes (prep imaged ([(samp.u, 1), (samp.v, 1)] ++ r.2.2.1) [(.vec samp.d, 4)]) = true ∧
      imaged.lanes ≠ 0 ∧ descOk (sampled r.2.1 (r.2.2.2 imaged)).2 = some onePixel ∧
      (getCore (sampled r.2.1 (r.2.2.2 imaged)).1 0).lines.length + 1024 ≤ l1Lines (sampled r.2.1 (r.2.2.2 imaged)).1 0) ∧
    (∀ r ∈ sampleForms samp (.vec 1) 12, imageReady (sampled r.2.1 (r.2.2.2 imaged)).1 .read onePixel) ∧
    formOk (.imgld none 5 0 (.vec 3) (.vec 3) .queue true) = true ∧ goes (prep imaged [(.vec 3, 1), (.vec 3, 1)] [(.queue, 1)]) = true ∧
    formOk (.imgst none 5 0 (.vec 0) (.vec 0) (.vec 3) true) = true ∧ goes (prep imaged [(.vec 0, 1), (.vec 0, 1), (.vec 3, 1)] []) = true ∧
    (descOk imgStored.2 = some onePixel ∧ imgStored.1.w.ntst = [] ∧ readyAt imgStored.1 0x10200 = true ∧
      (getCore imgStored.1 imgStored.1.core).lines.length + 1024 ≤ l1Lines imgStored.1 imgStored.1.core ∧ imaged.w.iss.hold = false) ∧
    imageReady imgStored.1 .write onePixel ∧
    formOk (.hitrd none (.vec 3) .queue false) = true ∧ goes (prep imaged [(.vec 3, 1)] [(.queue, 1)]) = true ∧
    readDesc (0x10200 + 2 ^ 128 + 2 ^ 144 + 2 ^ 160 + 4 * 2 ^ 192) = some onePixel ∧ (readDesc (0x10200 + 16384 * 2 ^ 128 + 2 ^ 144 + 14 * 2 ^ 164)).isSome = true ∧
    ((List.replicate 64 7).length = 64 ∧ ∀ p ∈ List.replicate 64 7, p < 2 ^ 32) ∧
    (0x20000 / 2 ^ 48 < 2 ∧ 0x20000 % 256 = 0 ∧ 0x30000 / 2 ^ 48 < 2 ∧ 0x20000 + 256 ≤ 0x30000) := by
  have ready : ∀ r ∈ sampleForms samp (.vec 1) 12, canAccess (sampled r.2.1 (r.2.2.2 imaged)).1 = true := by
    decide +kernel
  exact ⟨by decide +kernel, fun r hr => ready_onePixel _ _ (.inl rfl) (ready r hr), by decide +kernel, by decide +kernel, by decide +kernel, by decide +kernel,
    by decide +kernel, ready_onePixel _ _ (.inr rfl) (by decide +kernel), by decide +kernel⟩

/-- A scene at 0x100C0 of one brick with one solid cell, and in lane 0 a ray from v16 on that meets it; node 5 takes hit records, as far as
the context's area has room. -/
def sceneState (room : Nat) : State :=
  let s := withS (noded []) [0x100C0]
  let s := poke (poke s 0x100C0 32 (0x10102 + 0x10200 * 2 ^ 64 + 5 * 2 ^ 128)) 0x10100 128 (0x3F800000 * 2 ^ 96 + 2 ^ 512)
  let s := modCluster s 0 fun k => { k with nodes := [(1, 5, nodeEntry + BitVec.ofNat 512 (12 * 2 ^ 128))] }
  let s := modCtx s 1 fun c => { c with areas := some (⟨0, room, []⟩, ⟨0, 0, []⟩, ⟨0, 0, []⟩, ⟨0, 0, []⟩) }
  let row (x : W32) : Vec := Vec.ofFn fun l => if l = 0 then x else 0
  oneLane ({ s with engines := [(.traverse 0, pageTlb)] }.modW fun w => { w with v := w.v.take 16 ++ [0x3F000000, 0x3F000000, 0xBF800000, 0, 0, 0x3F800000, 0, 0x7F800000].map row ++ w.v.drop 24 }) 0

def traced (s : State) (va : W64) : State × TraceEnd :=
  let regs (n k : Nat) : List (List W32) := (List.range k).map fun i => (s.w.srcV (n + i)).l
  let op := MemOp.trace va true false (regs 16 8) (regs 0 4)
  let s0 := asNoted s op (.vec 48) true false
  (s0, doTrace s0 (reqOf s op (.vec 48) true false) va true false (regs 16 8) (regs 0 4))
def traceStalls (x : TraceEnd) : Option Bool := match x with
  | .stall => some true
  | .done (.ok _) => some false
  | _ => none
def sceneOk (x : SceneGot) : Bool := match x with | .ok _ => true | _ => false

theorem wit_RaysAreTraced :
    formOk (.trace none 0 true false 16 0 (some 48) false) = true ∧
    (∀ n ∈ [63, 64], let s := sceneState n;
      goes (prep s [(.vec 16, 8), (.vec 0, 4)] [(.vec 48, 5)]) = true ∧ s.w.sreg 0 = 0x100C0 ∧
      traceStalls (traced s 0x100C0).2 = some (decide (n < 64))) ∧
    (let s := oneLane (sceneState 0) 127;
      s.lanes ≠ 0 ∧ sceneOk (getScene (traced s 0x100C0).1 0x100C0).2 = true ∧ hasLane s.lanes 127 = true ∧
      rayOf ((List.range 8).map fun i => ((s.w.srcV (16 + i)).l).getD 127 0) = none) ∧
    isNan32 (([0x7F800001] : List W32).getD 0 0) = true ∧ ([0x80000000, 0] : List W32).getD 0 0 &&& 0x7FFFFFFF = 0 ∧ place32 0xBF800000 < place32 0x80000000 ∧
    (let r : Ray := ⟨[0, 0, 0], [1, 0, 0], ⟨some ⟨0, 1⟩, none, false⟩⟩;
      r.span.empty = false ∧ (boxSpan r (fun _ => .fin 0) (fun _ => .fin 0)).none? = false ∧ (boxSpan r (fun _ => .fin 1) (fun _ => .fin 2)).none? = true ∧
      (triHit r [0, -1, -1] [0, 1, -1] [0, 0, 1] 9).isSome = true) ∧
    (∀ h ∈ [(⟨⟨1, 2⟩, ⟨0, 2⟩, ⟨0, 2⟩, 3, false, 0⟩ : Hit)], 0 < h.t.d) ∧
    (findBin (getCluster (noded [binRec 0]) 0) (noded [binRec 0]).ctx 5).isSome = true := by decide +kernel

/-- A warp with three stream registers, each lane of one class; the second one void in lane 3. -/
def streamed (c0 c1 : BitVec 16) (void : Nat) : State :=
  let row (x : ZLane) (v : Nat) : List ZLane := (List.range 128).map fun l => if l = v then { x with void := true } else x
  base.modW fun w => { w with zregs := 3, lmax := 512, z := [row ⟨5, c0, false⟩ 128, row ⟨6, c1, false⟩ void, row ⟨7, 4, false⟩ 128] }

theorem wit_Streams :
    (∀ r ∈ streamGates 2 0 1 2, let s := if r.1 = .sandc 2 0 1 ∨ r.1 = .sorc 2 0 1 then streamed 1 1 128 else streamed 1 2 128;
      (∀ z ∈ [0, 1, 2], z < s.w.zregs) ∧
      ∀ l < 128, r.2.1.all (fun z => !(s.w.zlane z.toNat l).void && (streamPoison s z.toNat l).isNone) = true ∧
        r.2.2.2 (s.w.zlane 0 l) (s.w.zlane 1 l) (s.w.zlane 2 l) = none) ∧
    (∀ r ∈ streamGates 2 0 1 2, let s := if r.1 = .sandc 2 0 1 ∨ r.1 = .sorc 2 0 1 then streamed 1 2 128 else streamed 5 5 0;
      r.1 ≠ .snot 2 0 → hasLane s.lanes 0 = true ∧ ((r.2.1.any fun z => (s.w.zlane z.toNat 0).void) = true ∨
        (r.2.2.2 (s.w.zlane 0 0) (s.w.zlane 1 0) (s.w.zlane 2 0)).isSome = true)) ∧
    (let s := streamed 1 2 3;
      formOk (.sgen 2 15 true none (.vec 3)) = true ∧ formOk (.sgen 2 15 false (some 65536) .lit) = true ∧ goes (prep s [(.vec 3, 1)] []) = true ∧
      (∀ r ∈ streamReads 0 none (.vec 3) .queue true, formOk r.1 = true ∧ goes (prep s r.2.1 [(.queue, 1)]) = true) ∧ s.w.slen = 256 ∧
      formOk (.scls 1 .queue true) = true ∧ formOk (.scvtDraw 15 .queue false) = true ∧ formOk (.sseed (some 1) .lit) = true ∧
      (∀ n ∈ [0, 1, 2], decide (256 * 2 ^ n ≤ s.w.lmax) = decide (n ≠ 2)) ∧ s.w.iss.all ≠ 0 ∧
      ∀ r ∈ streamGates 7 0 1 2, (r.2.1 ++ [7]).find? (fun n : BitVec 3 => decide (s.w.zregs ≤ n.toNat)) = some 7) ∧
    isNan32 0x7FC00000 = true ∧ isNan32 0x3F800000 = false ∧ place32 0x80000000 ≤ 0 ∧ 0x3F800000 ≤ place32 0x3F800000 := by decide +kernel

theorem wit_StreamCounts : (streamed 1 2 3).w.slen = 256 ∧ (65536 % (65536 / 256) = 0 ∧ (65536 : Nat) ≤ 65536) ∧ 768 % (65536 / 256) = 0 := by decide +kernel

/-! Graphics. -/

/-- Translations of the page at 0x10000, and of a vault page at 0x50000, for the graphics units of tower 0 and cluster 0. -/
def unitsMapped (s : State) : State :=
  let t : Tlbs := ⟨[(0, [⟨1, 0x10000, 4096, 0x10000, 0xCF, true⟩, ⟨1, 0x50000, 4096, 2 ^ 48 + 0x50000, 0x40CF, true⟩])], [], []⟩
  { s with engines := [(.raster 0 0, t), (.classify 0, t), (.blend 0, t)] }

def pass8 : PassDesc := ⟨0x50000, 0x10100, 0x10140, 8, 8, 0x3F800000, 5, 0⟩

/-- An open tile at 0x50000. -/
def openTile0 : VTile := ⟨.open, 0x50000, (List.range 24).map fun j => 2 ^ 48 + 0x50000 + 32 * j, [], [], true, false, 0, 0⟩

/-- A pass of 8 by 8 pixels at 0x10080, one cluster of one triangle at 0x10180, an identity matrix, and a record that draws it, in the
queue of raster unit 0; the slots of tower 0 are full. -/
def drawing (tiles : List (Nat × VTile)) (inst : Nat) (queued : Bool) : State :=
  let s := unitsMapped (framed fun f => { f with lanes := [(127, 1)] })
  let s := poke s 0x10080 64 (0x50000 + 2 ^ 64 * 0x10100 + 2 ^ 128 * 0x10140 + 2 ^ 192 * 8 + 2 ^ 208 * 8 + 2 ^ 224 * 0x3F800000 + 2 ^ 256 * 5)
  let s := poke (poke s 0x10100 16 0x10180) 0x10180 32 0x200
  let s := poke s 0x10140 64 (0x3F800000 * (1 + 2 ^ 160 + 2 ^ 320 + 2 ^ 480))
  let s := poke s 0x101A0 52 (2 ^ 128 * 0x3FC00000 + 2 ^ 288 * 0x3FC00000 + 2 ^ 384 * 0x020100)
  let s := poke s (2 ^ 48 + 0x50000 + 512) 4 0x3F800000
  let r : Rec := ⟨[0x10080, 0, BitVec.ofNat 32 inst, 0], 1, 0, 161, 127, 0⟩
  { s with passes := [(162, ⟨1, 0x10080, tiles, false, 0, false, 0, 0, 0⟩)], towers := [(0, { getTower s 0 with vtways := 0, raster := if queued then [(0, [r])] else [] })] }

def drawnAs (x : Drawn) : Option (Bool × State) := match x with
  | .ok s => some (true, s)
  | .stall s => some (false, s)
  | _ => none
def passOk (x : State × Got (Option PassDesc)) : Option (Option PassDesc) := match x.2 with | .ok d => some d | _ => none

/-- The state with its tile open, as the record leaves it. -/
def drawn : State := ((drawnAs (drawRecord (drawing [(0, openTile0)] 0 false) 0 0 ⟨[0x10080, 0, 0, 0], 1, 0, 161, 127, 0⟩)).getD (true, base)).2
/-- The pass with its tile's and its own fields changed, and a command in an engine's queue. -/
def inPass (f : VTile → VTile) (g : Pass → Pass) (q : Nat) (cs : List Cmd) (started : Option Classify) : State :=
  let s := { drawn with passes := drawn.passes.map fun p => (p.1, g { p.2 with tiles := p.2.tiles.map fun t => (t.1, f t.2) }) }
  let s := modCluster s 0 fun k => { k with queues := [(q, cs)], classify := started }
  { s with towers := s.towers.map fun t => (t.1, { t.2 with rasterCmd := [(0, cs)] }) }
def gfxCmd (k : W64) : Cmd := cmdOf [0, 0x10080, k, 0, 0, 0, 0, 0]

theorem wit_TrianglesAreDrawn :
    (∀ p ∈ [(true, 0, true), (false, 0, false), (false, 0xFFFFFF, true)], let s := drawing (if p.1 then [(0, openTile0)] else []) p.2.1 true;
      ∃ r ∈ (tgetD (getTower s 0).raster 0 []).head?.toList, tgetD (getTower s 0).raster 0 [] = r :: [] ∧ engineRuns s r.ctx = true ∧
        ((drawnAs (drawRecord s 0 0 r)).map (·.1)) = some p.2.2 ∧ r.lane ≤ 128 ∧
        ∀ s1 ∈ (drawnAs (drawRecord s 0 0 r)).toList, ∃ f ∈ (getFrame s1.2 r.frame).toList, f.saved = false) ∧
    (∀ n ∈ [0, 1], let s := drawing [] 0 true;
      let r : Rec := ⟨[0x10080, 0, 0, 0], 1, 0, 161, 127, n⟩
      ∃ x ∈ (tget s.passes 162).toList, (passKey s r.ctx 0x10080).2 = 162 ∧ decide (({ x with closed := true }).closedAt < r.id) = (n == 1)) ∧
    (servesTile pass8 0 0 = true ∧ servesTile pass8 1 0 = false) := by decide +kernel

theorem wit_TrianglesAreDrawn_passes :
    (∀ n ∈ [0xFFFFFF, 2 ^ 24], let s := drawing [] 0 false;
      let c := passKey s 1 0x10080;
      (tget c.1.passes c.2).map (·.closed) = some false ∧ passOk (getPassDesc c.1 (.raster 0 0) 1 0x10080) = some (some pass8) ∧
        passOk (getPassDesc c.1 (.raster 0 0) 1 0x10084) = some none ∧ (BitVec.ofNat 32 n).toNat = n) ∧
    (let s := inPass id (fun x => { x with closed := true }) 4 [] none;
      (findPass s 1 0x10080).isSome = true ∧ (((findPass s 1 0x10080).bind fun p => tget s.passes p.1).map (·.closed)) = some true) := by decide +kernel

theorem wit_TrianglesAreDrawn_pixels :
    (let t := openTile0;
      (t.at_ (8 * 63) + 8 ≤ t.at_ (512 + 4 * 63) ∨ t.at_ (512 + 4 * 63) + 4 ≤ t.at_ (8 * 63)) ∧ pixelDepth t (drawing [] 0 false).mem 0 = 0x3F800000 ∧ pixelDepth t drawn.mem 0 = 0 ∧ pixelId t drawn.mem 0 = 0) ∧
    drawn.mem.wf = true ∧ ((⟨0, 0, 0, 0⟩ : Vert).x ≠ (⟨2048, 0, 0, 0⟩ : Vert).x ∧ (0 : Int) < 5 * 3) := by decide +kernel

def classifying : Classify := ⟨162, 0, 0, 0, 0⟩
def withState (x : TileState) (v : VTile) : VTile := { v with state := x }

theorem wit_TilesAreClassified_close :
    (∀ c ∈ [gfxCmd 2, gfxCmd 1], let s := inPass id id 0 [c] none;
      engineQueue s (.raster 0 0) = c :: [] ∧ engineRuns s c.ctx = true ∧ gfxFieldsOk c 2 [3, 4, 5, 6] = (c == gfxCmd 1)) ∧
    (∀ p ∈ [(TileState.open, false), (.closed, true)], let c : Cmd := { gfxCmd 1 with started := p.2 };
      let s := inPass (withState p.1) id 0 [c] none;
      let r := getPassDesc s (.raster 0 0) c.ctx (cmdWord c 1);
      engineQueue s (.raster 0 0) = c :: [] ∧ passOk r = some (some pass8) ∧ r.1.passes = s.passes ∧ engineQueue r.1 (.raster 0 0) = c :: [] ∧
        (findPass r.1 c.ctx (cmdWord c 1)).map (·.1) = some 162 ∧ rasterPending r.1 c.ctx (cmdWord c 1) 5 = false ∧
        ∃ x ∈ (tget r.1.passes 162).toList, (x.tiles.any fun t => t.2.state == .open || t.2.state == .closing) = !p.2) ∧
    (let s := { inPass id id 0 [gfxCmd 0] none with passes := [] };
      let r := getPassDesc s (.raster 0 0) 1 0x10080;
      passOk r = some (some pass8) ∧ (findPass r.1 1 0x10080).isNone = true ∧ rasterPending r.1 1 0x10080 5 = false) ∧
    (let s := inPass (withState .closing) id 0 [] none;
      (tget s.passes 162).isSome = true ∧ ∃ x ∈ (tget s.passes 162).toList, ∃ v ∈ (tget x.tiles 0).toList, v.state = .closing) := by decide +kernel

theorem wit_TilesAreClassified_classify :
    (∀ p ∈ [(none, TileState.closed), (some classifying, .closed), (some { classifying with next := 15 }, .closed)], let c := gfxCmd 0;
      let s := inPass (withState p.2) (fun x => { x with closed := true }) 4 [c] p.1;
      let r := getPassDesc s (.classify 0) c.ctx (cmdWord c 1);
      engineQueue s (.classify 0) = c :: [] ∧ engineRuns s c.ctx = true ∧ gfxFieldsOk c 1 [3, 4, 5, 6] = true ∧ passOk r = some (some pass8) ∧
        (getCluster r.1 0).classify = p.1 ∧ (findPass r.1 c.ctx (cmdWord c 1)).map (·.1) = some 162 ∧
        ∃ x ∈ (tget r.1.passes 162).toList, x.closed = true ∧
          ((x.tiles.find? fun t => (p.1.getD classifying).next / 16 ≤ t.1 && t.2.state != .classified).map fun t => (t.1, t.2.state)) = some (0, .closed)) ∧
    (let s := inPass id (fun x => { x with tiles := [] }) 4 [gfxCmd 0] (some classifying);
      ∃ x ∈ (tget s.passes 162).toList, x.tiles.isEmpty = true) ∧
    (let s := noded [];
      nodeInvalid nodeEntry = false ∧ binRoom s 0 1 5 4 1 = true ∧
        (match (readNode s (.engine (.classify 0)) (engineKey (.classify 0)) 0 1 5).2 with | .ok e => e == nodeEntry | _ => false) = true) := by decide +kernel

theorem wit_TilesAreClassified_release :
    (∀ keep ∈ [true, false], let s := inPass (withState .classified) (fun x => { x with keep := keep }) 4 [] none;
      (∃ x ∈ (tget s.passes 162).toList, x.keep = keep ∧ tabWf 0 x.tiles = true ∧ ∃ v ∈ (tget x.tiles 0).toList, v.state = .classified ∧ v.warps = 0 ∧
        v.resident = true) ∧ tileInBins s 162 0 = false) ∧
    (let v := { openTile0 with old := List.replicate 768 7 };
      drawn.mem.wf = true ∧ v.resident = true ∧ v.old.length = 768 ∧ v.sectors.length = 24 ∧
        ∀ i < 24, ∀ j < i, v.sectors.getD j 0 + 32 ≤ v.sectors.getD i 0) := by decide +kernel

/-- A target of 8 by 8 pixels at 0x10080, its image at 0x10100, whose last pixel's home is tower 2: a fragment on its way through tower 0,
and what blender 2 tracks. -/
def blending (targets : List Target) (word5 : W32) (cs : List Cmd) : State :=
  let s := poke (unitsMapped (framed fun f => { f with warp := 1 })) 0x10080 64 (0x10100 + 2 ^ 128 * 8 + 2 ^ 144 * 8)
  let r : Rec := ⟨[0x10080, 0, 0x70007, 9, 0x80FF00FF, word5, 0, 0], 1, 0, 161, 128, 0⟩
  { s with towers := [(0, { getTower s 0 with frags := if cs.isEmpty then [r] else [], blendCmd := cs }), (2, { getTower s 2 with targets := targets })] }
def target (mark : Nat) (held : List (Nat × Nat × Nat × Nat × Nat)) : Target := ⟨1, 0x10080, mark, held, 0, 0, 0⟩

def imgOk (x : State × Got (Option ImgDesc)) : Option ImgDesc := match x.2 with
  | .ok d => d
  | _ => none
def blendedOk (x : Blended) : Bool := match x with | .ok _ => true | _ => false

theorem wit_FragmentsAreTaken :
    ((getTower (blending [] 2 [gfxCmd 6]) 0).frags = []) ∧
    (∀ p ∈ [([target 5 []], true, true, false), ([target 5 (List.replicate 8 (0, 63, 9, 0, 1))], true, false, false), ([target 10 []], true, true, true),
        ((List.range 64).map fun i => { target 0 [] with va := i }, false, true, false)], let s := blending p.1 2 [];
      ∃ r ∈ (getTower s 0).frags, (getTower s 0).frags = [r] ∧ engineRuns s r.ctx = true ∧ r.lane ≤ 128 ∧
        let g := getTarget s (.blend 0) r.ctx 0x10080;
        ∃ d ∈ (imgOk g).toList, d.fmt = 0 ∧ d.meta_ = 0 ∧ inLevel d 0 7 7 = true ∧ tileOf d 0 7 7 = (0, 252) ∧
          let x := translate g.1 (.engine (.blend 0)) r.ctx .write ((d.base + 256 * 0 + 252) % 2 ^ 64) 4;
          ∃ a ∈ x.2.toOption.toList, homeTower a.pa = 2 ∧ canTrack x.1 2 r.ctx 0x10080 = p.2.1 ∧ canHold x.1 2 r.ctx 0x10080 0 63 = p.2.2.1 ∧
            decide (9 < watermark x.1 r.ctx 0x10080) = p.2.2.2 ∧ (∃ f ∈ (getFrame x.1 r.frame).toList, f.saved = false) ∧
            let rd := unitRead x.1 (.engine (.blend 0)) (engineKey (.blend 0)) r.ctx 0x101FC 4
            gotOk rd.2 = true ∧ let wr := unitWrite rd.1 (.engine (.blend 0)) (engineKey (.blend 0)) r.ctx 0x101FC [1, 2, 3, 4]
            gotOk wr.2 = true ∧ (getFrame wr.1 r.frame).isSome = true ∧ (targetOf wr.1 2 r.ctx 0x10080).status = 0) := by decide +kernel

theorem wit_FragmentsAreBlended :
    (∀ k ∈ [6, 2 ^ 32], let c := gfxCmd (BitVec.ofNat 64 k);
      let s := blending [target 5 [(0, 63, 6, 0, 1), (0, 62, 5, 0, 1)]] 2 [c];
      let g := getTarget s (.blend 0) 1 0x10080;
      engineQueue s (.blend 0) = c :: [] ∧ engineRuns s c.ctx = true ∧ gfxFieldsOk c (2 ^ 32 + 1) [3, 4, 5, 6] = true ∧
        fragmentPending s c.ctx 0x10080 = false ∧ (imgOk g).map (·.fmt) = some 0 ∧
        blendedOk (advanceAll (.blend 0) 1 0x10080 (max (cmdWord c 2) (watermark s 1 0x10080)) (imgOk g) (g.1.towers.map (·.1)) g.1) = true) ∧
    (let c := gfxCmd (2 ^ 32 + 1);
      gfxFieldsOk c (2 ^ 32 + 1) [3, 4, 5, 6] = false ∧ engineQueue (blending [] 2 [c]) (.blend 0) = c :: []) ∧
    (let s := blending [target 5 [(0, 63, 6, 0, 1)]] 2 [];
      fragmentPending s 1 0x10080 = true ∧ (∀ t ∈ [0, 1, 2, 7], ∀ h ∈ (targetOf s t 1 0x10080).held, 6 ≤ h.2.2.1) ∧ watermark s 1 0x10080 ≤ 6) := by decide +kernel

/-! Scheduling, saving, power. -/

/-- The workgroup to be pre-empted, blocked in AWAIT, with a save pool. -/
def evictable (f : Group → Group) (g : Ctx → Ctx) : State :=
  let s := modCtx (base.modW fun w => { w with wake := .await 1 }) 1 fun c => g { c with areas := some (⟨0, 0, []⟩, ⟨0, 0, []⟩, ⟨0, 0, []⟩, ⟨0x20000, 0x1000000, []⟩) }
  setGroup s 1 (f { placedGroup with preempt := some 0 })

/-- A queue of a context of the small state. -/
def withQueue (ctx qi : Nat) (q : Queue) : State := modCtx base ctx fun c => { c with queues := [(qi, q)] }
def stoppedCtx (r : Running) (f : Warp → Warp) : State := (modCtx base 1 fun c => { c with running := r }).modW f

theorem wit_WorkgroupsAreSaved :
    (let s := evictable id id;
      ∃ g ∈ (getGroup s 1).toList, g.preempt.isSome = true ∧ (∀ j ∈ gangOf s g, mayEvict s j = true) ∧ windowCommand s 1 g = false ∧
        (saveAll (gangOf s g) s).isSome = true ∧ (saveGroup s 1).isSome = true ∧ g.warps = [s.w.id] ∧ s.w.live = true) ∧
    mayEvict (setGroup base 1 { placedGroup with preempt := some 0 }) 1 = false ∧
    (let s := (evictable (fun g => { g with resident := false, preempt := none }) id).modW fun w => { w with home := { w.home with resident := false } };
      ∃ g ∈ (getGroup s 1).toList, queuePlaces s g.ctx g.qi = true ∧ (gangOf s g).length = 1 ∧ (resumeAll ((gangOf s g).zip [⟨639, [3]⟩]) s).isSome = true ∧
        (resumeGroup s 1 ⟨639, [3]⟩).isSome = true ∧ g.warps = [s.w.id] ∧ s.w.live = true ∧ s.w.handler = false ∧ g.resident = false) ∧
    (∀ c ∈ [1999999, 2000000], let s := { evictable id id with clock := c };
      ∃ g ∈ (getGroup s 1).toList, g.preempt = some 0 ∧ g.resident = true ∧ g.overdue = false ∧
        ∃ x ∈ (getCtx s g.ctx).toList, decide (s.clock < 0 + 20000 * 10 * x.trap.deadline) = (c == 1999999)) ∧
    (let s := evictable id id;
      ∃ c ∈ (getCtx s 1).toList, c.running = .running ∧ c.report = [] ∧ stopWaits s 1 c = false ∧ residentGangs s 1 = [[1]] ∧ (saveAll [1] s).isSome = true) ∧
    (let s := (evictable id id).modW fun w => { w with xfers := [mkReq base (.uload 0 4) .discard false []] };
      ∃ c ∈ (getCtx s 1).toList, c.running = .running ∧ stopWaits s 1 c = true) ∧
    (let s := evictable id fun c => { c with areas := none };
      (saveAll [1] s).isNone = true) := by decide +kernel

theorem wit_WorkgroupsAreSaved_resume :
    (let s := stoppedCtx .stopped fun w => { w with home := { w.home with ctx := 2 } };
      (getCtx s 1).map (·.running) = some .stopped ∧ ∀ w ∈ allWarps s, w.home.ctx ≠ 1) ∧
    (let s := stoppedCtx .stopped fun w => { w with handler := true };
      (allWarps s).filter (fun w => w.home.ctx == 1) = [s.w] ∧ s.w.isSeq = false ∧ s.w.live = true ∧ s.w.home.resident = true ∧ s.w.hbase = 0) ∧
    (let s := modCtx onSeq 1 fun c => { c with running := .stopped };
      (getCtx s 1).map (·.running) = some .stopped ∧ (allWarps s).filter (fun w => w.home.ctx == 1) = [s.w] ∧ s.w.isSeq = true) ∧
    (∀ c ∈ [3999999, 4000000], let s := { base with clock := c };
      decide (s.quantumAt ≤ s.clock) = (c == 4000000)) ∧
    (let s := modCtx base 1 fun c => { c with queues := [(0, { freshQueue 0 2 128 0 0 with resident := true })] };
      (getQueue (chooseResident s) 1 0).isSome = true ∧ hasPacket s 1 0 = false ∧ (∀ l ∈ s.launches, ¬ (l.2.ctx = 1 ∧ l.2.qi = 0)) ∧
        ∀ w ∈ allWarps (s.modW fun w => { w with live := false }), w.live = true → ¬ (w.home.ctx = 1 ∧ w.home.qi = 0)) ∧
    hasPacket (withQueue 1 3 { freshQueue 0x10400 2 256 0 0 with kicked := some 0, resident := true }) 1 3 = true := by decide +kernel

/-- The matrix set of cluster 0 held by a context with nothing resident there. -/
def setHeld (pool : Nat) (saved : Bool) : State :=
  let s := evictable (fun g => { g with resident := false, preempt := none, savedOn := if saved then some 0 else none }) fun c =>
    { c with areas := some (⟨0, 0, []⟩, ⟨0, 0, []⟩, ⟨0, 0, []⟩, ⟨0x20000, pool, []⟩) }
  { s with w := { s.w with live := false } }

theorem wit_MatrixSetRelease :
    (∀ p ∈ [(0, false), (0, true), (0x228FFF, true), (0x229000, true)], let s := setHeld p.1 p.2;
      let waiting := (s.groups.filter fun q => q.2.ctx == 1 && !q.2.resident && q.2.savedOn == some 0).map (·.1)
      (getCluster s 0).owner = some 1 ∧ (∀ q ∈ s.groups, ¬ (q.2.ctx = 1 ∧ q.2.resident = true ∧ q.2.matrix = true ∧ clusterOfCore q.2.core = 0)) ∧
        (tgetD (getCluster s 0).queues 8 []).isEmpty = true ∧ ((getWarp s 0).toList.all fun w => !w.live) = true ∧ (getCluster s 0).ops.isEmpty = true ∧
        ((getCtx s 1).toList.all fun c => c.queues.all fun q => !q.2.resident) = true ∧ waiting.isEmpty = !p.2 ∧
        (takeSave s 1 setImageSize).isSome = decide (0x229000 ≤ p.1)) ∧
    (getCluster State.reset 159).owner = none := by decide +kernel

/-- The small state at a time, its cluster and its lease changed. -/
def powered (clock : Nat) (f : Cluster → Cluster) (l : Lease) : State := { withCluster f with clock := clock, w := { base.w with lease := l, wake := .ready } }

theorem wit_PowerAndHeat :
    (∀ c ∈ [39, 40], let s := powered c id ⟨0, 0, false, 0⟩;
      decide (s.clock < (getCluster s 0).windowAt) = (c == 39)) ∧
    (∀ c ∈ [8191, 8192], let s := powered c id ⟨0, 0, false, 0⟩;
      decide (s.clock < (getCluster s 0).refillAt) = (c == 8191) ∧ (getCluster s 0).power.refill ≠ 0) ∧
    (∀ n ∈ [31, 32], let s := powered 0 (fun k => { k with islands := [(0, ⟨false, n, false⟩)] }) ⟨3, 1, false, 0⟩;
      let k := getCluster s 0;
      k.power.ntwin ≠ 0 ∧ decide (k.power.ntwin ≤ (island k 0).windows) = (n == 32) ∧ (island k 0).near = false ∧ (islandWarps s 0 0).length = 1) ∧
    (let s := powered 0 (fun k => { k with islands := [(0, ⟨true, 40, false⟩)] }) ⟨3, 1, true, 0⟩;
      (island (getCluster s 0) 0).near = true ∧ (∀ w ∈ islandWarps (s.modW fun w => { w with wake := .remote [] }) 0 0, memoryBlocked w = true) ∧
        ∃ w ∈ islandWarps s 0 0, memoryBlocked w = false ∧ w.wake = .ready ∧ w.busy ≤ s.clock) ∧
    (∀ l ∈ [(⟨0, 0, false, 0⟩ : Lease), ⟨1, 1, false, 1023⟩, ⟨1, 1, false, 1024⟩, ⟨2, 1, false, 1024⟩], let x := (powered 0 id l).w.lease;
      (x.rem = 0 ∨ x.ran < 1024) ∨ (unitsLeft x = 0 ∧ 1024 ≤ x.ran) ∨ (unitsLeft x ≠ 0 ∧ 1024 ≤ x.ran)) ∧
    (getTower base 7).thermal = 0 ∧ (7 < 8) ∧ (2 : BitVec 2) ≠ 3 ∧
    (∀ c ∈ [167772159, 167772160], let s := { modCtx base 1 fun x => { x with pulse := 0, idleAt := none, queues := [(0, { freshQueue 0 2 128 0 0 with resident := true })] } with clock := c };
      ∃ x ∈ (getCtx s 1).toList, x.running ≠ .killed ∧ x.idleAt = none ∧ (x.queues.any fun q => q.2.resident) = true ∧
        x.dogOld = none ∧ decide (x.pulse + watchWindow s x ≤ s.clock) = (c == 167772160)) ∧
    populated (siteAddr (.memory 0x10020) / 32 * 32) 32 = true ∧ siteAddr (.memory 0x10020) / 32 ∉ base.poison ∧
    populated (siteAddr (.tile 200 0) / 32 * 32) 32 = false ∧ (getCluster base 0).icache.length < 2048 := by decide +kernel

/-! Packets and the host. -/

/-- A packet of a type with a body of 64 bytes and its CRC, which waits for no other. -/
def packetBytes (ty body crc : Nat) : Nat := ty + 2 ^ 16 + 2 ^ 192 * crc + 2 ^ 512 * body

/-- A session with the host; context 1, or the device's own, has page tables that map the page at 0x10000, and queue `qi` with the packet. -/
def queued (ctx qi ty body crc : Nat) (f : Queue → Queue) : State :=
  let e (table i x : Nat) (m : Mem) : Mem := mwriteLE m (table + 8 * i) 8 x
  let m := e 0x100000 0 0x1010001 (e 0x101000 0 0x1020001 (e 0x102000 0 0x1030001 (e 0x103000 0 0x1040001 (e 0x104000 16 0x1000CF base.mem))))
  let q := { freshQueue 0x10400 2 256 0 0 with kicked := some 0, resident := true }
  { base with
    mem := mwriteLE m 0x10400 128 (packetBytes ty body crc)
    ctxs := tput base.ctxs ctx { placedCtx with root := 0x100000, queues := [(qi, f q)] }
    link := { base.link with open_ := true }
    mgmt := { base.mgmt with state := .ready } }

def headOf (s : State) (ctx qi : Nat) : Option Packet := match (packetHead s ctx qi).2 with | .ready p => some p | _ => none
def headIs (s : State) (ctx qi : Nat) : Nat := match (packetHead s ctx qi).2 with
  | .mismatch => 1
  | .refused => 2
  | .fault _ _ => 3
  | _ => 0

theorem packetIs_head {s : State} {ctx qi : Nat} {p : Packet} (h : headOf s ctx qi = some p) :
    packetIs s ctx qi p (modQueue (packetHead s ctx qi).1 ctx qi fun q => { q with prio := if p.fresh then p.prio else q.prio }) := by
  refine ⟨(packetHead s ctx qi).1, ?_, rfl⟩
  unfold headOf at h
  cases e : (packetHead s ctx qi).2 <;> rw [e] at h <;> simp_all [Prod.ext_iff]

/-- A launch header in memory at 0x10200, as `oneLaunch` has it, with two parameters at 0x10300. -/
def launching : State :=
  let s := queued 1 3 1 0x10200 52023994 id
  let s := modCtx s 1 fun c => { c with areas := some (⟨0, 0, []⟩, ⟨0x10000, 4096, []⟩, ⟨0x10000, 4096, []⟩, ⟨0, 0, []⟩) }
  poke (poke s 0x10200 128 (oneLaunch.header.toNat + 2 * 2 ^ 672 + 0x10300 * 2 ^ 704)) 0x10300 16 (7 + 2 ^ 64 * 8)

theorem wit_Packets_ready :
    (∀ x ∈ [(1, 0x10200, 52023994), (2, 2 ^ 64 * 0x10080, 1683790880), (3, 0x10084 + 2 ^ 64 * 5, 4141025176), (4, 0x10088 + 2 ^ 129, 1504465808),
        (5, 2 + 2 ^ 8 * 4 + 2 ^ 32 + 2 ^ 64 * 0x10000, 2361475943)],
      ∃ p ∈ (headOf (queued 1 3 x.1 x.2.1 x.2.2 id) 1 3).toList, p.ty = x.1 ∧ p.fresh = true ∧ p.at_ 0 64 = x.2.1 % 2 ^ 64) ∧
    (∃ p ∈ (headOf (queued 1 3 3 0x10084 0 fun q => { q with started := some (0, 3), body := leBytes 64 0x10084 }) 1 3).toList, p.ty = 3 ∧ p.fresh = false) ∧
    (∀ x ∈ [(1, 7), (1, 0), (0, 0)], let s := queued 1 3 2 0 63499111 fun q => { q with expect := BitVec.ofNat 32 x.1, kicked := some 7, slot := if x.2 = 0 then 128 else 256 };
      headIs s 1 3 = 1 ∨ headIs s 1 3 = 0) ∧
    headIs (queued 1 3 7 0 63499111 id) 1 3 = 2 ∧ headIs (queued 1 3 2 0 63499111 fun q => { q with slot := 64 }) 1 3 = 2 ∧
    headIs (queued 1 3 2 0 63499111 fun q => { q with ring := 0x90000 }) 1 3 = 3 ∧
    (getQueue (queued 1 3 2 0 0 id) 1 3).isSome = true ∧
    (∀ c ∈ (getCtx (queued 1 3 2 0 0 id) 1).toList, ∀ q ∈ c.queues, q.2.started = none ∧ mayStart (queued 1 3 2 0 0 id) 1 q.2 = true) ∧
    awaits (queued 1 3 2 0 0 id) 1 (2 ^ 14 + 2 ^ 64 * 3) = some false ∧ awaits (queued 1 3 2 0 0 id) 1 (2 ^ 14 + 2 ^ 64 * 4) = none := by decide +kernel

def unitOk (x : State × Got (List Byte)) : Option (List Byte) := match x.2 with | .ok bs => some bs | _ => none
def unitPa (x : State × Got Nat) : Option Nat := match x.2 with | .ok a => some a | _ => none
def entryIs (x : EntryAt) : Option Nat := match x with | .at_ a => some a | _ => none
def launchRead (s : State) : Option Launch := (unitOk (unitRead s .firmware (queueKey 1 3) 1 0x10200 128)).map fun hd =>
  ⟨1, 3, 0, BitVec.ofNat 1024 (leNat hd), [], 0, 0, 0, 0, 0⟩

/-- A page of 4 KiB of the device's own memory moves, and memory keeps its form. -/
theorem movePage_ok {s : State} (who ctx v src dst : Nat) (h : s.passes = []) (hw : s.mem.wf = true) (hs : region src < 3) (hd : region dst < 3) :
    ∃ t, movePage s who ctx v src dst 4096 = (t, .ok ()) ∧ t.mem.wf = true := by
  have hl : (if region dst < 2 then heldTiles s ctx v 4096 else []) = [] := by simp [heldTiles, h]
  have hs' : ¬ 3 ≤ region src := by omega
  have hd' : ¬ 3 ≤ region dst := by omega
  have hn : (4096 : Nat) / 4096 = 0 + 1 := rfl
  simp only [movePage, hl, liftTiles, hn, copyPage, hs', hd', if_false, dropTiles, hs, if_true]
  refine ⟨_, rfl, ?_⟩
  exact physWrite_memOk _ _ _ _ (by rw [touch_mem]; exact hw)

theorem wit_Packets_effects :
    (∃ x ∈ (launchRead launching).toList, launchRefused launching x = false ∧ hdr x 672 6 = 2 ∧
      (unitOk (unitRead launching .firmware (queueKey 1 3) 1 (hdr x 704 64) 16)).isSome = true) ∧
    (∃ x ∈ (launchRead (queued 1 3 1 0x10200 52023994 id)).toList, launchRefused (queued 1 3 1 0x10200 52023994 id) x = true) ∧
    (let s := queued 1 3 3 0x10084 0 id;
      (engineQueue s (.dma 3)).length < 256 ∧ (unitOk (unitRead s .firmware (queueKey 1 3) 1 0x10084 4)) = some [0, 0, 0, 0] ∧
      unitPa (eventWord s 1 .atomic 0x10088 8) = some 0x10088 ∧
      entryIs (Machine.entryAt s 1 0x10000 4 0x100000) = some 0x104080 ∧ entryIs (Machine.entryAt s 1 0x200000000000 4 0x100000) = none ∧
      gotOk (newEntry s 1 3 0x10080 0).2 = true ∧ s.mem.wf = true ∧
      (newEntry s 1 3 0x10080 0).1.mem.wf = true ∧ entryIs (Machine.entryAt s 1 (2 ^ 57) 4 0x100000) = none ∧
      mapWaits s 1 = false ∧ mapWaits { s with remotes := [⟨queueKey 1 3, 4 * 2 ^ 48, 4, some [1, 2, 3, 4], none, none⟩] } 1 = true ∧ s.passes = []) ∧
    (let s := poke (queued 1 3 3 0x10084 0 id) 0x100C0 8 0x5000CF;
      let r := newEntry (touch s 0 0x104080 8 false) 1 3 0x100C0 0;
      validLeaf (mreadLE s.mem 0x104080 8) 4 = true ∧ gotOk r.2 = true ∧ validLeaf 0x5000CF 4 = true ∧
        let v := settlePage (dropTranslations r.1 1 0x10000 4096) 0x10000 4096
        v.passes = [] ∧ v.mem.wf = true) ∧
    mapFieldsOk ⟨5, 0, 0, leBytes 64 (2 + 2 ^ 8 * 4 + 2 ^ 32 + 2 ^ 64 * 0x10000 + 2 ^ 128 * 0x10080), true⟩ = true ∧
    mapFieldsOk ⟨5, 0, 0, leBytes 64 (2 + 2 ^ 8 * 5 + 2 ^ 32), true⟩ = false := by decide +kernel

/-- A CONFIG item with fields of its first word, and VALUE. -/
def itemBody (item fields value : Nat) : Nat := item + fields + 2 ^ 64 * value

theorem wit_ConfigItems :
    (∀ x ∈ [(1, 2 ^ 32, 0x200000, 64, 1512506351), (9, 2 ^ 16 + 2 ^ 32 * 159, 0x0800100028001800 / 4, 64, 453813586)],
      ∃ p ∈ (headOf (queued 0 0 6 (itemBody x.1 x.2.1 x.2.2.1) x.2.2.2.2 id) 0 0).toList, p = ⟨6, 0, 0, leBytes 64 (itemBody x.1 x.2.1 x.2.2.1), true⟩) ∧
    (∀ x ∈ [(8, 2 ^ 16, 0x8000 + 2 ^ 64 * 255 + 2 ^ 72 * 3, 128, 978898541)],
      ∃ p ∈ (headOf (queued 1 3 6 (itemBody x.1 x.2.1 x.2.2.1) x.2.2.2.2 id) 1 3).toList, p = ⟨6, 0, 0, leBytes 64 (itemBody x.1 x.2.1 x.2.2.1), true⟩) ∧
    (∀ x ∈ [(1, 2 ^ 32, 0x200000, 64), (2, 2 ^ 32, 0, 0), (3, 2 ^ 32 * 254, 0x10000 + 2 ^ 64 * 65536 + 2 ^ 96 * 4096, 384),
        (4, 2 ^ 24 * 2 + 2 ^ 32 * 7, 0, 288), (5, 0, 0x10000 + 2 ^ 64 * 2 ^ 20, 96), (6, 0, 0x10040 + 2 ^ 64 * 9, 96), (7, 0, 1, 384),
        (8, 2 ^ 16, 0x8000 + 2 ^ 64 * 255 + 2 ^ 72 * 3, 128), (9, 2 ^ 16 + 2 ^ 32 * 159, 0x0800100028001800 / 4, 64), (9, 2 ^ 24 * 2 + 2 ^ 32 * 159, 0, 64),
        (10, 2 ^ 32 * 159, 2 ^ 440, 448), (11, 2 ^ 16, 1 + 2 ^ 8 * 34, 32), (11, 2 ^ 24 * 2, 0, 32), (12, 0, 0x10080 + 2 ^ 64 * 0x100C0, 128),
        (13, 2 ^ 32 * 4095, 1, 320), (14, 0, 0x10080, 64)],
      let p : Packet := ⟨6, 0, 0, leBytes 64 (itemBody x.1 x.2.1 x.2.2.1), true⟩;
      p.item = x.1 ∧ p.at_ 17 7 = 0 ∧ p.value x.2.2.2 (448 - x.2.2.2) = 0) ∧
    (let s := queued 0 0 6 (itemBody 1 0 0x200000) 0 id;
      getCtx s 1 ≠ none ∧ getCtx s 2 = none ∧ populated 0x200000 4096 = true ∧ (getCtx s 0).isSome = true) ∧
    (∀ n ∈ [0, 1], let s := modCtx (queued 0 0 6 0 0 id) 1 fun c => { c with queues := [(3, { freshQueue 0x10000 2 128 0 0 with kicked := if n = 0 then none else some 0 })] };
      (getQueue s 1 3).isSome = true ∧ (getQueue s 1 4).isNone = true ∧ ∀ q ∈ (getQueue s 1 3).toList, q.announced = n ∧ q.started = none) ∧
    (isPow2 65536 = true ∧ isPow2 4096 = true ∧ isPow2 3 = false) ∧ (powerProfile 2).isSome = true ∧ (powerProfile 3).isNone = true ∧
    (powerWord (0x1800 + 2 ^ 16 * 0x2800 + 2 ^ 32 * 2048 + 2 ^ 54)).isSome = true ∧ (powerWord 0).isNone = true := by decide +kernel

/-! The host link. -/

/-- A message with its LEN and its CRC. -/
def sealed (m : Msg) : Msg :=
  let m := { m with len := BitVec.ofNat 32 m.payload.length }
  { m with crc := BitVec.ofNat 32 (msgCrc m) }

def plainMsg (ty : BitVec 8) (resp : Bool) (ctx : Nat) (seq : W32) (addr : W64) (arg : Nat) (payload : List Byte) : Msg :=
  sealed { mkMsg ty resp ctx 3 addr arg payload with seq := seq }

/-- A session whose next expected SEQ is 7, a message of the device unacknowledged. -/
def linked (ctx : Nat) : State :=
  let s := queued ctx 3 2 0 0 id
  { s with clock := 500, link := { s.link with expect := 7, next := 9, ackDue := some 400, unacked := [⟨plainMsg 4 false 1 8 0 0 [], 500, 200000, 15⟩] } }

def inSeq (s : State) (ty : Nat) (m : Msg) : Bool :=
  m.ty.toNat == ty && msgFieldsOk m && m.crc.toNat == msgCrc m && s.link.open_ && !s.link.lost && !s.link.asked && s.mgmt.state != .booting && m.seq == s.link.expect
theorem inSeq_iff {s : State} {ty : Nat} {m : Msg} (h : inSeq s ty m = true) : inSequence s ty m := by
  simp only [inSeq, Bool.and_eq_true, beq_iff_eq, bne_iff_ne, Bool.not_eq_true'] at h
  obtain ⟨⟨⟨⟨⟨⟨⟨a, b⟩, c⟩, d⟩, e⟩, k⟩, f⟩, g⟩ := h
  exact ⟨⟨a, b, c, d, e, k, f⟩, g⟩

theorem wit_HostMessages_sequence :
    (∀ ty ∈ [1, 2, 3, 4], ∀ seq ∈ [6, 7, 8], let m := plainMsg (BitVec.ofNat 8 ty) false 1 (BitVec.ofNat 32 seq) 0x10080 (if ty = 2 then 8 else 0) [];
      inSeq { linked 1 with link := { (linked 1).link with expect := BitVec.ofNat 32 seq } } ty m = true ∧ inSeq (linked 1) ty m = (seq == 7)) ∧
    ((linked 1).link.open_ = true ∧ (linked 1).link.lost = false ∧ State.reset.link.open_ = false) ∧
    (∀ x ∈ [(1, true, 1, 0, [1]), (1, false, 2, 0x10080, [1]), (1, false, 1, 0x10080, [1, 2]), (1, false, 0xFFF, 0x218, [1]), (1, false, 0xFFF, 0x400, [1]),
        (2, true, 0, 64, [5]), (2, false, 0xFFF, 0x210, []), (2, false, 2, 8, []), (2, false, 1, 0x10080, []), (3, false, 1, 0, []), (3, false, 2, 0, []),
        (3, true, 1, 0, []), (4, false, 1, 0, [])],
      inSeq (linked 1) x.1 (plainMsg (BitVec.ofNat 8 x.1) x.2.1 x.2.2.1 7 (BitVec.ofNat 64 x.2.2.2.1) (if x.1 = 2 ∧ x.2.1 = false then 8 else 0) (x.2.2.2.2.map (BitVec.ofNat 8))) = true) := by
  decide +kernel

def unitFault (x : State × Got Unit) : Bool := match x.2 with | .fault _ => true | _ => false

theorem wit_HostMessages :
    ((getCtx (linked 1) 2).isNone = true ∧ (getCtx (linked 1) 1).isSome = true) ∧
    (let m := plainMsg 1 false 1 7 0x10080 0 [1, 2];
      gotOk (unitWrite (acceptMsg (linked 1) m) .firmware (2 ^ 42) 1 0x10080 m.payload).2 = true ∧
      unitFault (unitWrite (acceptMsg (linked 1) m) .firmware (2 ^ 42) 1 0x900000 m.payload) = true) ∧
    (toWindows (plainMsg 1 false 0xFFF 7 0x3FF 0 [1, 2]) = true ∧ toWindows (plainMsg 1 false 0xFFF 7 0xC00 0 [1, 2]) = false ∧
      toImage (plainMsg 1 false 0xFFF 7 0x21F 0 [1]) = true ∧ toImage (plainMsg 1 false 0xFFF 7 0x220 0 [1]) = false) ∧
    (let m := plainMsg 2 false 1 7 0x10080 8 [];
      let s := acceptMsg (linked 1) m;
      unitOk (unitRead s .firmware (readKey m) 1 0x10080 8) = some [0, 0, 0, 0, 0, 0, 0, 0] ∧ (unitRead s .firmware (readKey m) 1 0x10080 8).1.link = s.link ∧
      s.link.reads = []) ∧
    (let m := plainMsg 2 false 1 7 0x90000 8 [];
      let s := acceptMsg (linked 1) m;
      (unitOk (unitRead s .firmware (readKey m) 1 0x90000 8)).isNone = true ∧ (unitRead s .firmware (readKey m) 1 0x90000 8).1.link = s.link) ∧
    (let m := plainMsg 2 true 0 7 64 0 [5];
      ∀ r ∈ [(⟨3, 3 * 2 ^ 48 + 64, 1, none, some 1, none⟩ : Remote)], r.seq.isSome = true ∧ r.data = none ∧ r.pa % 2 ^ 48 = m.addr.toNat ∧ r.size = m.payload.length) ∧
    (∃ q ∈ (getQueue (linked 1) 1 3).toList, q.removing = false ∧ getQueue (linked 1) 2 3 = none) := by decide +kernel

theorem wit_HostSessions :
    (∀ r ∈ [true, false], let m := plainMsg 5 r 1 0xFFFFFFFF 0 0 [];
      m.ty = 5 ∧ msgFieldsOk m = true ∧ m.crc.toNat = msgCrc m) ∧
    inSeq (linked 1) 5 (plainMsg 5 true 1 7 0 0 []) = true ∧
    (∀ b ∈ [true, false], let s := { linked 1 with link := { (linked 1).link with asked := b } };
      s.link.asked = b ∧ s.link.lost = false ∧ s.link.open_ = true) ∧
    (linked 1).mgmt.state ≠ .booting ∧ (linked 1).remotes = [] ∧ (linked 1).link.reads = [] ∧ State.reset.mgmt.state = .booting ∧ State.reset.link.open_ = false ∧
    (let s := { linked 1 with remotes := [⟨3, 3 * 2 ^ 48 + 64, 4, none, some 1, none⟩] };
      ∃ r ∈ s.remotes, s.remotes = [r] ∧ r.seq.isSome = true ∧ r.data = none) ∧
    (∃ c ∈ (getCtx (linked 1) 1).toList, (c.queues[0]?.map (·.1)) = some 3 ∧ c.queues.length < 2 ^ 32) ∧
    (let m := sealed (mkMsg 0 false 0 0 0 0 []); m.ty = 0 ∧ msgFieldsOk m = true ∧ m.crc.toNat = msgCrc m) ∧
    ((linked 1).link.ackDue = some 400 ∧ (linked 1).clock = 500 ∧ State.reset.link.ackDue = none) ∧
    (∀ n ∈ [14, 15, 16], let s := { linked 1 with link := { (linked 1).link with unacked := [⟨plainMsg 4 false 1 8 0 0 [], 500, 200000, n⟩] } };
      let due := s.link.unacked.filter fun x => x.at_ ≤ s.clock;
      s.link.lost = false ∧ due.isEmpty = false ∧ (due.all fun x => x.tries < 16) = decide (n < 16)) := by decide +kernel

/-- The link's state with a standby image ready, a peer set, a packet perhaps started, and an access to region 4 under way. -/
def withPeer (joined : Bool) (started : Bool) (w : Option (List Byte)) : State :=
  let s := queued 1 3 2 0 0 fun q => { q with started := if started then some (0, 3) else none }
  { s with
    mgmt := { s.mgmt with standby := some 0x10000 }
    peers := [(5, ⟨0, 0, 0, 0, joined⟩)]
    remotes := [⟨3, 3 * 2 ^ 48 + 64, 4, none, none, none⟩, ⟨4, 4 * 2 ^ 48 + 5 * 2 ^ 36, 4, w, none, none⟩] }

theorem wit_DeviceLife :
    (withPeer false false none).mgmt.state ≠ .booting ∧ (withPeer false false none).link.reads = [] ∧
    (∀ o ∈ [true, false], let s := { linked 1 with link := { (linked 1).link with open_ := o } };
      s.mgmt.state ≠ .booting ∧ s.link.open_ = o ∧ s.remotes = []) ∧ (withPeer false false none).mgmt.standby.isSome = true ∧
    (∀ b ∈ [true, false], let s := withPeer false b none;
      (s.ctxs.all fun c => c.2.queues.all fun q => q.2.started.isNone) = !b) ∧
    (tget (withPeer false false none).peers 5).isSome = true ∧ tget (withPeer false false none).peers 4 = none ∧
    (∀ j ∈ [true, false], ∀ w ∈ [none, some [1, 2, 3, 4]], let s := withPeer j false (w.map fun l => l.map (BitVec.ofNat 8));
      ∃ r ∈ (s.remotes.drop 1).head?.toList, s.remotes = s.remotes.take 1 ++ r :: [] ∧ ((s.remotes.take 1).all fun x => x.who != 4) = true ∧ r.who = 4 ∧
        region r.pa = 4 ∧ r.data = none ∧ ((tget s.peers (bitsAt r.pa 36 12)).map (·.joined)).getD false = j ∧
        r.write.isSome = w.isSome ∧ [0, 0, 0, (0 : Byte)].length = r.size) := by decide +kernel

/-! The whole machine. -/

/-- A fetch through a cached entry that permits it changes nothing. -/
theorem fetch_hit (u : State) (w : Walker) (ctx va n : Nat) (t : TlbEntry) (hv : va < 2 ^ 57)
    (hf : (getTlbs u w).find (walkerGroup w) ctx va = some t) (hr : region (t.pa + (va - t.va)) < 3) (hw : bitsAt t.ent.toNat 3 1 = 1) :
    Machine.translate u w ctx .fetch va n =
      (u, .ok ⟨t.pa + (va - t.va), bitsAt t.ent.toNat 8 4, bitsAt t.ent.toNat 12 2, bitsAt t.ent.toNat 14 2⟩) :=
  translate_hit u w ctx .fetch va n t hv hf (by simp [permitted, windowOk, hr, hw]) (.inr rfl)

def fetched (s : State) : Option (State × List Fetched) := match fetchAll s.w.toFetch s [] with | .ok s fs => some (s, fs) | _ => none
def issued (s : State) : List (Fetched × Instr) := match fetched s with
  | some (s, fs) => (match decoded s fs with | .ok is => is | .error _ => [])
  | none => []
def refusedAs (s : State) : Option Bool := match fetched s with
  | some (s, r :: _) => (match decode s.w.fetcher r.words with | .ok _ => none | .error e => some (e == .illegalInstruction))
  | _ => none

/-- The warp about to fetch a word. -/
def fetching (w0 : Nat) : State := focus { State.reset.withFetchWord 32 w0 with agenda := [] } 160

/-- The same with lanes 64 to 127 in plane 1, whose base is plane 0's. -/
def twoPlanes (w0 : Nat) : State := (fetching w0).modW fun w => { w with planes := (List.range 128).map fun l => if l < 64 then 0 else 1 }

theorem wit_StepIssuesTheFetchedInstruction_issues :
    (∀ w0 ∈ [0, 0x10], let s := fetching w0;
      mayTake s s.w = true ∧ mayIssue s s.w = true ∧ s.w.wake = .ready ∧ gotOk (beforeIssue s).2 = true ∧ (beforeIssue s).1.w.kind ≠ .none ∧
        (streamRange (beforeIssue s).1 (issued (beforeIssue s).1)).isNone = true ∧ ∃ p ∈ (fetched (beforeIssue s).1).toList, missing p.1 p.2 = [] ∧ p.2.length = 1 ∧
        (issued (beforeIssue s).1).all (fun x => mayPass p.1.w x.1.w0 x.2) = true ∧ (issued (beforeIssue s).1).length = 1) ∧
    (∀ w0 ∈ [0x110], let s := twoPlanes w0;
      mayTake s s.w = true ∧ gotOk (beforeIssue s).2 = true ∧ (streamRange (beforeIssue s).1 (issued (beforeIssue s).1)).isNone = true ∧ ∃ p ∈ (fetched (beforeIssue s).1).toList, missing p.1 p.2 = [] ∧ p.2.length = 2 ∧
        (issued (beforeIssue s).1).all (fun x => onceOnly x.1.w0 && mayPass p.1.w x.1.w0 x.2) = true ∧ (issued (beforeIssue s).1).length = 2) ∧
    (∀ x ∈ [(0x3C, true), (0x20000000, false)], let s := fetching x.1;
      gotOk (beforeIssue s).2 = true ∧ refusedAs (beforeIssue s).1 = some x.2) ∧
    (let s := (beforeIssue (twoPlanes 0x10)).1;
      let p := startPlanes (idleIssue s) (~~~ 0) false (issued s);
      (issued s).length = 2 ∧ p.hard.isEmpty = true ∧ p.soft.isEmpty = true ∧ p.stuck.isNone = true) := by decide +kernel

/-- With no line in the only core that anything has touched, nothing goes home before a read there. -/
theorem homeFirst_empty (s : State) (c : Core) (pa n : Nat) (h0 : s.w.ntst = []) (h1 : s.cores = [(s.core, c)]) (h2 : c.lines = []) : homeFirst s pa n = s := by
  have hc : getCore s s.core = c := by simp [getCore, tgetD, tget, h1]
  have same (t : State) (h : t = s) (f : List Line → List Line) (hf : f [] = []) :
      setCore t s.core { getCore t s.core with lines := f (getCore t s.core).lines } = s := by
    subst h
    have e : ({ c with lines := f c.lines } : Core) = c := by cases c; simp_all
    simp only [hc, e, setCore, h1, tput]
    simp [← h1]
  have wb (a : Nat) : writeBackPa s s.core s.ctx a = s := by
    rw [writeBackPa, writeBackIf, hc, h2]
    exact same s rfl _ rfl
  have fold (xs : List Nat) : xs.foldl (fun s i => writeBackPa s s.core s.ctx (pa / 128 * 128 + 128 * i)) s = s := by
    induction xs with
    | nil => rfl
    | cons x xs ih => rw [List.foldl_cons, wb]; exact ih
  simp only [homeFirst, performNtRange, h0, List.isEmpty_nil, if_true, fold]
  split
  · exact same s rfl _ rfl
  · rfl

/-- The state after the first fetch from 0x10000. -/
def touched : State := touch (fetching 0) (accessCls (fetching 0) (fetching 0).walker) 0x10000 4 false

theorem wit_StepIssuesTheFetchedInstruction_turns :
    (translate (fetching 0) (fetching 0).walker (fetching 0).ctx .fetch 0x10000 4 = (fetching 0, .ok ⟨0x10000, 0, 0, 0⟩) ∧
      (∀ n, translate touched touched.walker touched.ctx .fetch 0x10004 n = (touched, .ok ⟨0x10004, 0, 0, 0⟩) ∧ homeFirst touched 0x10004 n = touched) ∧
      (∀ n ≤ 16, poisoned touched touched.ctx 0x10004 n = false) ∧ homeFirst (fetching 0) 0x10000 4 = fetching 0) ∧
    State.reset.agenda = [] ∧ State.reset.mgmt.state = .booting ∧ encode .ackTimer = none ∧ (fetching 0).w.kind ≠ .none ∧
    (let c : Core := { Core.reset with lines := [⟨1, 0x10000, List.replicate 128 0, 0, 0, 0, 0, .default⟩] }
      ∀ p ∈ [(0x10000, true), (0x10080, false)], (c.line? 1 p.1).isSome = p.2) := by
  refine ⟨⟨?_, fun n => ⟨?_, ?_⟩, by decide +kernel, ?_⟩, by decide +kernel, by decide +kernel, by decide +kernel, by decide +kernel, by decide +kernel⟩
  · exact fetch_hit _ _ _ 0x10000 4 ⟨1, 0x10000, 4096, 0x10000, 0xCF, true⟩ (by decide) (by decide +kernel) (by decide) (by decide)
  · exact fetch_hit _ _ _ 0x10004 n ⟨1, 0x10000, 4096, 0x10000, 0xCF, true⟩ (by decide) (by decide +kernel) (by decide) (by decide)
  · exact homeFirst_empty _ (getCore touched 0) _ _ (by decide +kernel) (by decide +kernel) (by decide +kernel)
  · exact homeFirst_empty _ (getCore (fetching 0) 0) _ _ (by decide +kernel) (by decide +kernel) (by decide +kernel)

/-! Ill-formed instructions, one for each check. -/

def f32Op : Op := plainOp .f32 (.queue 0) (.queue 1) .queue
def extOp : Op := { f32Op with ext := true }
def intOp : Op := plainOp .i32 (.queue 0) (.queue 1) .queue

theorem test_illFormed_arithmetic :
    ([.shfl { intOp with ty := .b32, u := true, a := .sca 0, b := .sca 1, d := .sca 2 }, .iadd { intOp with mod := 1 }, .fadd { f32Op with mod := 1 },
      .fadd { f32Op with rnd := .sr 3 }, .fadd { extOp with ty := .i32 }, .fadd { f32Op with ty := .f16 }, .iadd { intOp with a := .msk 1 },
      .iadd { intOp with a := .vec 16 }, .iadd { intOp with a := .lit, lit := some 1 }, .iadd { intOp with b := .lit }, .iadd { intOp with lit := some 0 },
      .iadd { intOp with ext := true, lit := some 1 }, .iadd { intOp with ext := true, b := .lit, lit := some (2 ^ 32) }, .iadd { intOp with b := .zero },
      .iadd { intOp with c := .queue 1 }, .iadd { intOp with ext := true, u := true }, .iadd { intOp with d := .msk 2 }, .icmp { intOp with d := .queue },
      .iadd { intOp with d := .discard }, .iadd { intOp with neg := 1, ext := true }, .fadd { extOp with neg := 4 }, .iadd { intOp with sat := true },
      .imad { intOp with c := .queue 2, d := .vec 1 }, .iadd64 { intOp with ext := true, ty := .i64 }, .mand { plainOp .b32 (.msk 1) (.queue 2) (.msk 3) with mod := 0 },
      .scan { intOp with b := .unused } true, .cvt f32Op .i32 0, .cvt { extOp with b := .unused } .i32 1, .cvt { extOp with b := .unused } .b32 0,
      .pack { extOp with ty := .f16, b := .queue 1 } .f32 2, .cvt { extOp with b := .unused } .i64 0] : List Instr).all (fun i => !formOk i) = true := by decide +kernel

theorem test_illFormed_immediates :
    ([.iaddi ⟨false, false, 1, 0, .queue 0⟩, .iaddi ⟨false, false, 0, 0, .sca 0⟩, .iaddi ⟨true, false, 0, 0, .queue 0⟩, .movi ⟨false, false, 0, 0, .queue 0⟩,
      .shli ⟨false, false, 0, 64, .queue 0⟩, .srd 3 0 0, .srd 0 24 0, .srd 1 3 0, .srd 0 0 1, .swrLit 0 0 5, .swrLit 0 2 (2 ^ 32), .lease 1 3 0, .lease 1 0 0,
      .lease 0 1 0, .claim 0 0, .giveback 65, .claimLit 0 1 (2 ^ 32), .waitmem 0 false false 6 0, .waitmemLit (2 ^ 32) false false 0 0, .brm 0 0 2,
      .plsw none (.lit), .plsw none (.msk 0), .loop none (.queue 0) 8 none, .loop none (.sca 0) 3 none, .loop none (.sca 0) (2 ^ 18) none, .mlit 0 3 0] :
      List Instr).all (fun i => !formOk i) = true := by decide +kernel

theorem test_illFormed_memory :
    ([.ld ⟨none, .sca 0, .queue, .word, 0, .default⟩, .ld ⟨none, .queue 0, .vec 16, .word, 0, .default⟩, .ld64 ⟨none, .queue 0, .queue, .word, 0, .default⟩,
      .ld64 ⟨none, .vec 0, .queue, .word, 1, .default⟩, .lds ⟨none, .queue 0, .queue, .word, 0, .keep⟩, .lde ⟨none, .queue 0, .queue, .half, 0, .default⟩,
      .st ⟨none, .queue 0, .queue 1, .double, 0, .default⟩, .sts ⟨none, .queue 0, .queue 1, .word, 0, .keep⟩, .ste ⟨none, .queue 0, .queue 1, .byte, 0, .default⟩,
      .st64 ⟨none, .vec 0, .queue 1, .word, 1, .default⟩, .ldu ⟨none, .sca 0, .sca 1, .quad, 0, .default⟩, .ldu ⟨none, .sca 0, .sca 32, .word, 0, .default⟩,
      .ldu ⟨none, .queue 0, .sca 1, .word, 0, .default⟩, .stu ⟨none, .sca 0, .queue 1, .word, 0, .default⟩, .stu ⟨none, .sca 0, .sca 1, .word, 0, .keep⟩,
      .prf none (.queue 0) 0 .evictFirst, .acas (.base none (.queue 0) (.queue 1) false 0 0), .aadd (.base none (.queue 0) (.queue 1) true 0 0),
      .afadd (.base none (.queue 0) (.vec 1) true 0 0), .aadd (.ext (.queue 0) (.queue 1) .unused .queue .i64 0 0 false),
      .aadd (.ext (.queue 0) (.vec 1) (.queue 2) .queue .i32 0 0 false), .aadd (.ext .lit (.vec 1) .unused .queue .i32 0 0 false),
      .aadd (.ext (.queue 0) (.vec 1) .unused .queue .f32 0 0 false), .afadd (.ext (.queue 0) (.vec 1) .unused .queue .i32 0 0 false),
      .aadd (.ext (.queue 0) (.vec 1) .unused (.sca 0) .i32 0 0 false), .ldt none (.sca 0) (.int 1) .queue false, .ldt none (.sca 0) (.sca 1) (.sca 2) false,
      .stt none .lit (.sca 1) (.queue 0) .rne false, .lhbind none (.queue 0) (.sca 0) false, .lhbind none (.sca 0) (.int 0) false, .lhinv none (.queue 0) false,
      .lhq none (.sca 0) .lit .queue false] : List Instr).all (fun i => !formOk i) = true := by decide +kernel

theorem test_illFormed_units :
    ([.yldc 0 .lit 0, .yldc 0 (.sca 0) 2, .tldv none (.queue 0) (.sca 0) .queue false, .tldv none (.sca 0) (.sca 0) .discard false,
      .tstv false none (.sca 0) (.sca 0) .lit false, .tldg ⟨none, 0, 0, .i8, .rne, .sca 0, .sca 0, .sca 0, false⟩,
      .tldg ⟨none, 0, 0, .f32, .rtz, .sca 0, .sca 0, .sca 0, false⟩, .tstg ⟨none, 0, 0, .f32, .rne, .queue 0, .sca 0, .sca 0, false⟩, .mwait none .lit false,
      .mtest 0 (some 1) (.sca 0) false, .mldb 1 .f32 none (.sca 0), .mldb 0 .i32 none (.sca 0), .mlda .b32 none (.sca 0), .mmul (some 0) (.sca 0),
      .mlut 0 none (.sca 0), .mdrain .i8 none (.sca 0) none, .spawn (some (2 ^ 16)) .lit 0, .spawnu (some 1) (.sca 0) 0, .bar 17 0, .bara 17 0, .frameq 129 0,
      .sample ⟨none, 0, 3, false, .queue 0, .queue 1, 0, false⟩, .samplel ⟨none, 0, 0, false, .queue 0, .queue 1, 0, false⟩ (.msk 0),
      .sampleg ⟨none, 0, 0, false, .msk 0, .queue 1, 0, false⟩ 0, .imgld none 0 0 (.queue 0) (.queue 1) .discard false,
      .imgst none 0 0 (.queue 0) .lit (.queue 1) false, .trace none 0 false false 0 1 none false, .trace (some 1) 0 true false 0 0 none false,
      .hitrd none (.queue 0) .discard false, .sgen 0 0 false (some 0) (.queue 0), .scnt 0 .discard false, .scvtWord 0 none .lit .queue false, .sseed none (.int 1),
      .slen 3] : List Instr).all (fun i => !formOk i) = true := by decide +kernel

theorem test_illFormed_events :
    ([.batchComplete 160, .nearThresholdEntry 0 4, .icacheFill 160 0 0, .binLaunch 0 64 ⟨0, []⟩, .binLaunch 0 0 ⟨640, []⟩, .continuationSteal 0 0 4,
      .copyCmd (.copy 160 0), .fill (.dma 8), .classify 160, .close 8 0, .stackThermalChange 0 3, .placeWorkgroup 0 [⟨0, [4]⟩], .workgroupResume 0 [⟨640, []⟩],
      .peerJoin 4096] : List Instr).all (fun i => !formOk i) = true := by decide +kernel

theorem wit_DecodeInvertsEncode : let i := Instr.iadd { intOp with ext := true, b := .lit, lit := some 5 };
    WellFormed i ∧ ∃ ws ∈ (encode i).toList, ws.length = 5 := by decide +kernel

theorem wit_EncodeInvertsDecode : ∃ i, decode .warp [0x10, 7, 7] = .ok i := ⟨_, rfl⟩

theorem wit_StepKeepsMemoryCanonical : State.reset.memOk ∧ (∃ t, step State.reset = .next t) ∧ ∃ t, step (fetching 0) = .next t := by
  refine ⟨by unfold State.memOk; decide +kernel, ⟨_, rfl⟩, ?_⟩
  have h : isNext (step (fetching 0)) = true := by decide +kernel
  cases e : step (fetching 0) with
  | next t => exact ⟨t, rfl⟩
  | fault => rw [e] at h; cases h
  | refused => rw [e] at h; cases h

/-! Words of each family, written out bit by bit from the encodings of chapter 02 and of the majors' chapters: bits [31:13] by field,
MIN, U, MAJ, LEN. -/

theorem test_decode_sys : decode .warp [0b0001#4 ++ 0b111111111111111#15 ++ 0b0110#4 ++ 0b0#1 ++ 0b000000#6 ++ 0b00#2] = .ok (.icpf 1 0x7FFF) ∧
    decode .warp [0b000000#6 ++ 0b01#2 ++ 0b00000#5 ++ 0b000100#6 ++ 0b0111#4 ++ 0b0#1 ++ 0b000000#6 ++ 0b00#2] = .ok (.srd 1 0 4) ∧
    decode .warp [0b10#2 ++ 0b1#1 ++ 0b0011#4 ++ 0b101#3 ++ 0b000000111#9 ++ 0b1101#4 ++ 0b0#1 ++ 0b000000#6 ++ 0b00#2] = .ok (.chmapC 2 3 5 7) := ⟨rfl, rfl, rfl⟩
theorem test_decode_flow : decode .warp [0b1000000000000000001#19 ++ 0b0101#4 ++ 0b0#1 ++ 0b000001#6 ++ 0b00#2] = .ok (.call 0x40001) := rfl
theorem test_decode_mask : decode .warp [0b000#3 ++ 0b0#1 ++ 0b11111#5 ++ 0b00000#5 ++ 0b00001#5 ++ 0b0110#4 ++ 0b0#1 ++ 0b000010#6 ++ 0b00#2] =
    .ok (.mnot (plainOp .b32 (.msk 1) .unused (.msk 31))) := rfl
theorem test_decode_inta : decode .warp [0b011#3 ++ 0b0#1 ++ 0b10010#5 ++ 0b10100#5 ++ 0b10000#5 ++ 0b1011#4 ++ 0b0#1 ++ 0b000100#6 ++ 0b00#2] =
    .ok (.lea { plainOp .i64 (.vec 0) (.vec 4) (.vec 2) with mod := 3 }) := rfl
theorem test_decode_intb : decode .warp [0b000#3 ++ 0b0#1 ++ 0b00011#5 ++ 0b00010#5 ++ 0b00001#5 ++ 0b1110#4 ++ 0b0#1 ++ 0b000101#6 ++ 0b00#2] =
    .ok (.sel { plainOp .b32 (.queue 1) (.queue 2) .queue with c := .queue 3 }) := rfl
theorem test_decode_inti : decode .warp [0b110#3 ++ 0b0#1 ++ 0b1111111110#10 ++ 0b11111#5 ++ 0b1000#4 ++ 0b0#1 ++ 0b000110#6 ++ 0b00#2] =
    .ok (.icmpi ⟨false, false, 6, -2, .vec 15⟩) := rfl
theorem test_decode_cmp : decode .warp [0b001#3 ++ 0b0#1 ++ 0b00001#5 ++ 0b10000#5 ++ 0b01111#5 ++ 0b0000#4 ++ 0b0#1 ++ 0b000111#6 ++ 0b00#2] =
    .ok (.icmp { plainOp .i32 (.queue 15) (.vec 0) (.msk 1) with mod := 1 }) := rfl
theorem test_decode_flta : decode .warp [0b010#3 ++ 0b1#1 ++ 0b00100#5 ++ 0b00010#5 ++ 0b00001#5 ++ 0b0011#4 ++ 0b0#1 ++ 0b001000#6 ++ 0b00#2] =
    .ok (.ffma { plainOp .f32 (.queue 1) (.queue 2) .queue with c := .queue 4, rnd := .rup, tr := true }) := rfl
theorem test_decode_fltb : decode .warp [0b000#3 ++ 0b0#1 ++ 0b00101#5 ++ 0b00000#5 ++ 0b00100#5 ++ 0b0011#4 ++ 0b1#1 ++ 0b001001#6 ++ 0b00#2] =
    .ok (.flog2 { plainOp .f32 (.sca 4) .unused (.sca 5) with u := true }) := rfl
theorem test_decode_pkd : decode .warp [0b000#3 ++ 0b0#1 ++ 0b10000#5 ++ 0b00010#5 ++ 0b00001#5 ++ 0b0111#4 ++ 0b0#1 ++ 0b001010#6 ++ 0b00#2] =
    .ok (.psub16 (plainOp .i16 (.queue 1) (.queue 2) (.vec 0))) := rfl
theorem test_decode_cvt : decode .warp [0b0000000000000010000#19 ++ 0b0011#4 ++ 0b0#1 ++ 0b001011#6 ++ 0b10#2,
    0b0000000000#10 ++ 0b00000000000#11 ++ 0b00000000101#11, 0b00000#5 ++ 0b1000#4 ++ 0b0#1 ++ 0b000#3 ++ 0b000#3 ++ 0b0#1 ++ 0b000#3 ++ 0b00000000111#11 ++ 0b0#1] =
    .ok (.unpack { plainOp .n8 (.vec 5) .unused (.vec 7) with ext := true } 1) := rfl
theorem test_decode_xlane : decode .warp [0b011#3 ++ 0b0#1 ++ 0b00000#5 ++ 0b00000#5 ++ 0b00001#5 ++ 0b0001#4 ++ 0b0#1 ++ 0b001100#6 ++ 0b00#2] =
    .ok (.vote { plainOp .b32 (.queue 1) .unused .queue with mod := 3 }) := rfl
theorem test_decode_ldst : decode .warp [0b10#2 ++ 0b0001#4 ++ 0b011#3 ++ 0b10010#5 ++ 0b10000#5 ++ 0b0001#4 ++ 0b0#1 ++ 0b010000#6 ++ 0b00#2] =
    .ok (.st ⟨none, .vec 0, .vec 2, .double, 1, .keep⟩) := rfl
theorem test_decode_atom : decode .warp [0b0000000000000010010#19 ++ 0b0111#4 ++ 0b0#1 ++ 0b010001#6 ++ 0b10#2,
    0b0000000011#10 ++ 0b01000000001#11 ++ 0b01000000000#11, 0b00000#5 ++ 0b0000#4 ++ 0b0#1 ++ 0b000#3 ++ 0b000#3 ++ 0b0#1 ++ 0b000#3 ++ 0b01000000000#11 ++ 0b0#1] =
    .ok (.acas (.ext (.queue 0) (.queue 1) (.vec 3) .queue .i32 2 1 false)) := rfl

/-! Words that the manual's own listings give (02, 06, 09 to 13 worked examples). -/
theorem test_decode_listing_fadd : decode .warp [0x00000022, 0x00202A01, 0x01011258] =
    .ok (.fadd { plainOp .f32 (.queue 1) (.sca 5) (.vec 300) with ext := true, rnd := .rtz, neg := 1 }) := rfl
theorem test_decode_listing_layout : decode .warp [0x0000004A, 0x00005406, 0x07000028] = .ok (.ldt none (.sca 6) (.vec 10) (.vec 20) false) := rfl
theorem test_decode_listing_engine : decode .warp [0x03C2004C] = .ok (.push 60 1 0) ∧
    decode .warp [0x0000024F, 0x00300601, 0x00000C02, 0x00000014, 0] = .ok (.yldc 0 .zero 0x14) := ⟨rfl, rfl⟩
theorem test_decode_listing_tile : decode .warp [0x00002252, 0x00B01602, 0x07000C02] = .ok (.tstv true none .one .one (.vec 2) false) := rfl
theorem test_decode_listing_mtx : decode .sequencer [0x00000D57, 0x00000600, 0x01000802, 0x00000040, 0] = .ok (.mdrain .f32 (some 0x40) .lit (some 1)) := rfl
theorem test_decode_listing_sync : decode .warp [0x0000005A, 0x00004607, 0x07000C02] = .ok (.spawn none (.int 2) 8) ∧
    decode .warp [0x0000CE58] = .ok (.frameq 0 6) := ⟨rfl, rfl⟩
theorem test_decode_listing_gfx : decode .warp [0x0001085E, 0x02900A00, 0x07000C02] = .ok (.imgst none 8 0 (.queue 0) (.queue 1) (.vec 10) false) := rfl
theorem test_decode_listing_strm : decode .warp [0x02002063, 0x00000600, 0x01000C02, 0x3F400000, 0] = .ok (.sgen 1 1 true (some 0x3F400000) .lit) := rfl
theorem test_decode_listing_loop : decode .warp [0x00009506, 0x00E01608, 0x00000C03] = .ok (.loop none (.int 3) 4 (some (2, 3))) := rfl

/-! Results that the manual gives: 08 Table 08-10, the worked examples of 08 and 10. -/

theorem test_conversions :
    convert false .rne .f32 .bf16 0x3F808000 = (0x3F80, flNX) ∧ convert false .rne .f32 .t8 0x459C4000 = (0x7F, flOF ||| flNX) ∧
    convert false .rtz .f32 .i8 0xC302B333 = (0x80, flIV) ∧ convert false .rne .i32 .n16 0xFFFFFFFB = (0, 0) ∧
    convert false .rne .t6 .f32 (bitsAt 0x400 6 6) = (0x3F800000, 0) ∧
    convert false (.sr 0x7FFF) .f32 .t6 0x3F500000 = (0x0F, flNX) ∧ convert false (.sr 0x8001) .f32 .t6 0x3F500000 = (0x0E, flNX) := by decide +kernel

end Sys2Proof.Tests
end

section
/-! Bytes and fields read back as the value that they were written from, and the round trip of a stack entry. -/
namespace Sys2Proof.Machine

/-! Little-endian bytes, and fields as bit vectors. -/

/-- 00 R4: the little-endian bytes of a value give back as much of it as they hold. -/
theorem leNat_leBytes (n x : Nat) : leNat (leBytes n x) = x % 256 ^ n := by
  induction n generalizing x with
  | zero => simp [leBytes, leNat, Nat.mod_one]
  | succ n ih => rw [leBytes, leNat, ih, BitVec.toNat_ofNat, pow_succ' 256, Nat.mod_mul]

theorem leNat_leBytes_of_lt {n x : Nat} (h : x < 256 ^ n) : leNat (leBytes n x) = x := by
  rw [leNat_leBytes, Nat.mod_eq_of_lt h]

/-- Reducing a value to the width of a vector is taking the bits of that width. -/
theorem ofNat_div_eq_ofNat_bitsAt (n x lo : Nat) : BitVec.ofNat n (x / 2 ^ lo) = BitVec.ofNat n (bitsAt x lo n) :=
  BitVec.eq_of_toNat_eq (by simp [bitsAt])

/-- A field as wide as the vector written to it reads back whole. -/
theorem bitsAt_joinBits_toNat {n : Nat} (v : BitVec n) (xs) : bitsAt (joinBits ((n, v.toNat) :: xs)) 0 n = v.toNat := by
  rw [bitsAt_joinBits_head, Nat.mod_eq_of_lt v.isLt]

/-! A stack entry as 256 bits: what its bits are, and what reading bits gives. -/

/-- KIND of Table 13-1. -/
def SKind.code : SKind → Nat
  | .path => 0
  | .reconv => 1
  | .call => 2
  | .trap => 3
  | .loop => 4

/-- Bits [194:0], which every entry has (13 Table 13-1). -/
def SEntry.headFields (e : SEntry) : List (Nat × Nat) :=
  [(128, e.mask.toNat), (32, e.rpc.toNat), (32, e.resume.toNat), (3, e.kind.code)]

/-- Bits [209:195] of a TRAP entry (15 Table 15-2). -/
def SEntry.trapFields (e : SEntry) : List (Nat × Nat) := [(1, 0), (8, e.cause.toNat), (4, e.log.toNat), (2, e.mode.toNat)]

/-- Bits [255:195] of every other entry (13 Table 13-1). -/
def SEntry.loopFields (e : SEntry) : List (Nat × Nat) :=
  [(1, e.inc.toNat), (6, e.sb.toNat), (6, e.sc.toNat), (16, 0), (32, e.count.toNat)]

theorem SEntry.bits_eq (e : SEntry) :
    e.bits = joinBits (e.headFields ++ if e.kind = .trap then e.trapFields else e.loopFields) := by
  obtain ⟨mask, rpc, resume, kind, inc, sb, sc, count, cause, log, mode⟩ := e
  cases kind <;> rfl

theorem SEntry.bits_lt (e : SEntry) : e.bits < 2 ^ 256 := by
  rw [bits_eq]
  refine (joinBits_lt _).trans_le (Nat.pow_le_pow_right two_pos ?_)
  split <;> simp [headFields, trapFields, loopFields]

theorem SEntry.bitsAt_mask (e : SEntry) : bitsAt e.bits 0 128 = e.mask.toNat := by
  simp [bits_eq, headFields, bitsAt_joinBits_toNat]

theorem SEntry.bitsAt_rpc (e : SEntry) : bitsAt e.bits 128 32 = e.rpc.toNat := by
  simp [bits_eq, headFields, bitsAt_joinBits_toNat, bitsAt_joinBits_tail]

theorem SEntry.bitsAt_resume (e : SEntry) : bitsAt e.bits 160 32 = e.resume.toNat := by
  simp [bits_eq, headFields, bitsAt_joinBits_toNat, bitsAt_joinBits_tail]

theorem SEntry.bitsAt_kind (e : SEntry) : bitsAt e.bits 192 3 = e.kind.code := by
  have h : e.kind.code < 8 := by cases e.kind <;> decide
  simp [bits_eq, headFields, bitsAt_joinBits_head, bitsAt_joinBits_tail, Nat.mod_eq_of_lt h]

/-- From bit 195 up stand the fields of the entry's own kind. -/
theorem SEntry.bitsAt_rest (e : SEntry) (lo n : Nat) (h : 195 ≤ lo) :
    bitsAt e.bits lo n = bitsAt (joinBits (if e.kind = .trap then e.trapFields else e.loopFields)) (lo - 195) n := by
  simp (disch := omega) only [bits_eq, headFields, List.cons_append, List.nil_append, bitsAt_joinBits_tail, Nat.sub_sub]

theorem SEntry.bitsAt_trapFields {e : SEntry} (h : e.kind = .trap) :
    bitsAt e.bits 196 8 = e.cause.toNat ∧ bitsAt e.bits 204 4 = e.log.toNat ∧ bitsAt e.bits 208 2 = e.mode.toNat := by
  simp [bitsAt_rest, h, trapFields, bitsAt_joinBits_toNat, bitsAt_joinBits_tail]

theorem SEntry.bitsAt_loopFields {e : SEntry} (h : e.kind ≠ .trap) :
    bitsAt e.bits 195 1 = e.inc.toNat ∧ bitsAt e.bits 196 6 = e.sb.toNat ∧ bitsAt e.bits 202 6 = e.sc.toNat ∧
      bitsAt e.bits 224 32 = e.count.toNat := by
  have hinc (xs) : bitsAt (joinBits ((1, e.inc.toNat) :: xs)) 0 1 = e.inc.toNat :=
    (bitsAt_joinBits_head ..).trans (Nat.mod_eq_of_lt e.inc.toNat_lt)
  simp [bitsAt_rest, h, loopFields, hinc, bitsAt_joinBits_toNat, bitsAt_joinBits_tail]

/-- What reading gives once KIND is TRAP: the fields of Table 15-2 and no loop. -/
theorem SEntry.ofBits_trap {x : Nat} (h : bitsAt x 192 3 = SKind.trap.code) :
    SEntry.ofBits x = ⟨BitVec.ofNat 128 (bitsAt x 0 128), BitVec.ofNat 32 (bitsAt x 128 32), BitVec.ofNat 32 (bitsAt x 160 32),
      .trap, false, 0, 0, 0, BitVec.ofNat 8 (bitsAt x 196 8), BitVec.ofNat 4 (bitsAt x 204 4), BitVec.ofNat 2 (bitsAt x 208 2)⟩ := by
  simp [ofBits, h, SKind.code, ← ofNat_div_eq_ofNat_bitsAt 128 x 0, ← ofNat_div_eq_ofNat_bitsAt 32 x]

/-- What reading gives for any other KIND: the fields of Table 13-1 and no cause. -/
theorem SEntry.ofBits_loop {x : Nat} {k : SKind} (h : bitsAt x 192 3 = k.code) (hk : k ≠ .trap) :
    SEntry.ofBits x = ⟨BitVec.ofNat 128 (bitsAt x 0 128), BitVec.ofNat 32 (bitsAt x 128 32), BitVec.ofNat 32 (bitsAt x 160 32),
      k, bitsAt x 195 1 == 1, BitVec.ofNat 6 (bitsAt x 196 6), BitVec.ofNat 6 (bitsAt x 202 6), BitVec.ofNat 32 (bitsAt x 224 32),
      0, 0, 0⟩ := by
  cases k with
  | trap => exact absurd rfl hk
  | path | reconv | call | loop =>
    simp [ofBits, h, SKind.code, ← ofNat_div_eq_ofNat_bitsAt 128 x 0, ← ofNat_div_eq_ofNat_bitsAt 32 x]

/-- An entry's bits, read back, are the entry. -/
theorem SEntry.ofBits_bits {e : SEntry} (he : e.canonical) : SEntry.ofBits e.bits = e := by
  by_cases hk : e.kind = .trap
  · obtain ⟨hcause, hlog, hmode⟩ := bitsAt_trapFields hk
    rw [ofBits_trap (by rw [bitsAt_kind, hk]), bitsAt_mask, bitsAt_rpc, bitsAt_resume, hcause, hlog, hmode]
    rcases e with ⟨mask, rpc, resume, kind, inc, sb, sc, count, cause, log, mode⟩
    obtain rfl : kind = .trap := hk
    obtain ⟨rfl, rfl, rfl, rfl⟩ : inc = false ∧ sb = 0 ∧ sc = 0 ∧ count = 0 := he
    simp
  · obtain ⟨hinc, hsb, hsc, hcount⟩ := bitsAt_loopFields hk
    have hbool : (e.inc.toNat == 1) = e.inc := by cases e.inc <;> rfl
    rw [ofBits_loop (bitsAt_kind e) hk, bitsAt_mask, bitsAt_rpc, bitsAt_resume, hinc, hsb, hsc, hcount, hbool]
    rcases e with ⟨mask, rpc, resume, kind, inc, sb, sc, count, cause, log, mode⟩
    obtain ⟨rfl, rfl, rfl⟩ : cause = 0 ∧ log = 0 ∧ mode = 0 := by simpa [canonical, hk] using he
    simp

/-- Settles O14: the 32 bytes hold all 256 bits of the entry, and its bits read back as the entry. -/
theorem stackEntriesRoundTrip : Obligations.StackEntriesRoundTrip := by
  intro e he
  rw [leNat_leBytes_of_lt e.bits_lt, SEntry.ofBits_bits he]

end Sys2Proof.Machine
end

section
/-! O60: every step keeps memory in canonical form.

Memory is written in a handful of places: bytes of a physical address (`physWrite`), a line that a cache writes back, an entry of the page
tables, sectors of visibility tiles, fragments of the raster. Each keeps the canonical form by `mwrite_wf` and its kin; everything else
leaves memory alone or calls what keeps it. So there is one rule per function of the model, in the order of the model's files: from a
state with canonical memory it gives one. The rules compose along the calls of a function, and `step` is the last of them. -/
namespace Sys2Proof.Machine

section
variable {s : State}

/-! An outcome that hands on states is in order when each of them has canonical memory; one that hands on none always is. -/

def Pushed.memOk : Pushed → Prop
  | .ok s | .fault s _ => s.memOk
  | .full | .poison _ => True

def Prep.memOk : Prep → Prop
  | .go s | .stop s => s.memOk

def Done.memOk : Done → Prop
  | .ok s | .fault s _ | .poison s _ | .wait s => s.memOk

def Poll.memOk : Poll → Prop
  | .met s | .unmet s | .fault s _ | .poison s _ | .wait s => s.memOk

def TraceEnd.memOk : TraceEnd → Prop
  | .done d => d.memOk
  | .stall | .exhausted _ => True

def Reissued.memOk : Reissued → Prop
  | .ok s => s.memOk
  | .faults .. | .poison .. | .stall | .exhausted .. => True

def SpawnTo.memOk : SpawnTo → Prop
  | .stop s => s.memOk
  | .unit _ | .entry _ => True

def Opened.memOk : Opened → Prop
  | .ok s | .skip s | .stall s | .poison s _ => s.memOk

def Drawn.memOk : Drawn → Prop
  | .ok s | .stall s | .wait s | .poison s _ => s.memOk

def Blended.memOk : Blended → Prop
  | .ok s | .dropped s _ _ _ | .poison s _ | .wait s => s.memOk

def Taken.memOk : Taken → Prop
  | .ok s | .wait s | .poison s _ => s.memOk
  | .stall => True

def Moved.memOk : Moved → Prop
  | .ok s _ | .fault s _ _ _ | .poison s _ _ _ | .wait s _ _ => s.memOk

def Mapped.memOk : Mapped → Prop
  | .ok s | .stop s _ _ _ | .poison s _ | .wait s => s.memOk

def FetchEnd.memOk : FetchEnd → Prop
  | .ok s _ | .fault s _ _ | .poison s _ _ | .wait s => s.memOk

def Planes.memOk (p : Planes) : Prop := p.acc.memOk ∧ ∀ t, p.stuck = some t → t.memOk

def Out.memOk : Out → Prop
  | .next s => s.memOk
  | .fault _ | .refused _ => True

/-! What the rules share. -/

theorem foldl_memOk {α : Type} {f : State → α → State} (hf : ∀ {s a}, s.memOk → (f s a).memOk) (h : s.memOk) (l : List α) :
    (l.foldl f s).memOk :=
  List.foldlRecOn l f h fun _ ht _ _ => hf ht

theorem foldl_mem_wf {α : Type} {f : Mem → α → Mem} (hf : ∀ {m a}, m.wf = true → (f m a).wf = true) {m : Mem}
    (h : m.wf = true) (l : List α) : (l.foldl f m).wf = true :=
  List.foldlRecOn (motive := fun m => m.wf = true) l f h fun _ hm _ _ => hf hm

theorem reset_memOk : State.reset.memOk := rfl

/-- A rule about the state of a result, used where a `match` has named its parts. -/
theorem memOk_of_fst {α : Type} {p : State × α} {t : State} {x : α} (e : p = (t, x)) (h : p.1.memOk) : t.memOk := by
  rwa [e] at h

/-- Sectors written one after another, as a visibility tile is opened or moved. -/
theorem writeTiles_memOk {at_ data : Nat → _} (h : s.memOk) (is : List Nat) (poison) :
    State.memOk { s with poison := poison, mem := is.foldl (fun m i => mwriteN m (at_ i) (data i)) s.mem } :=
  foldl_mem_wf (mwriteN_wf _ _) h is

theorem getD_memOk {x : Option State} (h : s.memOk) (hx : ∀ t, x = some t → t.memOk) : (x.getD s).memOk := by
  cases x with
  | none => exact h
  | some t => exact hx t rfl

/-! The units of the state. -/

theorem setCore_memOk {c x} (h : s.memOk) : (setCore s c x).memOk := h

theorem setCluster_memOk {k x} (h : s.memOk) : (setCluster s k x).memOk := h

theorem modCluster_memOk {k f} (h : s.memOk) : (modCluster s k f).memOk := h

theorem setTower_memOk {t x} (h : s.memOk) : (setTower s t x).memOk := h

theorem setCtx_memOk {k x} (h : s.memOk) : (setCtx s k x).memOk := h

theorem modCtx_memOk {k f} (h : s.memOk) : (modCtx s k f).memOk := by
  grind [modCtx, setCtx_memOk]

theorem setGroup_memOk {g x} (h : s.memOk) : (setGroup s g x).memOk := h

theorem modGroup_memOk {g f} (h : s.memOk) : (modGroup s g f).memOk := by
  grind [modGroup, setGroup_memOk]

theorem setFrame_memOk {f x} (h : s.memOk) : (setFrame s f x).memOk := h

theorem setWarp_memOk {w} (h : s.memOk) : (setWarp s w).memOk := by
  grind [setWarp, State.memOk]

theorem modWarp_memOk {k f} (h : s.memOk) : (modWarp s k f).memOk := by
  grind [modWarp, setWarp_memOk]

theorem focus_memOk {k} (h : s.memOk) : (focus s k).memOk := by
  grind [focus, State.memOk]

theorem stampW_memOk (h : s.memOk) : (stampW s).memOk := h

theorem mapWarps_memOk {f} (h : s.memOk) : (mapWarps s f).memOk := h

theorem freeChoice_memOk {n} (h : s.memOk) : (freeChoice s n).2.memOk := h

/-! Physical memory and the caches. -/

theorem l2Access_memOk {cls hint line dirty} (h : s.memOk) : (l2Access s cls hint line dirty).memOk := h

theorem l2Range_memOk {cls hint pa n wr xs} (h : s.memOk) : (l2Range s cls hint pa n wr xs).memOk := by
  fun_induction l2Range <;> grind [l2Access_memOk]

theorem touch_memOk {cls pa n wr} (h : s.memOk) : (touch s cls pa n wr).memOk := by
  grind [touch, l2Range_memOk]

theorem memOk_physWrite {ctx cls pa bs} (h : s.memOk) : (physWrite s ctx cls pa bs).memOk :=
  physWrite_memOk ctx cls pa bs h

theorem flushFrom_memOk {l i n} (h : s.memOk) : (flushFrom s l i n).memOk := by
  induction n generalizing s i with
  | zero => exact h
  | succ n ih =>
    refine ih ?_
    split
    · exact mwrite_wf _ _ h
    · exact h

theorem clearPoison_memOk {l} (h : s.memOk) : (clearPoison s l).memOk := h

theorem writeBack_memOk {l} (h : s.memOk) : (writeBack s l).memOk := by
  grind [writeBack, l2Access_memOk, clearPoison_memOk, flushFrom_memOk]

theorem evictLine_memOk {core l} (h : s.memOk) : (evictLine s core l).memOk := writeBack_memOk h

theorem shrinkL1_memOk {core hint room a} (h : s.memOk) : (shrinkL1 core hint room a s).memOk := by
  fun_induction shrinkL1 <;> grind [evictLine_memOk]

theorem fitL1_memOk {core} (h : s.memOk) : (fitL1 s core).memOk := shrinkL1_memOk h

theorem openLine_memOk {core ctx cls hint pa} (h : s.memOk) : (openLine s core ctx cls hint pa).1.memOk := by
  grind [openLine, l2Access_memOk, setCore_memOk, shrinkL1_memOk]

theorem coreLoad_memOk {core ctx cls hint pa n} (h : s.memOk) : (coreLoad s core ctx cls hint pa n).1.memOk := by
  grind [coreLoad, openLine_memOk]

theorem coreStore_memOk {core ctx cls hint pa bs} (h : s.memOk) : (coreStore s core ctx cls hint pa bs).memOk := by
  grind [coreStore, memOk_physWrite, openLine_memOk, setCore_memOk]

theorem writeBackLines_memOk {xs} (h : s.memOk) : (writeBackLines s xs).memOk := by
  fun_induction writeBackLines <;> grind [writeBack_memOk]

theorem writeBackIf_memOk {core p} (h : s.memOk) : (writeBackIf s core p).memOk := writeBackLines_memOk h

theorem writeBackCtx_memOk {core ctx} (h : s.memOk) : (writeBackCtx s core ctx).memOk := writeBackIf_memOk h

theorem writeBackPa_memOk {core ctx pa} (h : s.memOk) : (writeBackPa s core ctx pa).memOk := writeBackIf_memOk h

theorem staleBytes_memOk {core ctx pa n} (h : s.memOk) : (staleBytes s core ctx pa n).memOk := h

theorem genBump_memOk {core} (h : s.memOk) : (genBump s core).memOk := by
  grind [genBump, setCore_memOk]

/-! Translation. -/

theorem setTlbs_memOk {u t} (h : s.memOk) : (setTlbs s u t).memOk := by
  cases u <;> exact h

theorem installTlb_memOk {u e} (h : s.memOk) : (installTlb s u e).memOk := by
  unfold installTlb
  refine setTlbs_memOk ?_
  split <;> exact h

theorem installWalks_memOk {u ctx va xs} (h : s.memOk) : (installWalks s u ctx va xs).memOk := by
  fun_induction installWalks <;> grind [State.memOk, setTlbs_memOk]

theorem touchEntries_memOk {cls as} (h : s.memOk) : (touchEntries s cls as).memOk := foldl_memOk touch_memOk h as

theorem walk_memOk {u ctx k prefetch va n} (h : s.memOk) : (walk s u ctx k prefetch va n).1.memOk := by
  have hw {t : State} (ht : t.memOk) (a b) : State.memOk { t with mem := mwrite t.mem a b } := mwrite_wf a b ht
  grind [walk, touch_memOk, touchEntries_memOk, installWalks_memOk, installTlb_memOk]

theorem translate_memOk {u ctx k va n} (h : s.memOk) : (translate s u ctx k va n).1.memOk := by
  unfold translate
  split
  · exact h
  · extract_lets use
    have huse {t : State} (ht : t.memOk) (e : TlbEntry) : (use t e).1.memOk := by grind
    clear_value use
    grind [installTlb_memOk, walk_memOk]

theorem translatePrefetch_memOk {u ctx k va} (h : s.memOk) : (translatePrefetch s u ctx k va).1.memOk := by
  grind [translatePrefetch, walk_memOk]

theorem dropTranslations_memOk {ctx va size} (h : s.memOk) : (dropTranslations s ctx va size).memOk := h

/-! Messages, remote bytes, and what units read and write. -/

theorem sendMsg_memOk {m} (h : s.memOk) : (sendMsg s m).memOk := by
  grind [sendMsg, State.memOk]

theorem sendAck_memOk (h : s.memOk) : (sendAck s).memOk := by
  grind [sendAck, State.memOk]

theorem sendEvent_memOk {ctx code words} (h : s.memOk) : (sendEvent s ctx code words).memOk := sendMsg_memOk h

theorem sendHostWrite_memOk {pa bs} (h : s.memOk) : (sendHostWrite s pa bs).memOk := sendMsg_memOk h

theorem askRemote_memOk {who pa n} (h : s.memOk) : (askRemote s who pa n).memOk := by
  grind [askRemote, State.memOk, sendMsg_memOk]

theorem fetchRemote_memOk {who pa n} (h : s.memOk) : (fetchRemote s who pa n).1.memOk := by
  grind [fetchRemote, askRemote_memOk]

theorem reask_memOk {xs} (h : s.memOk) : (reask s xs).memOk := by
  fun_induction reask <;> grind [askRemote_memOk]

theorem keepAsked_memOk {t who} (h : s.memOk) : (keepAsked s t who).memOk := reask_memOk h

theorem remoteWrite_memOk {who pa bs} (h : s.memOk) : (remoteWrite s who pa bs).memOk := by
  grind [remoteWrite, State.memOk, sendHostWrite_memOk, reask_memOk]

theorem dropRemotes_memOk {who} (h : s.memOk) : (dropRemotes s who).memOk := h

theorem unitReadPiece_memOk {u who ctx va n} (h : s.memOk) : (unitReadPiece s u who ctx va n).1.memOk := by
  grind [unitReadPiece, translate_memOk, fetchRemote_memOk, touch_memOk]

theorem unitReadPieces_memOk {u who ctx xs ys a} (h : s.memOk) : (unitReadPieces s u who ctx xs ys a).1.memOk := by
  fun_induction unitReadPieces <;> grind [unitReadPiece_memOk]

theorem unitRead_memOk {u who ctx va n} (h : s.memOk) : (unitRead s u who ctx va n).1.memOk := unitReadPieces_memOk h

theorem unitWritePiece_memOk {u who ctx va bs} (h : s.memOk) : (unitWritePiece s u who ctx va bs).1.memOk := by
  grind [unitWritePiece, remoteWrite_memOk, memOk_physWrite, translate_memOk]

theorem unitWritePieces_memOk {u who ctx xs ys} (h : s.memOk) : (unitWritePieces s u who ctx xs ys).1.memOk := by
  fun_induction unitWritePieces <;> grind [unitWritePiece_memOk]

theorem unitWrite_memOk {u who ctx va bs} (h : s.memOk) : (unitWrite s u who ctx va bs).1.memOk :=
  unitWritePieces_memOk h

theorem pulse_memOk {ctx} (h : s.memOk) : (pulse s ctx).memOk := modCtx_memOk h

theorem modQueue_memOk {ctx qi f} (h : s.memOk) : (modQueue s ctx qi f).memOk := modCtx_memOk h

theorem reportPacket_memOk {ctx qi seq status detail value fword} (h : s.memOk) :
    (reportPacket s ctx qi seq status detail value fword).memOk := by
  grind [reportPacket, unitWrite_memOk, sendMsg_memOk, pulse_memOk, modQueue_memOk]

theorem completePacket_memOk {ctx qi seq status detail value fword} (h : s.memOk) :
    (completePacket s ctx qi seq status detail value fword).memOk :=
  modQueue_memOk (reportPacket_memOk h)

theorem parkPacket_memOk {ctx qi seq status value fword} (h : s.memOk) : (parkPacket s ctx qi seq status value fword).memOk :=
  modQueue_memOk (reportPacket_memOk h)

/-! Warps: queue, stack, traps. -/

theorem State.modW_memOk {f} (h : s.memOk) : (State.modW s f).memOk := h

theorem advance_memOk (h : s.memOk) : (advance s).memOk := h

theorem jump_memOk {o} (h : s.memOk) : (jump s o).memOk := h

theorem stall_memOk (h : s.memOk) : (stall s).memOk := h

theorem stallPoison_memOk {pa addr} (h : s.memOk) : (stallPoison s pa addr).memOk := h

theorem block_memOk {k} (h : s.memOk) : (block s k).memOk := h

theorem setS_memOk {n x} (h : s.memOk) : (setS s n x).memOk := h

theorem setM_memOk {k m} (h : s.memOk) : (setM s k m).memOk := h

theorem pushQ_memOk {x tr} (h : s.memOk) : (pushQ s x tr).memOk := by
  grind [pushQ, State.modW_memOk]

theorem raiseFlags_memOk {f} (h : s.memOk) : (raiseFlags s f).memOk := h

theorem stopCtx_memOk {ctx report} (h : s.memOk) : (stopCtx s ctx report).memOk := modCtx_memOk h

theorem returnLease_memOk {w} (h : s.memOk) : (returnLease s w).memOk := h

theorem clearSetOf_memOk {cl owner} (h : s.memOk) : (clearSetOf s cl owner).memOk := h

theorem completeFrom_memOk {ctx qi status a b} (h : s.memOk) : (completeFrom s ctx qi status a b).memOk := by
  fun_induction completeFrom <;> grind [completePacket_memOk]

theorem failQueues_memOk {ctx xs} (h : s.memOk) : (failQueues s ctx xs).memOk := by
  fun_induction failQueues <;> grind [completeFrom_memOk]

theorem returnLeases_memOk {xs} (h : s.memOk) : (returnLeases s xs).memOk := by
  fun_induction returnLeases <;> grind [returnLease_memOk]

theorem writeBackEverywhere_memOk {ctx xs} (h : s.memOk) : (writeBackEverywhere s ctx xs).memOk := by
  fun_induction writeBackEverywhere <;> grind [writeBackCtx_memOk]

theorem restoreTile_memOk {t} (h : s.memOk) : (restoreTile s t).memOk := by
  unfold restoreTile
  split
  · exact foldl_mem_wf (mwriteN_wf _ _) h _
  · exact h

theorem killCtx_memOk {ctx} (h : s.memOk) : (killCtx s ctx).memOk := by
  have htiles {t : State} (p : Nat × Pass) (ht : t.memOk) :
      (if p.2.ctx == ctx then p.2.tiles.foldl (fun s t => restoreTile s t.2) t else t).memOk := by
    split
    · exact foldl_memOk restoreTile_memOk ht _
    · exact ht
  unfold killCtx
  extract_lets mine s1 s2 s3 s4 cmds recs s5 s6
  have h2 : s2.memOk := foldl_memOk (fun {_ p} => htiles p) (writeBackEverywhere_memOk h) _
  have h4 : s4.memOk := mapWarps_memOk (returnLeases_memOk h2)
  have h6 : s6.memOk := modCtx_memOk h4
  split
  · exact failQueues_memOk h6
  · exact h6

theorem poisonStop_memOk {ctx pa addr} (h : s.memOk) : (poisonStop s ctx pa addr).memOk :=
  sendEvent_memOk (stopCtx_memOk h)

theorem vaLoad_memOk {va n} (h : s.memOk) : (vaLoad s va n).1.memOk := by
  grind [vaLoad, translate_memOk, fetchRemote_memOk, coreLoad_memOk]

theorem vaLoadPieces_memOk {xs ys} (h : s.memOk) : (vaLoadPieces s xs ys).1.memOk := by
  fun_induction vaLoadPieces <;> grind [vaLoad_memOk]

theorem vaLoadN_memOk {va n} (h : s.memOk) : (vaLoadN s va n).1.memOk := vaLoadPieces_memOk h

theorem vaStore_memOk {va bs} (h : s.memOk) : (vaStore s va bs).1.memOk := by
  grind [vaStore, translate_memOk, remoteWrite_memOk, coreStore_memOk]

theorem push1_memOk {limit e} (h : s.memOk) : (push1 s limit e).memOk := by
  grind [push1, Pushed.memOk, State.modW_memOk, vaStore_memOk]

theorem pushAll_memOk {limit xs} (h : s.memOk) : (pushAll s limit xs).memOk := by
  fun_induction pushAll <;> grind [Pushed.memOk, push1_memOk]

theorem refill_memOk (h : s.memOk) : (refill s).1.memOk := by
  grind [refill, vaLoad_memOk, State.modW_memOk, dropRemotes_memOk]

theorem dropTop_memOk (h : s.memOk) : (dropTop s).memOk := refill_memOk h

theorem popEntry_memOk {e} (h : s.memOk) : (popEntry s e).memOk := by
  grind [popEntry, State.modW_memOk, dropTop_memOk]

theorem popCheck_memOk {a} (h : s.memOk) : (popCheck a s).memOk := by
  fun_induction popCheck <;> grind [popEntry_memOk]

theorem popAll_memOk (h : s.memOk) : (popAll s).memOk := popCheck_memOk h

theorem doubleFault_memOk {t} (h : s.memOk) : (doubleFault s t).memOk := sendEvent_memOk (killCtx_memOk h)

theorem sequencerFault_memOk {t} (h : s.memOk) : (sequencerFault s t).memOk := stopCtx_memOk h

theorem takeTrap_memOk {t} (h : s.memOk) : (takeTrap s t).memOk := by
  grind [takeTrap, Pushed.memOk, State.modW_memOk, sequencerFault_memOk, doubleFault_memOk, push1_memOk, stopCtx_memOk,
    stallPoison_memOk]

theorem raise_memOk {cause mask hq} (h : s.memOk) : (raise s cause mask hq).memOk := takeTrap_memOk h

theorem raise0_memOk {cause qs} (h : s.memOk) : (raise0 s cause qs).memOk := raise_memOk h

theorem raiseP_memOk {f} (h : s.memOk) : (raiseP s f).memOk := raise0_memOk h

theorem pushOr_memOk {es k} (hk : ∀ {t}, t.memOk → (k t).memOk) (h : s.memOk) : (pushOr s es k).memOk := by
  have hp : (pushAll s s.w.spillLimit es).memOk := pushAll_memOk h
  unfold pushOr
  split
  · next e => rw [e] at hp; exact hk hp
  · exact raise0_memOk h
  · next e => rw [e] at hp; exact raiseP_memOk hp
  · exact stallPoison_memOk h

theorem toTrapEntry_memOk {n} (h : s.memOk) : (toTrapEntry n s).memOk := by
  fun_induction toTrapEntry <;> grind [dropTop_memOk]

theorem dropCoreVAs_memOk {core ctx xs} (h : s.memOk) : (dropCoreVAs s core ctx xs).memOk := by
  fun_induction dropCoreVAs <;> grind [setCore_memOk]

theorem rereadStack_memOk (h : s.memOk) : (rereadStack s).1.memOk := by
  unfold rereadStack
  have hv := vaLoad_memOk (va := s.w.frameVA.toNat + 512) (n := 16) h
  split <;> grind [State.modW_memOk, dropRemotes_memOk]

theorem modChan_memOk {c f} (h : s.memOk) : (modChan s c f).memOk := by
  grind [modChan, modGroup_memOk]

theorem putSlot_memOk {ch i m x} (h : s.memOk) : (putSlot s ch i m x).memOk := by
  grind [putSlot, setWarp_memOk]

theorem fillSlot_memOk {c tag m x} (h : s.memOk) : (fillSlot s c tag m x).memOk := by
  grind [fillSlot, putSlot_memOk, modChan_memOk]

theorem putWord_memOk {r n x} (h : s.memOk) : (putWord s r n x).memOk := by
  grind [putWord, fillSlot_memOk, State.modW_memOk]

theorem zeroDest_memOk {r} (h : s.memOk) : (zeroDest s r).memOk := by
  unfold zeroDest
  extract_lets s1
  have h1 : s1.memOk := h
  split
  · exact foldl_memOk putWord_memOk h1 _
  · exact h1
  · exact h1

theorem zeroDests_memOk {xs} (h : s.memOk) : (zeroDests s xs).memOk := by
  fun_induction zeroDests <;> grind [zeroDest_memOk]

theorem returnFromTrap_memOk {reissue skip} (hre : ∀ {t rs}, t.memOk → (reissue t rs).memOk) (h : s.memOk) :
    (returnFromTrap reissue skip s).memOk := by
  unfold returnFromTrap
  extract_lets before src fail s1
  have hfail (f) : (fail f).memOk := doubleFault_memOk h
  have hb (w) : (stallPoison before w before.w.iss.pc).memOk := stallPoison_memOk h
  have hw {t : State} (w) (ht : t.memOk) : State.memOk { t with w := w } := ht
  have h1 : s1.memOk := toTrapEntry_memOk h
  clear_value fail s1
  split
  · split
    · exact hfail _
    · exact hb _
    · next e => exact stall_memOk (hw _ (memOk_of_fst e (refill_memOk h1)))
  · extract_lets stackCause s2
    have h2 : s2.memOk := by
      have hd := dropTop_memOk h1
      unfold s2
      split
      · exact dropCoreVAs_memOk (writeBackIf_memOk hd)
      · split
        · exact writeBackIf_memOk hd
        · exact hd
    have h3 : (if stackCause then rereadStack s2 else (s2, .ok ())).1.memOk := by
      split
      · exact rereadStack_memOk h2
      · exact h2
    clear_value s2 stackCause
    split
    · exact hfail _
    · exact hb _
    · next e => exact stall_memOk (hw _ (memOk_of_fst e h3))
    · next e =>
      have ht := memOk_of_fst e h3
      grind [State.modW_memOk, zeroDests_memOk, popAll_memOk, jump_memOk]

/-! Operands and results. -/

theorem tookDraw_memOk (h : s.memOk) : (tookDraw s).memOk := h

theorem takeSlots_memOk {xs} (h : s.memOk) : (takeSlots s xs).memOk := by
  fun_induction takeSlots <;> grind [modChan_memOk, State.modW_memOk]

theorem prep_memOk {srcs dsts} (h : s.memOk) : (prep s srcs dsts).memOk := by
  grind [prep, Prep.memOk, raise0_memOk, stall_memOk, takeSlots_memOk, block_memOk]

theorem addSlot_memOk {c ch q} (h : s.memOk) : (addSlot s c ch q).memOk := putSlot_memOk (modChan_memOk h)

theorem writeV_memOk {n x} (h : s.memOk) : (writeV s n x).memOk := by
  grind [writeV, State.modW_memOk, putSlot_memOk, addSlot_memOk]

theorem reserveSlot_memOk {c} (h : s.memOk) : (reserveSlot s c).1.memOk := by
  grind [reserveSlot, State.modW_memOk, modChan_memOk, addSlot_memOk]

theorem reserveSlots_memOk {xs ys} (h : s.memOk) : (reserveSlots s xs ys).1.memOk := by
  fun_induction reserveSlots <;> grind [reserveSlot_memOk]

theorem putResult_memOk {d tr xs} (h : s.memOk) : (putResult s d tr xs).memOk := by
  cases d with
  | queue => exact pushQ_memOk h
  | vec n => exact pushQ_memOk (foldl_memOk writeV_memOk h _)
  | _ => exact h

theorem drawIf_memOk {r some_} (h : s.memOk) : (drawIf s r some_).memOk := by
  grind [drawIf, tookDraw_memOk]

theorem aluVec_memOk {k o} (h : s.memOk) : (aluVec k o s).memOk := by
  grind [aluVec, Prep.memOk, prep_memOk, putResult_memOk, advance_memOk, drawIf_memOk, raiseFlags_memOk]

theorem aluUni_memOk {k o} (h : s.memOk) : (aluUni k o s).memOk := by
  grind [aluUni, setS_memOk, advance_memOk, drawIf_memOk, raiseFlags_memOk]

theorem alu_memOk {k o} (h : s.memOk) : (alu k o s).memOk := by
  grind [alu, aluUni_memOk, aluVec_memOk]

theorem writeMask_memOk {k m} (h : s.memOk) : (writeMask s k m).memOk := h

/-! Integer immediates. -/

theorem immExec_memOk {i g} (h : s.memOk) : (immExec i g s).memOk := alu_memOk h

@[simp] theorem execIcmpi_memOk {i} (h : s.memOk) : Out.memOk (execIcmpi i s) := by
  grind [execIcmpi, Out.memOk, Prep.memOk, advance_memOk, setS_memOk, prep_memOk, writeMask_memOk]

/-! Compares and masks. -/

theorem compare_memOk {o wide g} (h : s.memOk) : (compare o wide g s).memOk := by
  grind [compare, Prep.memOk, setS_memOk, advance_memOk, raiseFlags_memOk, prep_memOk, writeMask_memOk]

theorem intCompare_memOk {o sgn} (h : s.memOk) : (intCompare o sgn s).memOk := by
  grind [intCompare, compare_memOk]

theorem maskToLanes_memOk {o g} (h : s.memOk) : (maskToLanes o g s).memOk := by
  grind [maskToLanes, Prep.memOk, prep_memOk, advance_memOk, putResult_memOk]

theorem maskOp2_memOk {o g} (h : s.memOk) : (maskOp2 o g s).memOk := by
  grind [maskOp2, advance_memOk, setM_memOk]

@[simp] theorem execMlit_memOk {lit half d} (h : s.memOk) : Out.memOk (execMlit lit half d s) := by
  grind [execMlit, Out.memOk, setS_memOk, advance_memOk]

/-! Loads, stores and atomics. -/

theorem faulted_memOk {fs} (h : s.memOk) : (faulted s fs).memOk := by
  grind [faulted, Done.memOk]

theorem scalarFault_memOk {f} (h : s.memOk) : (scalarFault s f).memOk := faulted_memOk h

theorem checkLanes_memOk {α : Type} {f : State → Nat → State × Except LFault α} (hf : ∀ {s l}, s.memOk → (f s l).1.memOk)
    {ls oks bad} (h : s.memOk) : (checkLanes f ls s oks bad).1.memOk := by
  induction ls generalizing s oks bad with
  | nil => exact h
  | cons l ls ih =>
    have hl := hf (l := l) h
    grind [checkLanes]

theorem checkAligned_memOk {k size va} (h : s.memOk) : (checkAligned k size va s).1.memOk := by
  grind [checkAligned, translate_memOk]

theorem homePiece_memOk {pa n} (h : s.memOk) : (homePiece s pa n).1.memOk := by
  grind [homePiece, fetchRemote_memOk, touch_memOk]

theorem readPiece_memOk {hint pa n} (h : s.memOk) : (readPiece s hint pa n).1.memOk := by
  grind [readPiece, homePiece_memOk, fetchRemote_memOk, coreLoad_memOk]

theorem readPieces_memOk {hint xs ys a} (h : s.memOk) : (readPieces hint xs s ys a).1.memOk := by
  fun_induction readPieces <;> grind [readPiece_memOk]

theorem performNt_memOk {p} (h : s.memOk) : (performNt s p).memOk :=
  foldl_memOk (fun hs => staleBytes_memOk (memOk_physWrite hs)) h _

theorem performNtRange_memOk {pa n} (h : s.memOk) : (performNtRange s pa n).memOk := by
  grind [performNtRange, performNt_memOk]

theorem writePiece_memOk {hint pa bs} (h : s.memOk) : (writePiece s hint pa bs).memOk := by
  grind [writePiece, remoteWrite_memOk, memOk_physWrite, performNtRange_memOk, coreStore_memOk]

theorem writeNt_memOk {pa bs} (h : s.memOk) : (writeNt s pa bs).memOk := by
  grind [writeNt, remoteWrite_memOk, staleBytes_memOk, writeBackPa_memOk, State.modW_memOk]

theorem fillYoungest_memOk {m x} (h : s.memOk) : (fillYoungest s m x).memOk := by
  grind [fillYoungest, State.modW_memOk]

theorem deliver_memOk {r words val} (h : s.memOk) : (deliver s r words val).memOk := by
  unfold deliver
  extract_lets word s1
  have h1 : s1.memOk := by
    show State.memOk (if r.pushes then _ else _)
    split
    · exact fillYoungest_memOk h
    · exact h
  cases r.dst with
  | vec n => exact foldl_memOk putWord_memOk h1 _
  | sca n => exact setS_memOk h1
  | _ => exact h1

theorem doLoad_memOk {r va size hint} (h : s.memOk) : (doLoad s r va size hint).memOk := by
  unfold doLoad
  split
  next hc =>
  have h1 := memOk_of_fst hc (checkLanes_memOk checkAligned_memOk h)
  grind [Done.memOk, readPieces_memOk, deliver_memOk, dropRemotes_memOk, faulted_memOk]

theorem doStore_memOk {r va size data hint nt} (h : s.memOk) : (doStore s r va size data hint nt).memOk := by
  unfold doStore
  extract_lets lanes
  split
  next hc =>
  have h1 := memOk_of_fst hc (checkLanes_memOk checkAligned_memOk h)
  split
  · exact faulted_memOk h1
  · refine foldl_memOk (fun {t p} ht => ?_) h1 _
    extract_lets bs
    split
    · exact writeNt_memOk ht
    · exact writePiece_memOk ht

theorem doScratchLoad_memOk {r off size} (h : s.memOk) : (doScratchLoad s r off size).memOk := by
  grind [doScratchLoad, Done.memOk, faulted_memOk, deliver_memOk]

theorem doScratchStore_memOk {r off size data} (h : s.memOk) : (doScratchStore s r off size data).memOk := by
  grind [doScratchStore, Done.memOk, faulted_memOk, modGroup_memOk]

theorem doUload_memOk {r va size} (h : s.memOk) : (doUload s r va size).memOk := by
  grind [doUload, Done.memOk, checkAligned_memOk, scalarFault_memOk, readPiece_memOk, deliver_memOk, dropRemotes_memOk]

theorem doUstore_memOk {va size data} (h : s.memOk) : (doUstore s va size data).memOk := by
  grind [doUstore, Done.memOk, checkAligned_memOk, scalarFault_memOk, writePiece_memOk]

theorem checkAtomic_memOk {size va} (h : s.memOk) : (checkAtomic size va s).1.memOk := by
  grind [checkAtomic, checkAligned_memOk]

theorem homePieces_memOk {xs a} (h : s.memOk) : (homePieces xs s a).1.memOk := by
  fun_induction homePieces <;> grind [homePiece_memOk]

theorem homeWrite_memOk {pa bs} (h : s.memOk) : (homeWrite s pa bs).memOk := by
  grind [homeWrite, staleBytes_memOk, remoteWrite_memOk, memOk_physWrite]

theorem atomicLanes_memOk {op sgn size d c xs ys zs} (h : s.memOk) : (atomicLanes op sgn size d c xs s ys zs).1.memOk := by
  fun_induction atomicLanes <;> grind [homeWrite_memOk, performNtRange_memOk, writeBackPa_memOk]

theorem doAtomic_memOk {r op va size sgn d c ord} (h : s.memOk) : (doAtomic s r op va size sgn d c ord).memOk := by
  unfold doAtomic
  extract_lets lanes
  split
  next hc =>
  have h1 := memOk_of_fst hc (checkLanes_memOk checkAtomic_memOk h)
  split
  · exact faulted_memOk h1
  · grind [Done.memOk, homePieces_memOk, writeBackCtx_memOk, atomicLanes_memOk, genBump_memOk, deliver_memOk, dropRemotes_memOk]

/-! Elements and layout records. -/

theorem xlateBy_memOk {u k as_ va n} (h : s.memOk) : (xlateBy u s k as_ va n).1.memOk := by
  grind [xlateBy, translate_memOk]

theorem xlateLane_memOk {k as_ va n} (h : s.memOk) : (xlateLane s k as_ va n).1.memOk := xlateBy_memOk h

theorem elemFind_memOk {k b0 e fmt geom forced} (h : s.memOk) : (elemFind s k b0 e fmt geom forced).1.memOk := by
  grind [elemFind, xlateLane_memOk]

theorem rawElem_memOk {k b0} (h : s.memOk) : (rawElem s k b0).1.memOk := by
  grind [rawElem, xlateLane_memOk]

theorem elemCheck_memOk {k b0 e forced} (h : s.memOk) : (elemCheck s k b0 e forced).1.memOk := by
  unfold elemCheck
  split
  · exact h
  · grind [rawElem_memOk, xlateLane_memOk, elemFind_memOk]

theorem loadElems_memOk {r hint oks pad} (h : s.memOk) : (loadElems s r hint oks pad).memOk := by
  grind [loadElems, Done.memOk, readPieces_memOk, deliver_memOk, dropRemotes_memOk]

theorem writeElem_memOk {hint p written x} (h : s.memOk) : (writeElem s hint p written x).1.memOk := by
  grind [writeElem, writeBackPa_memOk, performNtRange_memOk, homeWrite_memOk, writePiece_memOk]

theorem storeElems_memOk {hint mode data rs xs ys a} (h : s.memOk) : (storeElems hint mode data rs xs s ys a).1.memOk := by
  fun_induction storeElems <;> grind [writeElem_memOk]

theorem putElems_memOk {hint oks data mode} (h : s.memOk) : (putElems s hint oks data mode).memOk := by
  grind [putElems, Done.memOk, readPieces_memOk, storeElems_memOk, raiseFlags_memOk, dropRemotes_memOk]

theorem doLoadElem_memOk {r b0 e hint} (h : s.memOk) : (doLoadElem s r b0 e hint).memOk := by
  unfold doLoadElem
  split
  next hc =>
  have h1 := memOk_of_fst hc (checkLanes_memOk elemCheck_memOk h)
  split
  · exact faulted_memOk h1
  · exact loadElems_memOk h1

theorem doStoreElem_memOk {r b0 e data hint} (h : s.memOk) : (doStoreElem s r b0 e data hint).memOk := by
  unfold doStoreElem
  split
  next hc =>
  have h1 := memOk_of_fst hc (checkLanes_memOk elemCheck_memOk h)
  split
  · exact faulted_memOk h1
  · exact putElems_memOk h1

theorem readRecord_memOk {a} (h : s.memOk) : (readRecord s a).1.memOk := by
  grind [readRecord, xlateLane_memOk, readPiece_memOk, staleBytes_memOk, freeChoice_memOk, setCore_memOk]

theorem layoutCheck_memOk {k a coord l} (h : s.memOk) : (layoutCheck k a coord l s).1.memOk := by
  grind [layoutCheck, readRecord_memOk, elemCheck_memOk]

theorem doLdt_memOk {r hs coord} (h : s.memOk) : (doLdt s r hs coord).memOk := by
  unfold doLdt
  split
  next hc =>
  have h1 := memOk_of_fst hc (checkLanes_memOk layoutCheck_memOk h)
  grind [Done.memOk, faulted_memOk, loadElems_memOk]

theorem doStt_memOk {r hs coord data rnd seed} (h : s.memOk) : (doStt s r hs coord data rnd seed).memOk := by
  unfold doStt
  split
  next hc =>
  have h1 := memOk_of_fst hc (checkLanes_memOk layoutCheck_memOk h)
  split
  · exact faulted_memOk h1
  · exact h1
  · exact h1
  · exact putElems_memOk h1

theorem dropHandle_memOk {a} (h : s.memOk) : (dropHandle s a).memOk := h

theorem invalidateRecord_memOk {a pa} (h : s.memOk) : (invalidateRecord s a pa).memOk := by
  grind [invalidateRecord, performNtRange_memOk, dropHandle_memOk, writeBackPa_memOk]

theorem doLhinv_memOk {a} (h : s.memOk) : (doLhinv s a).memOk := by
  grind [doLhinv, Done.memOk, scalarFault_memOk, xlateLane_memOk, invalidateRecord_memOk]

theorem doLhbind_memOk {a src} (h : s.memOk) : (doLhbind s a src).memOk := by
  grind [doLhbind, Done.memOk, scalarFault_memOk, vaLoadN_memOk, performNt_memOk, xlateLane_memOk, invalidateRecord_memOk,
    writePiece_memOk, dropRemotes_memOk]

theorem doLhq_memOk {r hs k} (h : s.memOk) : (doLhq s r hs k).memOk := by
  unfold doLhq
  extract_lets one
  have hone {t : State} {l : Nat} (ht : t.memOk) : (one t l).1.memOk := by grind [readRecord_memOk]
  clear_value one
  split
  next hc =>
  have h1 := memOk_of_fst hc (checkLanes_memOk hone h)
  grind [Done.memOk, faulted_memOk, deliver_memOk, dropRemotes_memOk]

/-! Elementary functions. -/

theorem elementary_memOk {o g} (h : s.memOk) : (elementary o g s).memOk := alu_memOk h

/-! Images. -/

theorem homeFirst_memOk {pa n} (h : s.memOk) : (homeFirst s pa n).memOk := by
  have h1 : (performNtRange s pa n).memOk := performNtRange_memOk h
  unfold homeFirst
  split
  · exact staleBytes_memOk (foldl_memOk writeBackPa_memOk h1 _)
  · exact h1

theorem texCheck_memOk {k d n x y} (h : s.memOk) : (texCheck s k d n x y).1.memOk := by
  grind [texCheck, xlateBy_memOk, homePiece_memOk, homeFirst_memOk]

theorem texRead_memOk {d t} (h : s.memOk) : (texRead d s t).1.memOk := by
  cases t with
  | outside | poison | wait => exact h
  | word pa => grind [texRead, readPiece_memOk]
  | comp tile q m off => grind [texRead, homePiece_memOk, homeFirst_memOk]

theorem gotAll_memOk {α β : Type} {f : State → α → State × Got β} (hf : ∀ {s a}, s.memOk → (f s a).1.memOk)
    {xs acc waits} (h : s.memOk) : (gotAll f xs s acc waits).1.memOk := by
  induction xs generalizing s acc waits with
  | nil => exact h
  | cons x xs ih =>
    have hx := hf (a := x) h
    grind [gotAll]

theorem getDesc_memOk {va} (h : s.memOk) : (getDesc s va).1.memOk := by
  grind [getDesc, xlateBy_memOk, readPiece_memOk]

theorem withTexels_memOk {d oks bad k} (hk : ∀ {t vals}, t.memOk → (k t vals).memOk) (h : s.memOk) :
    (withTexels s d oks bad k).memOk := by
  unfold withTexels
  split
  · exact faulted_memOk h
  · extract_lets one lane
    have hone {t : State} {x : TexAt × Nat} (ht : t.memOk) : (one t x).1.memOk := by grind [texRead_memOk]
    have hlane {t : State} {p : Nat × List (TexAt × Nat)} (ht : t.memOk) : (lane t p).1.memOk := by
      have := gotAll_memOk (f := one) (xs := p.2) (acc := []) (waits := false) hone ht
      grind
    have hall := gotAll_memOk (f := lane) (xs := oks) (acc := []) (waits := false) hlane h
    grind [Done.memOk, dropRemotes_memOk]

theorem doImgld_memOk {r desc lvl x y} (h : s.memOk) : (doImgld s r desc lvl x y).memOk := by
  have hd := getDesc_memOk (va := desc) h
  unfold doImgld
  split
  · exact deliver_memOk h
  · split
    · grind [Done.memOk]
    · grind [Done.memOk]
    · grind [Done.memOk, deliver_memOk, faulted_memOk]
    · next t d hg =>
      have ht := memOk_of_fst hg hd
      extract_lets one
      have hone {t : State} {l : Nat} (ht : t.memOk) : (one t l).1.memOk := by grind [texCheck_memOk]
      clear_value one
      split
      next hc =>
      exact withTexels_memOk deliver_memOk (memOk_of_fst hc (checkLanes_memOk hone ht))

theorem updateTile_memOk {clear tile mode m writes} (h : s.memOk) : (updateTile s clear tile mode m writes).memOk := by
  grind [updateTile, homeWrite_memOk, staleBytes_memOk]

theorem doImgst_memOk {r desc lvl x y data} (h : s.memOk) : (doImgst s r desc lvl x y data).memOk := by
  have hd := getDesc_memOk (va := desc) h
  unfold doImgst
  extract_lets lanes
  split
  · exact h
  · split
    · grind [Done.memOk]
    · grind [Done.memOk]
    · grind [Done.memOk, faulted_memOk]
    · next t d hg =>
      have ht := memOk_of_fst hg hd
      extract_lets one
      split
      next hc =>
      have h1 := memOk_of_fst hc (checkLanes_memOk texCheck_memOk ht)
      split
      · exact faulted_memOk h1
      · extract_lets words comps
        split
        · next e => exact memOk_of_fst e (gotAll_memOk texRead_memOk h1)
        · next e =>
          have h2 := memOk_of_fst e (gotAll_memOk texRead_memOk h1)
          exact dropRemotes_memOk (foldl_memOk (fun ht => updateTile_memOk (homeFirst_memOk ht)) (foldl_memOk writePiece_memOk h2 _) _)
        · next e => exact memOk_of_fst e (gotAll_memOk texRead_memOk h1)

theorem doSample_memOk {r form desc addr near u v l0 l1 l2 l3} (h : s.memOk) :
    (doSample s r form desc addr near u v l0 l1 l2 l3).memOk := by
  have hd := getDesc_memOk (va := desc) h
  unfold doSample
  split
  · exact deliver_memOk h
  · split
    · grind [Done.memOk]
    · grind [Done.memOk]
    · grind [Done.memOk, deliver_memOk, faulted_memOk]
    · next t d hg =>
      have ht := memOk_of_fst hg hd
      extract_lets val diff grads finite one
      have hone {t : State} {l : Nat} (ht : t.memOk) : (one t l).1.memOk := by
        unfold one
        split
        · exact ht
        · extract_lets g grad lod
          split
          next hc =>
          have h1 := memOk_of_fst hc (checkLanes_memOk (fun {t i} ht => by grind [texCheck_memOk]) ht)
          split <;> exact h1
      clear_value one
      split
      next hc =>
      exact withTexels_memOk deliver_memOk (memOk_of_fst hc (checkLanes_memOk hone ht))

/-! Nodes, frames and workgroups. -/

theorem modFrameArea_memOk {ctx f} (h : s.memOk) : (modFrameArea s ctx f).memOk := modCtx_memOk h

theorem modStackPool_memOk {ctx f} (h : s.memOk) : (modStackPool s ctx f).memOk := modCtx_memOk h

theorem modSavePool_memOk {ctx f} (h : s.memOk) : (modSavePool s ctx f).memOk := modCtx_memOk h

theorem readNode_memOk {u who cl ctx a} (h : s.memOk) : (readNode s u who cl ctx a).1.memOk := by
  grind [readNode, unitRead_memOk, modCluster_memOk, dropRemotes_memOk]

theorem warpNode_memOk {a} (h : s.memOk) : (warpNode s a).1.memOk := by
  grind [warpNode, readNode_memOk, writeBackCtx_memOk]

theorem addRecord_memOk {cl ctx node timer r} (h : s.memOk) : (addRecord s cl ctx node timer r).memOk := h

theorem countUp_memOk {fr slot} (h : s.memOk) : (countUp s fr slot).memOk := by
  grind [countUp, setFrame_memOk]

theorem saveFrame_memOk {f} (h : s.memOk) : (saveFrame s f).memOk := unitWrite_memOk h

theorem countDown_memOk {fr slot} (h : s.memOk) : (countDown s fr slot).memOk := by
  grind [countDown, setFrame_memOk, saveFrame_memOk]

theorem resaveCounts_memOk {k} (h : s.memOk) : (resaveCounts s k).memOk := by
  grind [resaveCounts, unitWrite_memOk]

theorem joinCore_memOk {key core g} (h : s.memOk) : (joinCore s key core g).memOk := fitL1_memOk h

theorem gainSet_memOk {cl ctx matrix} (h : s.memOk) : (gainSet s cl ctx matrix).memOk := by
  grind [gainSet, clearSetOf_memOk]

theorem takeAreas_memOk {ctx stack} (h : s.memOk) {t x} (e : takeAreas s ctx stack = some (t, x)) : t.memOk := by
  grind [takeAreas, modStackPool_memOk, modFrameArea_memOk]

theorem launchWarp_memOk {b fr k} (h : s.memOk) {t} (e : launchWarp s b fr k = some t) : t.memOk := by
  unfold launchWarp at e
  split at e
  · cases e
  · next ha =>
    obtain rfl := Option.some.inj e
    refine genBump_memOk (modGroup_memOk (setWarp_memOk ?_))
    have h1 := takeAreas_memOk h ha
    grind [State.memOk, unitWrite_memOk, setFrame_memOk, stopCtx_memOk, poisonStop_memOk]

theorem dropFrame_memOk {fr f} (h : s.memOk) : (dropFrame s fr f).memOk := modFrameArea_memOk h

theorem barCheck_memOk {g slot} (h : s.memOk) : (barCheck s g slot).memOk := by
  grind [barCheck, setGroup_memOk]

theorem barChecks_memOk {g xs} (h : s.memOk) : (barChecks s g xs).memOk := by
  fun_induction barChecks <;> grind [barCheck_memOk]

theorem leaveGroup_memOk {g lg regs me} (h : s.memOk) : (leaveGroup s g lg regs me).memOk := by
  grind [leaveGroup, State.memOk, setGroup_memOk, barChecks_memOk]

theorem releaseWarp_memOk (h : s.memOk) : (releaseWarp s).memOk := by
  grind [releaseWarp, State.memOk, writeBackCtx_memOk, returnLease_memOk, modStackPool_memOk, leaveGroup_memOk]

theorem popToLane_memOk {a} (h : s.memOk) : (popToLane a s).memOk := by
  fun_induction popToLane <;> grind [dropTop_memOk, popEntry_memOk, State.modW_memOk]

theorem noteExit_memOk {fr m} (h : s.memOk) : (noteExit s fr m).memOk := by
  grind [noteExit, setFrame_memOk]

theorem finishExit_memOk (h : s.memOk) : (finishExit s).memOk := by
  grind [finishExit, popToLane_memOk, popAll_memOk, State.modW_memOk, releaseWarp_memOk, noteExit_memOk]

theorem exitLanes_memOk {m} (h : s.memOk) : (exitLanes s m).memOk := by
  grind [exitLanes, performNt_memOk, writeBackCtx_memOk, noteExit_memOk, finishExit_memOk, State.modW_memOk]

/-! Scenes. -/

theorem sceneBytes_memOk {xs ys} (h : s.memOk) : (sceneBytes s xs ys).1.memOk := by
  fun_induction sceneBytes <;> grind [readPiece_memOk, translate_memOk]

theorem sceneRead_memOk {va n} (h : s.memOk) : (sceneRead s va n).1.memOk := sceneBytes_memOk h

theorem visitNode_memOk {r ref} (h : s.memOk) : (visitNode s r ref).1.memOk := by
  unfold visitNode
  extract_lets va stop
  have hstop {α : Type} {t : State} (g : Got α) (ht : t.memOk) : (stop t g).1.memOk := by cases g <;> exact ht
  clear_value stop
  split
  · exact h
  · split <;> grind [sceneRead_memOk]

theorem walkScene_memOk {r a xs ys b} (h : s.memOk) : (walkScene r a xs s ys b).1.memOk := by
  fun_induction walkScene <;> grind [visitNode_memOk]

theorem takeHit_memOk {any hits} (h : s.memOk) : (takeHit s any hits).1.memOk := by
  grind [takeHit, freeChoice_memOk]

theorem getScene_memOk {va} (h : s.memOk) : (getScene s va).1.memOk := by
  grind [getScene, sceneRead_memOk]

theorem traceLane_memOk {sc any ray} (h : s.memOk) : (traceLane s sc any ray).1.memOk := by
  grind [traceLane, walkScene_memOk, takeHit_memOk]

theorem hitTarget_memOk {sc a} (h : s.memOk) : (hitTarget s sc a).1.memOk := by
  grind [hitTarget, sceneRead_memOk, warpNode_memOk]

theorem traceSpill_memOk {deeps} (h : s.memOk) : (traceSpill s deeps).2.memOk := by
  grind [traceSpill, freeChoice_memOk]

/-- By the recursor that defines `writeSpill`: its equation lemmas are too costly to generate. -/
theorem writeSpill_memOk {n top} (h : s.memOk) : (writeSpill n s top).1.memOk := by
  have hfree {t : State} (ht : t.memOk) : State.memOk { t with free := t.free + 32 } := ht
  delta writeSpill
  dsimp only [Nat.brecOn]
  induction n generalizing s top with
  | zero => exact h
  | succ n ih =>
    dsimp only [writeSpill._f]
    split
    · next e => exact ih (memOk_of_fst e (vaStore_memOk (hfree h)))
    · next e => exact memOk_of_fst e (vaStore_memOk (hfree h))
    · next e => exact memOk_of_fst e (vaStore_memOk (hfree h))
    · next e => exact memOk_of_fst e (vaStore_memOk (hfree h))

theorem emitHits_memOk {cltab ray par xs} (h : s.memOk) : (emitHits s cltab ray par xs).memOk := by
  fun_induction emitHits <;> grind [countUp_memOk, addRecord_memOk]

theorem doTrace_memOk {r root emit any ray par} (h : s.memOk) : (doTrace s r root emit any ray par).memOk := by
  have hd := getScene_memOk (va := root) h
  unfold doTrace
  split
  · exact deliver_memOk h
  · split
    · grind [TraceEnd.memOk, Done.memOk]
    · grind [TraceEnd.memOk, Done.memOk]
    · grind [TraceEnd.memOk, Done.memOk, deliver_memOk, faulted_memOk]
    · next t sc hg =>
      have ht := memOk_of_fst hg hd
      extract_lets one
      have hone {t : State} {l : Nat} (ht : t.memOk) : (one t l).1.memOk := by grind [traceLane_memOk]
      clear_value one
      split
      next hc =>
      have h1 := memOk_of_fst hc (checkLanes_memOk hone ht)
      split
      · exact faulted_memOk h1
      · extract_lets hitOf stop waits emits tgt
        have htgt {t : State} {l : Nat} (ht : t.memOk) : (tgt t l).1.memOk := by grind [hitTarget_memOk]
        clear_value tgt stop waits emits
        split
        · exact h1
        · exact h1
        · split
          next hc =>
          have h2 := memOk_of_fst hc (checkLanes_memOk htgt h1)
          split
          · exact faulted_memOk h2
          · grind [TraceEnd.memOk, Done.memOk, deliver_memOk, traceSpill_memOk, writeSpill_memOk, emitHits_memOk,
            scalarFault_memOk, writeBackCtx_memOk, dropRemotes_memOk]

/-! Logged accesses, and their re-issue. -/

theorem pollMem_memOk {va size cond v} (h : s.memOk) : (pollMem s va size cond v).memOk := by
  grind [pollMem, Poll.memOk, checkAligned_memOk, homePiece_memOk, homeFirst_memOk, dropRemotes_memOk]

theorem doWaitmem_memOk {r va size cond v acq} (h : s.memOk) : (doWaitmem s r va size cond v acq).memOk := by
  grind [doWaitmem, Done.memOk, Poll.memOk, pollMem_memOk, genBump_memOk, State.modW_memOk, scalarFault_memOk]

theorem startTile_memOk {r tile ofs ty b0 n} (h : s.memOk) : (startTile s r tile ofs ty b0 n).memOk := by
  grind [startTile, Done.memOk, scalarFault_memOk, State.modW_memOk]

theorem performReq_memOk {r} (h : s.memOk) : (performReq s r).memOk := by
  unfold performReq
  split
  · exact doLoad_memOk h
  · exact doStore_memOk h
  · exact doScratchLoad_memOk h
  · exact doScratchStore_memOk h
  · exact doUload_memOk h
  · exact doUstore_memOk h
  · exact doLoadElem_memOk h
  · exact doStoreElem_memOk h
  · exact doAtomic_memOk h
  · exact doLdt_memOk h
  · exact doStt_memOk h
  · exact doLhbind_memOk h
  · exact doLhinv_memOk h
  · exact doLhq_memOk h
  · exact startTile_memOk h
  · exact doWaitmem_memOk h
  · exact doSample_memOk h
  · exact doImgld_memOk h
  · exact doImgst_memOk h
  · exact doTrace_memOk h

theorem waitRemote_memOk {r} (h : s.memOk) : (waitRemote s r).memOk := h

theorem logFault_memOk {r fs} (h : s.memOk) : (logFault s r fs).memOk := takeTrap_memOk h

theorem issueReq_memOk {r} (h : s.memOk) : (issueReq s r).memOk := by
  unfold issueReq
  extract_lets s1
  have h1 : s1.memOk := h
  have hp := performReq_memOk (r := r) h1
  clear_value s1
  split
  · exact advance_memOk h1
  · split <;> grind [TraceEnd.memOk, Done.memOk, logFault_memOk, advance_memOk, stallPoison_memOk, raise0_memOk, stall_memOk,
    waitRemote_memOk]

theorem performAll_memOk {rs ts} (h : s.memOk) : (performAll rs s ts).memOk := by
  induction rs generalizing s ts with
  | nil => cases ts <;> simp [performAll, Reissued.memOk, h]
  | cons r rs ih =>
    have hr : (performReq s r).memOk := performReq_memOk h
    unfold performAll
    split <;> grind [TraceEnd.memOk, Done.memOk, Reissued.memOk, waitRemote_memOk]

theorem reexecute_memOk {r t} (h : s.memOk) : (reexecute s r t).memOk := takeTrap_memOk h

theorem reissue_memOk {rs} (h : s.memOk) : (reissue s rs).memOk := by
  grind [reissue, Reissued.memOk, performAll_memOk, reexecute_memOk, takeTrap_memOk, State.modW_memOk, stallPoison_memOk,
    stall_memOk]

theorem noted_memOk {op dst pushes tr} (h : s.memOk) : (noted s op dst pushes tr).1.memOk := by
  grind [noted, State.modW_memOk, reserveSlots_memOk, pushQ_memOk]

theorem logged_memOk {op dst pushes tr} (h : s.memOk) : (logged s op dst pushes tr).memOk :=
  issueReq_memOk (noted_memOk h)

theorem endReturn_memOk {t} (h : s.memOk) (ht : t.memOk) : (endReturn s t).memOk := by
  grind [endReturn, poisonStop_memOk, popAll_memOk]

@[simp] theorem execLoadReturn_memOk {warp} (h : s.memOk) : Out.memOk (execLoadReturn warp s) := by
  grind [execLoadReturn, Out.memOk, focus_memOk, endReturn_memOk, reissue_memOk, State.modW_memOk]

@[simp] theorem execWaitmemRecheck_memOk {warp} (h : s.memOk) : Out.memOk (execWaitmemRecheck warp s) := by
  unfold execWaitmemRecheck
  show State.memOk _
  split
  · split
    · split
      · next va size cond v acq _ =>
        have hp := pollMem_memOk (va := va) (size := size) (cond := cond) (v := v) (focus_memOk (k := warp) h)
        split <;> grind [Poll.memOk, takeTrap_memOk, genBump_memOk, poisonStop_memOk, State.modW_memOk, endReturn_memOk]
      · exact h
    · exact h
  · exact h

theorem waitmemReq_memOk {v w64 acq cond sa} (h : s.memOk) : (waitmemReq s v w64 acq cond sa).memOk := logged_memOk h

@[simp] theorem execRtt_memOk {skip} (h : s.memOk) : Out.memOk (execRtt skip s) := returnFromTrap_memOk reissue_memOk h

theorem loadForm_memOk {m adrRegs op} (h : s.memOk) : (loadForm m adrRegs op s).memOk := by
  grind [loadForm, Prep.memOk, prep_memOk, logged_memOk]

theorem storeForm_memOk {m adrRegs op} (h : s.memOk) : (storeForm m adrRegs op s).memOk := by
  grind [storeForm, Prep.memOk, prep_memOk, logged_memOk]

theorem prefetch_memOk {hint xs} (h : s.memOk) : (prefetch hint xs s).memOk := by
  fun_induction prefetch <;> grind [openLine_memOk, l2Access_memOk, translatePrefetch_memOk]

@[simp] theorem execPrf_memOk {lit adr base hint} (h : s.memOk) : Out.memOk (execPrf lit adr base hint s) := by
  grind [execPrf, Out.memOk, Prep.memOk, prep_memOk, advance_memOk, prefetch_memOk]

theorem atomForm_memOk {op a} (h : s.memOk) : (atomForm op a s).memOk := by
  cases a <;> grind [atomForm, Prep.memOk, prep_memOk, logged_memOk]

@[simp] theorem execLdt_memOk {lit a c d tr} (h : s.memOk) : Out.memOk (execLdt lit a c d tr s) := by
  grind [execLdt, Out.memOk, Prep.memOk, prep_memOk, logged_memOk]

@[simp] theorem execStt_memOk {lit a c src rnd _tr} (h : s.memOk) : Out.memOk (execStt lit a c src rnd _tr s) := by
  grind [execStt, Out.memOk, Prep.memOk, prep_memOk, logged_memOk, drawIf_memOk]

@[simp] theorem execLhq_memOk {lit a i d tr} (h : s.memOk) : Out.memOk (execLhq lit a i d tr s) := by
  grind [execLhq, Out.memOk, Prep.memOk, prep_memOk, logged_memOk]

theorem sampleForm_memOk {m form more l} (h : s.memOk) : (sampleForm m form more l s).memOk := by
  grind [sampleForm, Prep.memOk, prep_memOk, logged_memOk]

@[simp] theorem execImgld_memOk {lit si lvl x y d tr} (h : s.memOk) : Out.memOk (execImgld lit si lvl x y d tr s) := by
  grind [execImgld, Out.memOk, Prep.memOk, prep_memOk, logged_memOk]

@[simp] theorem execImgst_memOk {lit si lvl x y src _tr} (h : s.memOk) : Out.memOk (execImgst lit si lvl x y src _tr s) := by
  grind [execImgst, Out.memOk, Prep.memOk, prep_memOk, logged_memOk]

@[simp] theorem execTrace_memOk {_lit sr emit any vr vp vd tr} (h : s.memOk) :
    Out.memOk (execTrace _lit sr emit any vr vp vd tr s) := by
  unfold execTrace
  extract_lets d
  clear_value d
  grind [Out.memOk, Prep.memOk, prep_memOk, logged_memOk]

@[simp] theorem execHitrd_memOk {lit x d tr} (h : s.memOk) : Out.memOk (execHitrd lit x d tr s) := by
  grind [execHitrd, Out.memOk, Prep.memOk, prep_memOk, advance_memOk, putResult_memOk]

/-! System instructions. -/

@[simp] theorem execExit_memOk (h : s.memOk) : Out.memOk (execExit s) := by
  grind [execExit, Out.memOk, State.modW_memOk, advance_memOk, exitLanes_memOk]

@[simp] theorem execBrk_memOk {code} (h : s.memOk) : Out.memOk (execBrk code s) := by
  grind [execBrk, Out.memOk, advance_memOk, takeTrap_memOk]

theorem fillIcache_memOk {cl ctx line} (h : s.memOk) : (fillIcache s cl ctx line).memOk := by
  grind [fillIcache, freeChoice_memOk, setCluster_memOk]

@[simp] theorem execIcacheFill_memOk {cl ctx line} (h : s.memOk) : Out.memOk (execIcacheFill cl ctx line s) := fillIcache_memOk h

theorem fillCode_memOk {va a} (h : s.memOk) : (fillCode s va a).memOk := by
  fun_induction fillCode <;> grind [fillIcache_memOk, translatePrefetch_memOk]

@[simp] theorem execSrd_memOk {half spr sd} (h : s.memOk) : Out.memOk (execSrd half spr sd s) := by
  grind [execSrd, Out.memOk, advance_memOk, setS_memOk]

theorem repauseW_memOk (h : s.memOk) : (repauseW s).memOk := h

@[simp] theorem execLease_memOk {units level sd} (h : s.memOk) : Out.memOk (execLease units level sd s) := by
  grind [execLease, Out.memOk, advance_memOk, setS_memOk, setCluster_memOk, State.modW_memOk, repauseW_memOk]

theorem grantClaim_memOk {g n sd} (h : s.memOk) : (grantClaim s g n sd).memOk := modGroup_memOk h

theorem leaveClaims_memOk {g idx} (h : s.memOk) : (leaveClaims s g idx).memOk := modGroup_memOk h

theorem claimFor_memOk {sd n limit} (h : s.memOk) : (claimFor sd n limit s).memOk := by
  grind [claimFor, advance_memOk, setS_memOk, grantClaim_memOk, modGroup_memOk, State.modW_memOk]

theorem serveClaim_memOk {n sd status} (h : s.memOk) : (serveClaim s n sd status).memOk := by
  grind [serveClaim, leaveClaims_memOk, grantClaim_memOk, setS_memOk, State.modW_memOk]

@[simp] theorem execClaimWaitLimit_memOk {warp} (h : s.memOk) : Out.memOk (execClaimWaitLimit warp s) := by
  grind [execClaimWaitLimit, Out.memOk, serveClaim_memOk, focus_memOk]

@[simp] theorem execGiveback_memOk {n} (h : s.memOk) : Out.memOk (execGiveback n s) := by
  grind [execGiveback, Out.memOk, raise0_memOk, modGroup_memOk, advance_memOk, State.modW_memOk]

@[simp] theorem execChmapC_memOk {role dm1 ch n} (h : s.memOk) : Out.memOk (execChmapC role dm1 ch n s) := by
  grind [execChmapC, Out.memOk, raise0_memOk, advance_memOk, setGroup_memOk]

@[simp] theorem execChmapP_memOk {ch n} (h : s.memOk) : Out.memOk (execChmapP ch n s) := by
  grind [execChmapP, Out.memOk, raise0_memOk, advance_memOk, State.modW_memOk]

/-! Engines and their commands. -/

theorem setEngineQueue_memOk {e q} (h : s.memOk) : (setEngineQueue s e q).memOk := by
  cases e <;> exact h

theorem finishCmd_memOk {u who c r} (h : s.memOk) : (finishCmd s u who c r).memOk := by
  grind [finishCmd, pulse_memOk, unitWrite_memOk, poisonStop_memOk, resaveCounts_memOk, modWarp_memOk, completePacket_memOk]

theorem finishHead_memOk {e c r} (h : s.memOk) : (finishHead s e c r).memOk := finishCmd_memOk (setEngineQueue_memOk h)

theorem engineId_memOk {eng k} (hk : ∀ {t}, t.memOk → (k t).memOk) (h : s.memOk) : (engineId s eng k).memOk := by
  unfold engineId
  split
  · exact raise0_memOk h
  · exact hk h

@[simp] theorem execPush_memOk {sd cb eng} (h : s.memOk) : Out.memOk (execPush sd cb eng s) := by
  refine engineId_memOk (fun {t} ht => ?_) h
  split
  · exact ht
  · extract_lets full
    split
    · exact advance_memOk (setS_memOk ht)
    · exact advance_memOk (setS_memOk (State.modW_memOk (setEngineQueue_memOk (writeBackCtx_memOk ht))))

@[simp] theorem execYldc_memOk {eng k off} (h : s.memOk) : Out.memOk (execYldc eng k off s) := by
  refine engineId_memOk (fun {t} ht => ?_) h
  grind [jump_memOk, genBump_memOk, block_memOk]

@[simp] theorem execCwait_memOk {k eng} (h : s.memOk) : Out.memOk (execCwait k eng s) := by
  refine engineId_memOk (fun {t} ht => ?_) h
  split
  · exact advance_memOk (genBump_memOk ht)
  · exact State.modW_memOk (stall_memOk ht)

@[simp] theorem execCtest_memOk {sd eng} (h : s.memOk) : Out.memOk (execCtest sd eng s) :=
  engineId_memOk (fun ht => advance_memOk (State.modW_memOk (setS_memOk (genBump_memOk ht)))) h

/-! Copies. -/

theorem engXlat_memOk {g k va n} (h : s.memOk) : (engXlat s g k va n).1.memOk := by
  grind [engXlat, translate_memOk]

theorem engBytes_memOk {g pa n} (h : s.memOk) : (engBytes s g pa n).1.memOk := by
  grind [engBytes, touch_memOk]

theorem engPut_memOk {g pa bs} (h : s.memOk) : (engPut s g pa bs).memOk := by
  grind [engPut, remoteWrite_memOk, memOk_physWrite]

theorem engReadAll_memOk {g k xs ys} (h : s.memOk) : (engReadAll s g k xs ys).1.memOk := by
  fun_induction engReadAll <;> grind [engBytes_memOk, engXlat_memOk]

theorem engWriteAll_memOk {g xs ys} (h : s.memOk) : (engWriteAll s g xs ys).1.memOk := by
  fun_induction engWriteAll <;> grind [engXlat_memOk, engPut_memOk]

theorem pageOf_memOk {g k b0} (h : s.memOk) : (pageOf s g k b0).1.memOk := by
  grind [pageOf, engXlat_memOk]

theorem sameFmt_memOk {g k va f} (h : s.memOk) : (sameFmt s g k va f).1.memOk := by
  grind [sameFmt, engXlat_memOk]

theorem elemSector_memOk {g k need b0 sec scl f} (h : s.memOk) : (elemSector s g k need b0 sec scl f).1.memOk := by
  have hf := sameFmt_memOk (g := g) (k := k) (va := b0 + sec) (f := f) h
  unfold elemSector
  split
  · grind
  · extract_lets own
    grind [sameFmt_memOk, engBytes_memOk]

theorem convertOne_memOk {g md sb db sf df i j} (h : s.memOk) : (convertOne s g md sb db sf df i j).1.memOk := by
  grind [convertOne, elemSector_memOk, engPut_memOk]

theorem copyPieces_memOk {s0 g src dst xs done} (h : s.memOk) : (copyPieces s0 g src dst xs s done).1.memOk := by
  have hfree {t : State} (n) (ht : t.memOk) : State.memOk { t with free := n } := ht
  fun_induction copyPieces <;> grind [engReadAll_memOk, engWriteAll_memOk]

theorem copyRows_memOk {s0 g xs done} (h : s.memOk) : (copyRows s0 g xs s done).1.memOk := by
  fun_induction copyRows <;> grind [copyPieces_memOk]

theorem runCopy_memOk {g c} (h : s.memOk) : (runCopy s g c).1.memOk := by
  grind [runCopy, copyRows_memOk]

theorem fillPieces_memOk {g pat xs done} (h : s.memOk) : (fillPieces g pat xs s done).1.memOk := by
  fun_induction fillPieces <;> grind [engWriteAll_memOk]

theorem convertAll_memOk {g md sb db sf df e0 f0 n done fl} (h : s.memOk) :
    (convertAll g md sb db sf df e0 f0 n s done fl).1.memOk := by
  fun_induction convertAll <;> grind [convertOne_memOk]

theorem runConvert_memOk {g c} (h : s.memOk) : (runConvert s g c).1.memOk := by
  grind [runConvert, pageOf_memOk, convertAll_memOk]

theorem decompAll_memOk {g clear n tile mode done} (h : s.memOk) : (decompAll g clear n tile mode s done).1.memOk := by
  fun_induction decompAll <;> grind [engReadAll_memOk, engWriteAll_memOk]

theorem runCmd_memOk {g c} (h : s.memOk) : (runCmd s g c).1.memOk := by
  grind [runCmd, fillPieces_memOk, runConvert_memOk, decompAll_memOk, runCopy_memOk]

theorem copyEvent_memOk {e mine} (h : s.memOk) : (copyEvent e mine s).memOk := by
  unfold copyEvent
  split
  · exact h
  · split
    · exact h
    · next c _ _ _ =>
      have hr := runCmd_memOk (g := ⟨e, c.ctx⟩) (c := c) h
      split <;> grind [poisonStop_memOk, fetchRemote_memOk, finishHead_memOk]

@[simp] theorem execCopyCmd_memOk {e} (h : s.memOk) : Out.memOk (execCopyCmd e s) := copyEvent_memOk h

@[simp] theorem execCopy2d_memOk {e} (h : s.memOk) : Out.memOk (execCopy2d e s) := copyEvent_memOk h

@[simp] theorem execFill_memOk {e} (h : s.memOk) : Out.memOk (execFill e s) := copyEvent_memOk h

@[simp] theorem execConvert_memOk {e} (h : s.memOk) : Out.memOk (execConvert e s) := copyEvent_memOk h

@[simp] theorem execDecomp_memOk {e} (h : s.memOk) : Out.memOk (execDecomp e s) := copyEvent_memOk h

@[simp] theorem execNotify_memOk (h : s.memOk) : Out.memOk (execNotify s) := by
  grind [execNotify, Out.memOk, finishHead_memOk, sendEvent_memOk]

/-! Branches and planes. -/

@[simp] theorem execBrs_memOk {z a off} (h : s.memOk) : Out.memOk (execBrs z a off s) := by
  grind [execBrs, Out.memOk, jump_memOk, advance_memOk]

@[simp] theorem execBrm_memOk {m off join} (h : s.memOk) : Out.memOk (execBrm m off join s) := by
  unfold execBrm
  extract_lets a t n j
  show State.memOk _
  split
  · exact jump_memOk h
  · split
    · exact jump_memOk h
    · split
      · exact advance_memOk h
      · exact pushOr_memOk (fun ht => advance_memOk (State.modW_memOk ht)) h

@[simp] theorem execBrany_memOk {m off} (h : s.memOk) : Out.memOk (execBrany m off s) := by
  grind [execBrany, Out.memOk, advance_memOk, jump_memOk]

@[simp] theorem execBrall_memOk {m off} (h : s.memOk) : Out.memOk (execBrall m off s) := by
  grind [execBrall, Out.memOk, jump_memOk, advance_memOk]

@[simp] theorem execCallm_memOk {m off} (h : s.memOk) : Out.memOk (execCallm m off s) := by
  unfold execCallm
  extract_lets t n target ret go
  have hgo {t : State} (ht : t.memOk) : (go t).memOk := jump_memOk (State.modW_memOk ht)
  show State.memOk _
  split
  · exact advance_memOk h
  · split
    · exact hgo h
    · exact pushOr_memOk hgo h

theorem setPlanes_memOk {m f} (h : s.memOk) : (setPlanes s m f).memOk := by
  grind [setPlanes, raise_memOk, advance_memOk, State.modW_memOk]

@[simp] theorem execPlsw_memOk {lit a} (h : s.memOk) : Out.memOk (execPlsw lit a s) := by
  grind [execPlsw, Out.memOk, Prep.memOk, advance_memOk, prep_memOk, setPlanes_memOk]

@[simp] theorem execLoop_memOk {lit n off step} (h : s.memOk) : Out.memOk (execLoop lit n off step s) := by
  unfold execLoop
  extract_lets count stop
  show State.memOk _
  split
  · exact jump_memOk h
  · exact pushOr_memOk advance_memOk h

@[simp] theorem execLoopx_memOk {z a} (h : s.memOk) : Out.memOk (execLoopx z a s) := by
  grind [execLoopx, Out.memOk, advance_memOk, State.modW_memOk, dropTop_memOk, raise_memOk]

/-! Spawning, waiting and barriers. -/

theorem spawnNode_memOk {hd} (h : s.memOk) : (spawnNode s hd).1.memOk ∧ (spawnNode s hd).2.memOk := by
  grind [spawnNode, SpawnTo.memOk, warpNode_memOk, raise0_memOk, raiseP_memOk, stallPoison_memOk, stall_memOk]

theorem sendRaster_memOk {r xs} (h : s.memOk) : (sendRaster s r xs).memOk := by
  fun_induction sendRaster <;> grind [setTower_memOk]

theorem emitRecord_memOk {hd dest slot words} (h : s.memOk) : (emitRecord s hd dest slot words).memOk := by
  have h1 : (countUp s s.w.frame slot).memOk := countUp_memOk h
  have hu {t : State} (u) (ht : t.memOk) : State.memOk { t with uses := u } := ht
  unfold emitRecord
  split
  · exact addRecord_memOk h1
  · split
    · exact sendRaster_memOk (hu _ h1)
    · exact setTower_memOk (hu _ h1)

theorem emitRecords_memOk {hd dest recs} (h : s.memOk) : (emitRecords hd dest recs s).memOk := by
  induction recs generalizing s with
  | nil => exact h
  | cons r recs ih => exact ih (emitRecord_memOk h)

@[simp] theorem execAwait_memOk (h : s.memOk) : Out.memOk (execAwait s) := by
  grind [execAwait, Out.memOk, advance_memOk, genBump_memOk, State.modW_memOk]

theorem barArrive_memOk {slot count} (h : s.memOk) : (barArrive s slot count).memOk := by
  grind [barArrive, modGroup_memOk, barCheck_memOk]

theorem barGo_memOk {slot stage count} (h : s.memOk) : (barGo s slot stage count).memOk := by
  unfold barGo
  split
  · exact h
  · split <;> grind [barArrive_memOk, genBump_memOk, State.modW_memOk]

@[simp] theorem execNodeq_memOk {sh sd} (h : s.memOk) : Out.memOk (execNodeq sh sd s) := by
  unfold execNodeq
  extract_lets hd
  have hn := spawnNode_memOk (hd := hd) h
  show State.memOk _
  split <;> grind [SpawnTo.memOk, advance_memOk, setS_memOk]

theorem launchDone_memOk {k} (h : s.memOk) : (launchDone s k).memOk := by
  grind [launchDone, State.memOk, completePacket_memOk]

theorem launchThread_memOk {k} (h : s.memOk) : (launchThread s k).memOk := by
  grind [launchThread, State.memOk, launchDone_memOk]

theorem tilesLeft_memOk {xs} (h : s.memOk) : (tilesLeft s xs).memOk := by
  fun_induction tilesLeft s xs <;> grind [State.memOk]

@[simp] theorem execThreadComplete_memOk {frame lane} (h : s.memOk) : Out.memOk (execThreadComplete frame lane s) := by
  grind [execThreadComplete, Out.memOk, setFrame_memOk, countDown_memOk, tilesLeft_memOk, dropFrame_memOk, launchThread_memOk]

theorem moveLease_memOk {old} (h : s.memOk) : (moveLease old s).memOk := by
  grind [moveLease, repauseW_memOk, modCtx_memOk, State.modW_memOk]

@[simp] theorem execContinuationSteal_memOk {warp core group} (h : s.memOk) :
    Out.memOk (execContinuationSteal warp core group s) := by
  grind [execContinuationSteal, Out.memOk, writeBackCtx_memOk, focus_memOk, joinCore_memOk, State.modW_memOk, moveLease_memOk,
    genBump_memOk]

@[simp] theorem execChannelDequeueWake_memOk {warp} (h : s.memOk) : Out.memOk (execChannelDequeueWake warp s) := by
  grind [execChannelDequeueWake, Out.memOk, focus_memOk, State.modW_memOk]

/-! Rasters and classification. -/

theorem getPassDesc_memOk {e ctx va} (h : s.memOk) : (getPassDesc s e ctx va).1.memOk := by
  grind [getPassDesc, unitRead_memOk]

theorem passKey_memOk {ctx va} (h : s.memOk) : (passKey s ctx va).1.memOk := by
  grind [passKey, State.memOk]

theorem modPass_memOk {p f} (h : s.memOk) : (modPass s p f).memOk := by
  grind [modPass, State.memOk]

theorem modTile_memOk {p t f} (h : s.memOk) : (modTile s p t f).memOk := modPass_memOk h

theorem notePass_memOk {p status fva fword} (h : s.memOk) : (notePass s p status fva fword).memOk := modPass_memOk h

theorem tidyPass_memOk {p} (h : s.memOk) : (tidyPass s p).memOk := by
  grind [tidyPass, State.memOk]

theorem writeHome_memOk {e ctx t} (h : s.memOk) : (writeHome s e ctx t).1.memOk := by
  grind [writeHome, unitWrite_memOk, restoreTile_memOk]

theorem evictTile_memOk {e p i t} (h : s.memOk) : (evictTile s e p i t).memOk := by
  grind [evictTile, writeHome_memOk, notePass_memOk, modTile_memOk, poisonStop_memOk]

theorem makeRoom_memOk {e tower a} (h : s.memOk) : (makeRoom e tower a s).1.memOk := by
  fun_induction makeRoom <;> grind [evictTile_memOk]

theorem tileSectors_memOk {e ctx va xs ys a} (h : s.memOk) : (tileSectors e ctx va xs s ys a).1.memOk := by
  fun_induction tileSectors <;> grind [translate_memOk]

theorem useTile_memOk {p i} (h : s.memOk) : (useTile s p i).memOk := modTile_memOk h

theorem openTile_memOk {e tower p i d} (h : s.memOk) : (openTile s e tower p i d).memOk := by
  unfold openTile
  dsimp only
  split
  · exact h
  · split
    · split
      · exact useTile_memOk h
      · exact h
    · split
      · next he =>
        have ht := memOk_of_fst he (tileSectors_memOk h)
        split
        · exact ht
        · exact notePass_memOk ht
      · next he =>
        have ht := memOk_of_fst he (tileSectors_memOk h)
        split
        · exact ht
        · split
          · exact notePass_memOk ht
          · split
            · next hr => exact memOk_of_fst hr (makeRoom_memOk ht)
            · next hr =>
              exact useTile_memOk (modPass_memOk (writeTiles_memOk (memOk_of_fst hr (makeRoom_memOk ht)) _ _))

theorem drawTiles_memOk {tower k ctx p d inst cluster ts is} (h : s.memOk) :
    (drawTiles tower k ctx p d inst cluster ts is s).memOk := by
  have hput {m : Mem} {t f} (hm : m.wf = true) : (putFrag t m f).wf = true := by grind [putFrag, mwriteLE_wf]
  induction is generalizing s with
  | nil => exact h
  | cons i is ih =>
    have ho := openTile_memOk (e := .raster tower k) (tower := tower) (p := p) (i := i) (d := d) h
    unfold drawTiles
    split
    · exact ih h
    · split
      · grind [Opened.memOk, Drawn.memOk]
      · grind [Opened.memOk, Drawn.memOk]
      · grind [Opened.memOk, Drawn.memOk]
      · next t e =>
        have ht : t.memOk := by grind [Opened.memOk]
        split
        · exact ih ht
        · split
          · exact ht
          · exact ih (foldl_mem_wf hput ht _)

theorem getClusterData_memOk {e ctx cltab c} (h : s.memOk) : (getClusterData s e ctx cltab c).1.memOk := by
  unfold getClusterData
  extract_lets u stop
  have hstop {α : Type} (r : State × Got α) (hr : r.1.memOk) : (stop r).1.memOk := by
    obtain ⟨t, g⟩ := r
    cases g <;> exact hr
  clear_value stop
  grind [unitRead_memOk]

theorem getMatrix_memOk {e ctx insttab inst} (h : s.memOk) : (getMatrix s e ctx insttab inst).1.memOk := by
  grind [getMatrix, unitRead_memOk]

theorem setUpRecord_memOk {e ctx ws} (h : s.memOk) : (setUpRecord s e ctx ws).1.memOk := by
  grind [setUpRecord, getPassDesc_memOk, getClusterData_memOk, getMatrix_memOk]

theorem drawRecord_memOk {tower k r} (h : s.memOk) : (drawRecord s tower k r).memOk := by
  grind [drawRecord, Drawn.memOk, passKey_memOk, notePass_memOk, setUpRecord_memOk, drawTiles_memOk]

@[simp] theorem execRasterRecord_memOk {tower k} (h : s.memOk) : Out.memOk (execRasterRecord tower k s) := by
  unfold execRasterRecord
  extract_lets e
  show State.memOk _
  split
  · exact h
  · split
    · exact h
    · next r rest _ _ =>
      have hd := drawRecord_memOk (tower := tower) (k := k) (r := r) h
      split
      · grind [Drawn.memOk]
      · grind [Drawn.memOk]
      · grind [Drawn.memOk, poisonStop_memOk]
      · next t e =>
        have ht : t.memOk := by grind [Drawn.memOk]
        have hp {u : State} (hu : u.memOk) (ps : Tab Pass) : (ps.foldl (fun s p => tidyPass s p.1) u).memOk :=
          foldl_memOk tidyPass_memOk hu ps
        grind [setTower_memOk, dropRemotes_memOk, pulse_memOk, countDown_memOk]

@[simp] theorem execClose_memOk {tower k} (h : s.memOk) : Out.memOk (execClose tower k s) := by
  grind [execClose, Out.memOk, finishHead_memOk, getPassDesc_memOk, poisonStop_memOk, passKey_memOk, setEngineQueue_memOk,
    modPass_memOk]

@[simp] theorem execTileClosed_memOk {pass tile} (h : s.memOk) : Out.memOk (execTileClosed pass tile s) := by
  grind [execTileClosed, Out.memOk, modTile_memOk]

theorem noteClassify_memOk {cl status fva fword} (h : s.memOk) : (noteClassify s cl status fva fword).memOk := h

theorem materialOf_memOk {cl ctx d id} (h : s.memOk) : (materialOf cl ctx d s id).1.memOk := by
  grind [materialOf, unitRead_memOk, noteClassify_memOk]

theorem tileId_memOk {cl ctx t p} (h : s.memOk) : (tileId cl ctx t s p).1.memOk := by
  grind [tileId, unitRead_memOk, noteClassify_memOk]

theorem emitQuads_memOk {cl c d p i a y0 mats xs} (h : s.memOk) : (emitQuads cl c d p i a y0 mats xs s).1.memOk := by
  fun_induction emitQuads <;> grind [readNode_memOk, addRecord_memOk, noteClassify_memOk]

theorem classifyQuad_memOk {cl c d p i q t} (h : s.memOk) : (classifyQuad s cl c d p i q t).memOk := by
  have h1 : (useTile s p i).memOk := useTile_memOk h
  unfold classifyQuad
  extract_lets tw s1
  have h2 := gotAll_memOk (f := tileId cl c.ctx t) (xs := quadPixels q) (acc := []) (waits := false) tileId_memOk h1
  split
  · next e => exact poisonStop_memOk (memOk_of_fst e h2)
  · next ids e =>
    have h3 := gotAll_memOk (f := materialOf cl c.ctx d) (xs := ids) (acc := []) (waits := false) materialOf_memOk (memOk_of_fst e h2)
    grind [State.memOk, poisonStop_memOk, emitQuads_memOk, modTile_memOk, modCluster_memOk, dropRemotes_memOk]
  · exact h

theorem finishClassify_memOk {cl c x} (h : s.memOk) : (finishClassify s cl c x).memOk :=
  finishHead_memOk (tidyPass_memOk (modPass_memOk h))

theorem failClassify_memOk {cl c status fva fword} (h : s.memOk) : (failClassify s cl c status fva fword).memOk := by
  grind [failClassify, finishClassify_memOk, finishHead_memOk]

@[simp] theorem execClassify_memOk {cluster} (h : s.memOk) : Out.memOk (execClassify cluster s) := by
  unfold execClassify
  extract_lets e
  show State.memOk _
  split
  · exact h
  · next c _ _ =>
    have hd := getPassDesc_memOk (e := e) (ctx := c.ctx) (va := cmdWord c 1) h
    split
    · exact h
    · split
      · exact finishHead_memOk h
      · split <;> grind [poisonStop_memOk, modCluster_memOk, finishClassify_memOk, classifyQuad_memOk, failClassify_memOk]

@[simp] theorem execTileRelease_memOk {pass tile} (h : s.memOk) : Out.memOk (execTileRelease pass tile s) := by
  grind [execTileRelease, Out.memOk, writeHome_memOk, noteClassify_memOk, poisonStop_memOk, restoreTile_memOk, modPass_memOk]

/-! Blenders. -/

theorem getTarget_memOk {e ctx va} (h : s.memOk) : (getTarget s e ctx va).1.memOk := by
  grind [getTarget, unitRead_memOk]

theorem putTarget_memOk {tower t} (h : s.memOk) : (putTarget s tower t).memOk := h

theorem noteTarget_memOk {tower ctx va status fva fword} (h : s.memOk) : (noteTarget s tower ctx va status fva fword).memOk :=
  h

theorem blendOne_memOk {e ctx d tile pixel op colour} (h : s.memOk) : (blendOne s e ctx d tile pixel op colour).memOk := by
  unfold blendOne
  extract_lets u who read write at_
  have hread {t : State} (ht : t.memOk) {va n k} (hk : ∀ {t} x, t.memOk → (k t x).memOk) : (read t va n k).memOk := by
    have := unitRead_memOk (u := u) (who := who) (ctx := ctx) (va := va % 2 ^ 64) (n := n) ht
    grind [Blended.memOk]
  have hwrite {t : State} (ht : t.memOk) {va bs k} (hk : ∀ {t}, t.memOk → (k t).memOk) : (write t va bs k).memOk := by
    have := unitWrite_memOk (u := u) (who := who) (ctx := ctx) (va := va % 2 ^ 64) (bs := bs) ht
    grind [Blended.memOk]
  clear_value read write
  split
  · exact hread h fun x h => hwrite h fun h => h
  · refine hread h fun m h => ?_
    split
    · exact h
    · refine hread h fun x h => ?_
      dsimp only
      split
      · exact h
      · split
        · exact hwrite h fun h => hwrite h fun h => h
        · exact hwrite h fun h => h

theorem takeFragment_memOk {tower ctx ws} (h : s.memOk) : (takeFragment s tower ctx ws).memOk := by
  grind [takeFragment, Taken.memOk, Blended.memOk, noteTarget_memOk, getTarget_memOk, translate_memOk, blendOne_memOk,
    putTarget_memOk]

@[simp] theorem execFragmentRecord_memOk {tower} (h : s.memOk) : Out.memOk (execFragmentRecord tower s) := by
  grind [execFragmentRecord, State.memOk, Out.memOk, Taken.memOk, takeFragment_memOk, poisonStop_memOk, dropRemotes_memOk,
    setTower_memOk, countDown_memOk, pulse_memOk]

theorem blendAll_memOk {e tower ctx va d xs} (h : s.memOk) : (blendAll e tower ctx va d xs s).memOk := by
  fun_induction blendAll <;> grind [Blended.memOk, noteTarget_memOk, blendOne_memOk]

theorem advanceAll_memOk {e ctx va k d xs} (h : s.memOk) : (advanceAll e ctx va k d xs s).memOk := by
  fun_induction advanceAll <;> grind [Blended.memOk, noteTarget_memOk, blendAll_memOk, putTarget_memOk]

theorem settleTarget_memOk {tower ctx va k} (h : s.memOk) : (settleTarget s tower ctx va k).memOk := by
  grind [settleTarget, State.memOk, putTarget_memOk]

@[simp] theorem execAdvance_memOk {tower} (h : s.memOk) : Out.memOk (execAdvance tower s) := by
  grind [execAdvance, State.memOk, Out.memOk, Blended.memOk, finishHead_memOk, advanceAll_memOk, settleTarget_memOk,
    poisonStop_memOk, getTarget_memOk]

/-! Launches. -/

theorem readAttrs_memOk {u who ctx a xs ys} (h : s.memOk) : (readAttrs u who ctx a xs s ys).1.memOk := by
  fun_induction readAttrs <;> grind [unitRead_memOk]

theorem noteAttr_memOk {p status fva fword} (h : s.memOk) : (noteAttr s p status fva fword).memOk := by
  grind [noteAttr, noteClassify_memOk]

theorem quadLane_memOk {cl ctx regs r i} (h : s.memOk) : (quadLane cl ctx regs r i s).1.memOk := by
  unfold quadLane
  extract_lets e word live own at_ stop
  have hstop {α : Type} {head : List Nat} {r' : State × Got α} (hr : r'.1.memOk) : (stop head r').1.memOk := by
    obtain ⟨t, g⟩ := r'
    cases g with
    | fault => exact noteAttr_memOk hr
    | ok | poison | wait => exact hr
  clear_value stop
  split
  split
  · exact h
  · split
    · next ht =>
      have h1 := memOk_of_fst ht (tileId_memOk h)
      extract_lets head
      split
      · next hd =>
        have h2 := memOk_of_fst hd (getPassDesc_memOk h1)
        split
        · next hc => exact noteAttr_memOk (memOk_of_fst hc (getClusterData_memOk h2))
        · next hc => exact noteAttr_memOk (memOk_of_fst hc (getClusterData_memOk h2))
        · next hc => exact memOk_of_fst hc (getClusterData_memOk h2)
        · next hc => exact memOk_of_fst hc (getClusterData_memOk h2)
        · next hc =>
          have h3 := memOk_of_fst hc (getClusterData_memOk h2)
          split
          · next hm =>
            have h4 := memOk_of_fst hm (getMatrix_memOk h3)
            split
            · exact noteAttr_memOk h4
            · split
              · next ha => exact memOk_of_fst ha (readAttrs_memOk h4)
              · exact hstop (readAttrs_memOk h4)
          · exact hstop (getMatrix_memOk h3)
      · next hd => exact noteAttr_memOk (memOk_of_fst hd (getPassDesc_memOk h1))
      · exact hstop (getPassDesc_memOk h1)
    · exact hstop (tileId_memOk h)

theorem hitLane_memOk {cl ctx regs r} (h : s.memOk) : (hitLane cl ctx regs r s).1.memOk := by
  grind [hitLane, getClusterData_memOk, readAttrs_memOk]

theorem delivered_memOk {cl ctx regs recs} (h : s.memOk) : (delivered cl ctx regs recs s).1.memOk := by
  refine gotAll_memOk (fun {t p} ht => ?_) h
  grind [quadLane_memOk, hitLane_memOk]

theorem launchWarps_memOk {g n home stack frame fix xs a} (h : s.memOk) {t}
    (e : launchWarps g n home stack frame fix xs a s = some t) :
    t.memOk := by
  fun_induction launchWarps <;> grind [launchWarp_memOk]

theorem placeGroup_memOk {g n p home stack ws frame fix} (h : s.memOk) {t x}
    (e : placeGroup s g n p home stack ws frame fix = some (t, x)) : t.memOk := by
  unfold placeGroup at e
  split at e
  · cases e
  · split at e
    · cases e
    · have h1 : State.memOk { s with nextKey := s.nextKey + 2 } := h
      obtain ⟨u, hu, hx⟩ := Option.map_eq_some_iff.mp e
      obtain rfl : u = t := congrArg Prod.fst hx
      exact launchWarps_memOk (joinCore_memOk (gainSet_memOk h1)) hu

theorem tilesTaken_memOk {ts} (h : s.memOk) : (tilesTaken s ts).memOk := foldl_memOk modTile_memOk h ts

theorem launchBin_memOk {cluster bin p due} (h : s.memOk) : (launchBin cluster bin p due s).memOk := by
  unfold launchBin
  split
  · exact h
  · next b _ =>
    extract_lets first
    split
    · exact h
    · split
      · next e => exact poisonStop_memOk (memOk_of_fst e (readNode_memOk h))
      · next t x e =>
        have ht := memOk_of_fst e (readNode_memOk h)
        extract_lets n recs
        split
        · exact ht
        · split
          · next e => exact poisonStop_memOk (memOk_of_fst e (delivered_memOk ht))
          · next e => exact memOk_of_fst e (delivered_memOk ht)
          · exact ht
          · next e =>
            have h2 := memOk_of_fst e (delivered_memOk ht)
            split
            · exact ht
            · next e2 =>
              exact modCluster_memOk (modCtx_memOk (dropRemotes_memOk (dropRemotes_memOk (tilesTaken_memOk (placeGroup_memOk h2 e2)))))
      · next e => exact memOk_of_fst e (readNode_memOk h)

@[simp] theorem execBinLaunch_memOk {cluster bin p} (h : s.memOk) : Out.memOk (execBinLaunch cluster bin p s) := launchBin_memOk h

@[simp] theorem execBinTimerExpiry_memOk {cluster bin p} (h : s.memOk) :
    Out.memOk (execBinTimerExpiry cluster bin p s) :=
  launchBin_memOk h

theorem placeGang_memOk {k x gang xs a} (h : s.memOk) {t} (e : placeGang k x gang xs a s = some t) : t.memOk := by
  fun_induction placeGang <;> grind [placeGroup_memOk]

theorem placeNext_memOk {k x ps} (h : s.memOk) {t} (e : placeNext k x ps s = some t) : t.memOk := by
  simp only [placeNext, Option.ite_none_right_eq_some] at e
  exact placeGang_memOk h e.2

@[simp] theorem execPlaceWorkgroup_memOk {launch ps} (h : s.memOk) : Out.memOk (execPlaceWorkgroup launch ps s) := by
  unfold execPlaceWorkgroup
  show State.memOk _
  split
  · exact h
  · split
    · exact h
    · split
      · exact h
      · next t e =>
        have ht : t.memOk := placeNext_memOk h e
        exact modQueue_memOk ht

/-! Saving and resuming. -/

theorem takeSave_memOk {ctx size} (h : s.memOk) {t x} (e : takeSave s ctx size = some (t, x)) : t.memOk := by
  unfold takeSave at e
  split at e
  · cases e
  · obtain ⟨r, -, hr⟩ := Option.map_eq_some_iff.mp e
    cases hr
    exact modSavePool_memOk h

theorem giveSave_memOk {ctx va size} (h : s.memOk) : (giveSave s ctx va size).memOk := modSavePool_memOk h

theorem putBad_memOk (h : s.memOk) : (putBad s).memOk := h

theorem saveWarp_memOk {k} (h : s.memOk) : (saveWarp s k).memOk := by
  grind [saveWarp, State.memOk, performNt_memOk, focus_memOk, writeBackCtx_memOk, dropRemotes_memOk, saveFrame_memOk,
    setFrame_memOk]

theorem saveGroup_memOk {k} (h : s.memOk) {t} (e : saveGroup s k = some t) : t.memOk := by
  unfold saveGroup at e
  split at e
  · cases e
  · split at e
    · cases e
    · next hs =>
      obtain rfl := Option.some.inj e
      exact modGroup_memOk (unitWrite_memOk (foldl_memOk saveWarp_memOk (takeSave_memOk h hs) _))

theorem saveAll_memOk {ks} (h : s.memOk) {t} (e : saveAll ks s = some t) : t.memOk := by
  induction ks generalizing s with
  | nil => cases e; exact h
  | cons k ks ih =>
    obtain ⟨u, hu, ht⟩ := Option.bind_eq_some_iff.mp e
    exact ih (saveGroup_memOk h hu) ht

@[simp] theorem execWorkgroupEvict_memOk {group} (h : s.memOk) : Out.memOk (execWorkgroupEvict group s) := by
  unfold execWorkgroupEvict
  show State.memOk _
  split
  · exact h
  · split
    · exact h
    · exact getD_memOk h fun _ => saveAll_memOk h

theorem restoreSet_memOk {k g cl} (h : s.memOk) : (restoreSet s k g cl).memOk := by
  grind [restoreSet, State.memOk, gainSet_memOk, modCluster_memOk, giveSave_memOk, setWarp_memOk]

theorem wakeWarp_memOk {p x} (h : s.memOk) : (wakeWarp p s x).memOk := by
  obtain ⟨k, lg, zb⟩ := x
  have hr {t : State} {skip} (ht : t.memOk) : (returnFromTrap reissue skip t).memOk := returnFromTrap_memOk reissue_memOk ht
  grind [wakeWarp, focus_memOk, State.modW_memOk, setFrame_memOk, moveLease_memOk, putBad_memOk, reissue_memOk]

theorem resumeGroup_memOk {k p} (h : s.memOk) {t} (e : resumeGroup s k p = some t) : t.memOk := by
  unfold resumeGroup at e
  split at e
  · cases e
  · extract_lets keys ws cl s1 s2 at e
    have h1 : s1.memOk := restoreSet_memOk h
    have h2 : s2.memOk := by
      unfold s2
      split
      · exact h1
      · exact giveSave_memOk h1
    split at e
    · dsimp only at e
      split at e
      · cases e
      · obtain rfl := Option.some.inj e
        exact foldl_memOk wakeWarp_memOk (genBump_memOk (joinCore_memOk h2)) _
    · cases e

theorem resumeAll_memOk {xs} (h : s.memOk) {t} (e : resumeAll xs s = some t) : t.memOk := by
  induction xs generalizing s with
  | nil => cases e; exact h
  | cons x xs ih =>
    obtain ⟨u, hu, ht⟩ := Option.bind_eq_some_iff.mp e
    exact ih (resumeGroup_memOk h hu) ht

@[simp] theorem execWorkgroupResume_memOk {group ps} (h : s.memOk) : Out.memOk (execWorkgroupResume group ps s) := by
  unfold execWorkgroupResume
  show State.memOk _
  split
  · exact h
  · extract_lets gang together
    split
    · exact h
    · exact getD_memOk h fun _ => resumeAll_memOk h

@[simp] theorem execPreemptDeadline_memOk {group} (h : s.memOk) : Out.memOk (execPreemptDeadline group s) := by
  grind [execPreemptDeadline, Out.memOk, sendEvent_memOk, modGroup_memOk, killCtx_memOk]

theorem saveGangs_memOk {ks} (h : s.memOk) : (saveGangs s ks).memOk := by
  induction ks generalizing s with
  | nil => exact h
  | cons k ks ih => exact ih (getD_memOk h fun _ => saveAll_memOk h)

@[simp] theorem execContextStop_memOk {ctx} (h : s.memOk) : Out.memOk (execContextStop ctx s) := by
  grind [execContextStop, Out.memOk, modCtx_memOk, saveGangs_memOk, sendEvent_memOk]

theorem resumeHeld_memOk {w} (h : s.memOk) : (resumeHeld s w).memOk := by
  unfold resumeHeld
  split
  · exact returnFromTrap_memOk reissue_memOk (focus_memOk h)
  · exact h

@[simp] theorem execContextResume_memOk {ctx} (h : s.memOk) : Out.memOk (execContextResume ctx s) := by
  unfold execContextResume
  show State.memOk _
  split
  · exact h
  · split
    · exact h
    · refine foldl_memOk resumeHeld_memOk (foldl_memOk (fun {t w} ht => ?_) (modCtx_memOk h) _) _
      split
      · exact modWarp_memOk ht
      · exact ht

@[simp] theorem execMatrixSetRelease_memOk {cluster} (h : s.memOk) : Out.memOk (execMatrixSetRelease cluster s) := by
  have hput {t : State} (ht : t.memOk) (sets groups) : State.memOk { t with sets := sets, groups := groups } := ht
  unfold execMatrixSetRelease
  extract_lets k gone
  have hgone {t : State} (ht : t.memOk) : (gone t).memOk := setWarp_memOk (clearSetOf_memOk ht)
  clear_value gone
  show State.memOk _
  split
  · exact h
  · extract_lets kept idle
    split
    · exact h
    · split
      · exact hgone h
      · split
        · exact h
        · next ht => exact hput (hgone (unitWrite_memOk (takeSave_memOk h ht))) _ _

/-! Streams. -/

theorem streamCheck_memOk {regs srcs more dsts test k} (hk : ∀ {t}, t.memOk → (k t).memOk) (h : s.memOk) :
    (streamCheck s regs srcs more dsts test k).memOk := by
  have hp : (prep s more dsts).memOk := prep_memOk h
  unfold streamCheck
  split
  · exact raise0_memOk h
  · split <;> grind [Prep.memOk, raise_memOk, stallPoison_memOk]

theorem writeZ_memOk {z f} (h : s.memOk) : (writeZ s z f).memOk := h

theorem gate2_memOk {zd za zb test f} (h : s.memOk) : (gate2 s zd za zb test f).memOk :=
  streamCheck_memOk (fun ht => advance_memOk (writeZ_memOk ht)) h

@[simp] theorem execSgen_memOk {zd k isF32 lit p} (h : s.memOk) : Out.memOk (execSgen zd k isF32 lit p s) :=
  streamCheck_memOk (fun ht => advance_memOk (raiseFlags_memOk (writeZ_memOk ht))) h

@[simp] theorem execSnot_memOk {zd za} (h : s.memOk) : Out.memOk (execSnot zd za s) :=
  streamCheck_memOk (fun ht => advance_memOk (writeZ_memOk ht)) h

@[simp] theorem execSmux_memOk {zd zc za zb} (h : s.memOk) : Out.memOk (execSmux zd zc za zb s) :=
  streamCheck_memOk (fun ht => advance_memOk (writeZ_memOk ht)) h

theorem streamValue_memOk {regs srcs more d tr f after} (ha : ∀ {t}, t.memOk → (after t).memOk) (h : s.memOk) :
    (streamValue s regs srcs more d tr f after).memOk :=
  streamCheck_memOk (fun ht => advance_memOk (ha (putResult_memOk ht))) h

@[simp] theorem execScnt_memOk {za d tr} (h : s.memOk) : Out.memOk (execScnt za d tr s) := streamValue_memOk (fun ht => ht) h

@[simp] theorem execScvtVal_memOk {za d tr} (h : s.memOk) :
    Out.memOk (execScvtVal za d tr s) :=
  streamValue_memOk (fun ht => ht) h

@[simp] theorem execScvtDraw_memOk {k d tr} (h : s.memOk) : Out.memOk (execScvtDraw k d tr s) := by
  refine streamValue_memOk (fun {t} ht => ?_) h
  split
  · exact ht
  · exact tookDraw_memOk ht

@[simp] theorem execScvtWord_memOk {za lit x d tr} (h : s.memOk) :
    Out.memOk (execScvtWord za lit x d tr s) :=
  streamValue_memOk (fun ht => ht) h

@[simp] theorem execSregen_memOk {zd za k} (h : s.memOk) : Out.memOk (execSregen zd za k s) :=
  streamCheck_memOk (fun ht => advance_memOk (writeZ_memOk ht)) h

@[simp] theorem execSlen_memOk {sub} (h : s.memOk) : Out.memOk (execSlen sub s) := by
  grind [execSlen, Out.memOk, raise0_memOk, advance_memOk, State.modW_memOk]

@[simp] theorem execScls_memOk {za d tr} (h : s.memOk) : Out.memOk (execScls za d tr s) := streamValue_memOk (fun ht => ht) h

/-! Tile transfers. -/

theorem setClean_memOk {kind cl off n} (h : s.memOk) : (setClean s kind cl off n).memOk := h

theorem ownTile_memOk {tile k} (hk : ∀ {t}, t.memOk → (k t).memOk) (h : s.memOk) : (ownTile s tile k).memOk := by
  unfold ownTile
  split
  · exact raise0_memOk h
  · exact hk h

theorem ownSet_memOk {b k} (hk : ∀ {t}, t.memOk → (k t).memOk) (h : s.memOk) : (ownSet s b k).memOk := by
  unfold ownSet
  split
  · exact hk h
  · exact raise0_memOk h

@[simp] theorem execTldv_memOk {lit tile slice d tr} (h : s.memOk) : Out.memOk (execTldv lit tile slice d tr s) := by
  refine ownTile_memOk (fun {t} ht => ?_) h
  grind [Prep.memOk, prep_memOk, stallPoison_memOk, advance_memOk, putResult_memOk]

theorem cleanSlice_memOk {cl at_ m} (h : s.memOk) : (cleanSlice s cl at_ m).memOk := by
  refine foldl_memOk (fun {t i} ht => ?_) h _
  split
  · exact setClean_memOk ht
  · exact ht

@[simp] theorem execTstv_memOk {p lit tile slice src _tr} (h : s.memOk) : Out.memOk (execTstv p lit tile slice src _tr s) := by
  refine ownTile_memOk (fun {t} ht => ?_) h
  grind [Prep.memOk, prep_memOk, advance_memOk, modCluster_memOk, cleanSlice_memOk]

@[simp] theorem execMwait_memOk {lit b _tr} (h : s.memOk) : Out.memOk (execMwait lit b _tr s) := by
  refine ownSet_memOk (fun {t} ht => ?_) h
  split
  · exact advance_memOk (genBump_memOk ht)
  · exact advance_memOk (State.modW_memOk ht)

@[simp] theorem execMtest_memOk {sd lit b _tr} (h : s.memOk) : Out.memOk (execMtest sd lit b _tr s) := by
  refine ownSet_memOk (fun {t} ht => advance_memOk (setS_memOk ?_)) h
  split
  · exact genBump_memOk ht
  · exact ht

theorem tileForm_memOk {store t} (h : s.memOk) : (tileForm store t s).memOk := ownTile_memOk logged_memOk h

theorem tilePage_memOk {store ty b0 e0 n e} (h : s.memOk) : (tilePage s store ty b0 e0 n e).1.memOk := by
  grind [tilePage, xlateLane_memOk]

theorem tileMode_memOk {r} (h : s.memOk) : (tileMode s r).2.memOk := by
  grind [tileMode, State.modW_memOk]

theorem loadRun_memOk {at_ ty r p} (h : s.memOk) : (loadRun s at_ ty r p).1.memOk := by
  grind [loadRun, homePiece_memOk, homeFirst_memOk, tileMode_memOk, modCluster_memOk]

theorem loadRunAll_memOk {tile ofs ty r b0 e0 page a b c} (h : s.memOk) :
    (loadRunAll tile ofs ty r b0 e0 page a b s c).memOk := by
  fun_induction loadRunAll <;> grind [Moved.memOk, loadRun_memOk, elemFind_memOk]

theorem encodeRun_memOk {fmt sc isInt r xs ys a} (h : s.memOk) : (encodeRun fmt sc isInt r xs s ys a).1.memOk := by
  fun_induction encodeRun <;> grind [tileMode_memOk]

theorem storeSector_memOk {p whole first codes} (h : s.memOk) : (storeSector s p whole first codes).1.memOk := by
  grind [storeSector, homeWrite_memOk, homeFirst_memOk, homePiece_memOk]

theorem storeRunAll_memOk {tile ofs ty r b0 e0 n page a b c} (h : s.memOk) :
    (storeRunAll tile ofs ty r b0 e0 n page a b s c).memOk := by
  fun_induction storeRunAll <;> grind [State.memOk, Moved.memOk, storeSector_memOk, elemFind_memOk, encodeRun_memOk]

theorem moveTile_memOk {store tile ofs ty r b0 e0 n done f} (h : s.memOk) :
    (moveTile s store tile ofs ty r b0 e0 n done f).memOk := by
  grind [moveTile, Moved.memOk, tilePage_memOk, storeRunAll_memOk, loadRunAll_memOk]

@[simp] theorem execTileTransferComplete_memOk {warp} (h : s.memOk) : Out.memOk (execTileTransferComplete warp s) := by
  have hf : (focus s warp).memOk := focus_memOk h
  unfold execTileTransferComplete
  show State.memOk _
  split
  · exact h
  · split
    · exact h
    · split
      · split <;> grind [Moved.memOk, moveTile_memOk, takeTrap_memOk, poisonStop_memOk, raiseFlags_memOk, State.modW_memOk,
          dropRemotes_memOk, endReturn_memOk]
      · exact modWarp_memOk h

/-! Power, errors and timers. -/

theorem chooseResident_memOk (h : s.memOk) : (chooseResident s).memOk := h

theorem noteAwake_memOk {xs} (h : s.memOk) : (noteAwake s xs).memOk := by
  fun_induction noteAwake <;> grind [setCluster_memOk]

theorem repause_memOk {cl} (h : s.memOk) : (repause s cl).memOk := h

@[simp] theorem execBarometerWindow_memOk {cluster} (h : s.memOk) : Out.memOk (execBarometerWindow cluster s) := by
  grind [execBarometerWindow, Out.memOk, repause_memOk, setCluster_memOk]

@[simp] theorem execNearThresholdEntry_memOk {cluster group} (h : s.memOk) :
    Out.memOk (execNearThresholdEntry cluster group s) := by
  grind [execNearThresholdEntry, Out.memOk, repause_memOk, setCluster_memOk]

@[simp] theorem execNearThresholdExit_memOk {cluster group} (h : s.memOk) :
    Out.memOk (execNearThresholdExit cluster group s) := by
  grind [execNearThresholdExit, Out.memOk, repause_memOk, setCluster_memOk]

@[simp] theorem execLeaseRefill_memOk {cluster} (h : s.memOk) : Out.memOk (execLeaseRefill cluster s) := by
  grind [execLeaseRefill, Out.memOk, setCluster_memOk]

@[simp] theorem execStackThermalChange_memOk {tower level} (h : s.memOk) : Out.memOk (execStackThermalChange tower level s) := by
  have hr {u : State} (hu : u.memOk) (ks : List Nat) :
      (ks.foldl (fun s k => if towerOfCluster k == tower then repause s k else s) u).memOk := by
    refine foldl_memOk (fun {t k} ht => ?_) hu ks
    split
    · exact repause_memOk ht
    · exact ht
  grind [execStackThermalChange, Out.memOk, sendEvent_memOk, setTower_memOk]

@[simp] theorem execWatchdogFire_memOk {ctx} (h : s.memOk) : Out.memOk (execWatchdogFire ctx s) := by
  grind [execWatchdogFire, Out.memOk, sendEvent_memOk, modCtx_memOk, killCtx_memOk]

@[simp] theorem execEccUncorrectable_memOk {site} (h : s.memOk) : Out.memOk (execEccUncorrectable site s) := by
  unfold execEccUncorrectable
  show State.memOk _
  split
  · split
    · exact h
    · exact modCluster_memOk h
  · extract_lets q
    split <;> exact h

@[simp] theorem execYieldExpiry_memOk {k} (h : s.memOk) : Out.memOk (execYieldExpiry k s) := modWarp_memOk h

@[simp] theorem execLeaseTick_memOk {k} (h : s.memOk) : Out.memOk (execLeaseTick k s) := modWarp_memOk h

@[simp] theorem execPageWalk_memOk {u ctx va kind} (h : s.memOk) : Out.memOk (execPageWalk u ctx va kind s) := by
  grind [execPageWalk, Out.memOk, walk_memOk]

/-! Packets. -/

theorem packetHead_memOk {ctx qi} (h : s.memOk) : (packetHead s ctx qi).1.memOk := by
  unfold packetHead
  split
  · exact h
  · split
    · exact h
    · grind [unitRead_memOk, dropRemotes_memOk]

theorem startPacket_memOk {ctx qi p keep} (h : s.memOk) : (startPacket s ctx qi p keep).memOk := modQueue_memOk h

theorem endPacket_memOk {ctx qi status detail value fword} (h : s.memOk) : (endPacket s ctx qi status detail value fword).memOk :=
  completePacket_memOk h

theorem onPacket_memOk {ctx qi mine act} (hact : ∀ {t p}, t.memOk → (act t p).memOk) (h : s.memOk) :
    (onPacket ctx qi mine act s).memOk := by
  have hp := packetHead_memOk (ctx := ctx) (qi := qi) h
  unfold onPacket
  split <;> grind [keepAsked_memOk, modQueue_memOk]

@[simp] theorem execLaunch_memOk {ctx qi} (h : s.memOk) : Out.memOk (execLaunch ctx qi s) := by
  refine onPacket_memOk (fun {t p} ht => ?_) h
  grind [State.memOk, endPacket_memOk, unitRead_memOk, poisonStop_memOk, startPacket_memOk, dropRemotes_memOk]

@[simp] theorem execCopyPacket_memOk {ctx qi} (h : s.memOk) : Out.memOk (execCopyPacket ctx qi s) := by
  refine onPacket_memOk (fun {t p} ht => ?_) h
  grind [State.memOk, startPacket_memOk, setEngineQueue_memOk]

theorem eventWord_memOk {ctx k va size} (h : s.memOk) : (eventWord s ctx k va size).1.memOk := by
  grind [eventWord, translate_memOk]

@[simp] theorem execWaitev_memOk {ctx qi} (h : s.memOk) : Out.memOk (execWaitev ctx qi s) := by
  refine onPacket_memOk (fun {t p} ht => ?_) h
  grind [startPacket_memOk, endPacket_memOk, unitRead_memOk, poisonStop_memOk, dropRemotes_memOk]

@[simp] theorem execSignal_memOk {ctx qi} (h : s.memOk) : Out.memOk (execSignal ctx qi s) := by
  refine onPacket_memOk (fun {t p} ht => ?_) h
  grind [endPacket_memOk, eventWord_memOk, poisonStop_memOk, unitRead_memOk, unitWrite_memOk, dropRemotes_memOk]

theorem endMapupd_memOk {ctx qi status i fword} (h : s.memOk) : (endMapupd s ctx qi status i fword).memOk :=
  endPacket_memOk h

theorem newEntry_memOk {ctx qi src i} (h : s.memOk) : (newEntry s ctx qi src i).1.memOk := by
  grind [newEntry, unitRead_memOk]

theorem writeBackAll_memOk {p} (h : s.memOk) : (writeBackAll s p).memOk := foldl_memOk writeBackIf_memOk h _

theorem eachWarp_memOk {act ks} (hact : ∀ {t}, t.memOk → (act t).memOk) (h : s.memOk) : (eachWarp act s ks).memOk := by
  induction ks generalizing s with
  | nil => exact h
  | cons k ks ih => exact ih (focus_memOk (hact (focus_memOk h)))

theorem settleCtx_memOk {ctx} (h : s.memOk) : (settleCtx s ctx).memOk := writeBackAll_memOk (eachWarp_memOk performNt_memOk h)

theorem settlePage_memOk {pa size} (h : s.memOk) :
    (settlePage s pa size).memOk :=
  writeBackAll_memOk (eachWarp_memOk performNtRange_memOk h)

theorem liftTiles_memOk {xs} (h : s.memOk) : (liftTiles s xs).memOk := by
  fun_induction liftTiles <;> grind [restoreTile_memOk]

theorem dropTiles_memOk {v size dst xs} (h : s.memOk) : (dropTiles v size dst s xs).memOk := by
  induction xs generalizing s with
  | nil => exact h
  | cons x xs ih => exact ih (writeTiles_memOk (modTile_memOk h) _ _)

theorem movePoison_memOk {src dst size} (h : s.memOk) : (movePoison s src dst size).memOk := h

theorem copyPage_memOk {who ctx src dst a b} (h : s.memOk) : (copyPage who ctx src dst a b s).1.memOk := by
  fun_induction copyPage <;> grind [remoteWrite_memOk, touch_memOk, memOk_physWrite, fetchRemote_memOk]

theorem movePage_memOk {who ctx v src dst size} (h : s.memOk) : (movePage s who ctx v src dst size).1.memOk := by
  grind [movePage, copyPage_memOk, liftTiles_memOk, dropTiles_memOk, movePoison_memOk]

theorem putEntry_memOk {a e} (h : s.memOk) : (putEntry s a e).memOk :=
  touch_memOk (s := { s with mem := mwriteLE s.mem a 8 e }) (mwriteLE_wf a 8 e h)

theorem mapEntries_memOk {ctx qi root migrate lvl va src a b} (h : s.memOk) :
    (mapEntries ctx qi root migrate lvl va src a b s).memOk := by
  fun_induction mapEntries <;> grind [Mapped.memOk, settlePage_memOk, touch_memOk, dropTranslations_memOk, newEntry_memOk,
    putEntry_memOk, movePage_memOk]

theorem mapStore_memOk {ctx qi migrate p} (h : s.memOk) : (mapStore ctx qi migrate s p).memOk := by
  grind [mapStore, Mapped.memOk, mapEntries_memOk, endMapupd_memOk, dropRemotes_memOk, poisonStop_memOk, keepAsked_memOk]

theorem onMapupd_memOk {ctx qi mine act} (hact : ∀ {t p}, t.memOk → (act t p).memOk) (h : s.memOk) :
    (onMapupd ctx qi mine act s).memOk := by
  refine onPacket_memOk (fun {t p} ht => ?_) h
  grind [endMapupd_memOk, startPacket_memOk, settleCtx_memOk]

@[simp] theorem execMapupdInval_memOk {ctx qi} (h : s.memOk) : Out.memOk (execMapupdInval ctx qi s) :=
  onMapupd_memOk (fun ht => endMapupd_memOk (dropTranslations_memOk ht)) h

@[simp] theorem execMapupdInvalall_memOk {ctx qi} (h : s.memOk) : Out.memOk (execMapupdInvalall ctx qi s) :=
  onMapupd_memOk (fun ht => endMapupd_memOk (dropTranslations_memOk ht)) h

@[simp] theorem execMapupdWrite_memOk {ctx qi} (h : s.memOk) :
    Out.memOk (execMapupdWrite ctx qi s) :=
  onMapupd_memOk mapStore_memOk h

@[simp] theorem execMapupdMigrate_memOk {ctx qi} (h : s.memOk) :
    Out.memOk (execMapupdMigrate ctx qi s) :=
  onMapupd_memOk mapStore_memOk h

theorem refuse_memOk {ctx qi} (h : s.memOk) : (refuse s ctx qi).memOk := endPacket_memOk h

theorem onItem_memOk {ctx qi item device bits act} (hact : ∀ {t p u}, t.memOk → act t p = some u → u.memOk) (h : s.memOk) :
    (onItem ctx qi item device bits act s).memOk := by
  refine onPacket_memOk (fun {t p} ht => ?_) h
  cases e : act t p <;> grind [refuse_memOk]

theorem okItem_memOk {ctx qi value} (h : s.memOk) {t} (e : okItem s ctx qi value = some t) : t.memOk := by
  grind [okItem, endPacket_memOk]

@[simp] theorem execCtxnew_memOk {ctx qi} (h : s.memOk) : Out.memOk (execCtxnew ctx qi s) := by
  refine onItem_memOk (fun {t p u} ht e => ?_) h
  extract_lets root at e
  split at e
  · cases e
  · split at e
    · cases e
    · exact okItem_memOk (by exact ht) e

theorem dropCtx_memOk {c} (h : s.memOk) : (dropCtx s c).memOk := h

@[simp] theorem execCtxend_memOk {ctx qi} (h : s.memOk) : Out.memOk (execCtxend ctx qi s) := by
  refine onItem_memOk (fun {t p u} ht e => ?_) h
  grind [okItem_memOk, dropCtx_memOk, killCtx_memOk]

theorem dropQueue_memOk {ctx qi} (h : s.memOk) : (dropQueue s ctx qi).memOk := modCtx_memOk h

theorem failUnstarted_memOk {ctx qi q} (h : s.memOk) : (failUnstarted s ctx qi q).memOk :=
  foldl_memOk reportPacket_memOk h _

@[simp] theorem execQueue_memOk {ctx qi} (h : s.memOk) : Out.memOk (execQueue ctx qi s) := by
  refine onPacket_memOk (fun {t p} ht => ?_) h
  grind [refuse_memOk, endPacket_memOk, startPacket_memOk, modQueue_memOk, failUnstarted_memOk, dropQueue_memOk, modCtx_memOk]

@[simp] theorem execL2part_memOk {ctx qi} (h : s.memOk) : Out.memOk (execL2part ctx qi s) := by
  refine onItem_memOk (fun {t p u} ht e => ?_) h
  grind [okItem_memOk, setTower_memOk]

@[simp] theorem execLtab_memOk {ctx qi} (h : s.memOk) : Out.memOk (execLtab ctx qi s) := by
  refine onItem_memOk (fun {t p u} ht e => ?_) h
  split at e
  · cases e
  · extract_lets t1 at e
    have h1 : t1.memOk := modCtx_memOk ht
    exact okItem_memOk (by exact h1) e

@[simp] theorem execNtab_memOk {ctx qi} (h : s.memOk) : Out.memOk (execNtab ctx qi s) := by
  refine onItem_memOk (fun {t p u} ht e => ?_) h
  split at e
  · cases e
  · extract_lets t1 at e
    have h1 : t1.memOk := modCtx_memOk ht
    exact okItem_memOk (by exact h1) e

@[simp] theorem execAreas_memOk {ctx qi} (h : s.memOk) : Out.memOk (execAreas ctx qi s) := by
  refine onItem_memOk (fun {t p u} ht e => ?_) h
  grind [okItem_memOk, modCtx_memOk]

@[simp] theorem execTrapctl_memOk {ctx qi} (h : s.memOk) : Out.memOk (execTrapctl ctx qi s) := by
  refine onItem_memOk (fun {t p u} ht e => ?_) h
  grind [okItem_memOk, modCtx_memOk]

@[simp] theorem execPower_memOk {ctx qi} (h : s.memOk) : Out.memOk (execPower ctx qi s) := by
  refine onItem_memOk (fun {t p u} ht e => ?_) h
  grind [okItem_memOk, modCluster_memOk]

@[simp] theorem execWeights_memOk {ctx qi} (h : s.memOk) : Out.memOk (execWeights ctx qi s) := by
  refine onItem_memOk (fun {t p u} ht e => ?_) h
  grind [okItem_memOk, modCluster_memOk]

@[simp] theorem execSched_memOk {ctx qi} (h : s.memOk) : Out.memOk (execSched ctx qi s) := by
  refine onItem_memOk (fun {t p u} ht e => ?_) h
  grind [okItem_memOk, modCtx_memOk]

@[simp] theorem execQuote_memOk {ctx qi} (h : s.memOk) : Out.memOk (execQuote ctx qi s) := by
  refine onItem_memOk (fun {t p u} ht e => ?_) h
  grind [okItem_memOk, unitRead_memOk, endPacket_memOk, poisonStop_memOk, unitWrite_memOk, dropRemotes_memOk]

@[simp] theorem execPeer_memOk {ctx qi} (h : s.memOk) : Out.memOk (execPeer ctx qi s) := by
  refine onItem_memOk (fun {t p u} ht e => ?_) h
  split at e
  · cases e
  · exact okItem_memOk (by exact ht) e

@[simp] theorem execCtxstat_memOk {ctx qi} (h : s.memOk) : Out.memOk (execCtxstat ctx qi s) := by
  refine onItem_memOk (fun {t p u} ht e => ?_) h
  grind [okItem_memOk, unitWrite_memOk, endPacket_memOk, poisonStop_memOk]

@[simp] theorem execPacketReread_memOk {ctx qi} (h : s.memOk) : Out.memOk (execPacketReread ctx qi s) := by
  grind [execPacketReread, Out.memOk, packetHead_memOk, parkPacket_memOk, modQueue_memOk, poisonStop_memOk, endPacket_memOk,
    refuse_memOk]

@[simp] theorem execQuantumEnd_memOk (h : s.memOk) : Out.memOk (execQuantumEnd s) := by
  grind [execQuantumEnd, State.memOk, Out.memOk, chooseResident_memOk]

/-! The host link. -/

theorem acknowledge_memOk {n} (h : s.memOk) : (acknowledge s n).memOk := h

theorem receive_memOk {ty m act} (hact : ∀ {t}, t.memOk → (act t).memOk) (h : s.memOk) : (receive ty m act s).memOk := by
  have ha : (acknowledge s m.ackn).memOk := acknowledge_memOk h
  unfold receive
  split
  · exact h
  · split
    · exact hact ha
    · split
      · exact sendAck_memOk h
      · exact h

@[simp] theorem execAck_memOk {m} (h : s.memOk) : Out.memOk (execAck m s) := by
  grind [execAck, Out.memOk, acknowledge_memOk]

theorem mgmtPut_memOk {o x} (h : s.memOk) : (mgmtPut s o x).memOk := by
  grind [mgmtPut, State.memOk]

theorem bootStandby_memOk (h : s.memOk) : (bootStandby s).memOk := by
  grind [bootStandby, State.memOk, sendEvent_memOk]

theorem mgmtWrite_memOk {at_ bs} (h : s.memOk) : (mgmtWrite s at_ bs).memOk := by
  have h1 : (bs.zipIdx.foldl (fun s p => mgmtPut s (at_ + p.2) p.1) s).memOk := foldl_memOk mgmtPut_memOk h _
  unfold mgmtWrite
  split
  · exact bootStandby_memOk h1
  · exact h1

theorem hostWrite_memOk {m} (h : s.memOk) : (hostWrite m s).memOk := by
  grind [hostWrite, mgmtWrite_memOk, sendEvent_memOk, unitWrite_memOk, poisonStop_memOk]

@[simp] theorem execWrite_memOk {m} (h : s.memOk) : Out.memOk (execWrite m s) := receive_memOk hostWrite_memOk h

@[simp] theorem execHostWindowWrite_memOk {m} (h : s.memOk) : Out.memOk (execHostWindowWrite m s) := by
  unfold execHostWindowWrite
  show State.memOk _
  split
  · exact receive_memOk hostWrite_memOk h
  · exact h

@[simp] theorem execStandbyImageBoot_memOk {m} (h : s.memOk) : Out.memOk (execStandbyImageBoot m s) := by
  unfold execStandbyImageBoot
  show State.memOk _
  split
  · exact receive_memOk hostWrite_memOk h
  · exact h

theorem replyRead_memOk {m bs} (h : s.memOk) : (replyRead s m bs).memOk := sendMsg_memOk h

theorem serveRead_memOk {m} (h : s.memOk) : (serveRead m s).memOk := by
  grind [serveRead, State.memOk, unitRead_memOk, replyRead_memOk, dropRemotes_memOk, sendEvent_memOk, poisonStop_memOk]

theorem serveReads_memOk {xs} (h : s.memOk) : (serveReads xs s).memOk := by
  fun_induction serveReads <;> grind [serveRead_memOk]

theorem retryReads_memOk (h : s.memOk) : (retryReads s).memOk := serveReads_memOk h

theorem hostAnswer_memOk {m} (h : s.memOk) : (hostAnswer m s).memOk := retryReads_memOk h

theorem hostRead_memOk {m} (h : s.memOk) : (hostRead m s).memOk := by
  grind [hostRead, State.memOk, hostAnswer_memOk, replyRead_memOk, sendEvent_memOk, serveRead_memOk]

@[simp] theorem execRead_memOk {m} (h : s.memOk) : Out.memOk (execRead m s) := receive_memOk hostRead_memOk h

@[simp] theorem execHostReadResponse_memOk {m} (h : s.memOk) : Out.memOk (execHostReadResponse m s) := by
  unfold execHostReadResponse
  show State.memOk _
  split
  · exact receive_memOk hostAnswer_memOk h
  · exact h

@[simp] theorem execKick_memOk {m} (h : s.memOk) : Out.memOk (execKick m s) := by
  refine receive_memOk (fun {t} ht => ?_) h
  split
  · exact ht
  · exact modQueue_memOk ht

@[simp] theorem execComplete_memOk {m} (h : s.memOk) : Out.memOk (execComplete m s) := receive_memOk (fun ht => ht) h

theorem askAgain_memOk {xs} (h : s.memOk) : (askAgain xs s).memOk := by
  fun_induction askAgain <;> grind [State.memOk, sendMsg_memOk]

theorem renumber_memOk (h : s.memOk) : (renumber s).memOk := askAgain_memOk h

theorem sendSync_memOk {resp ctx payload} (h : s.memOk) : (sendSync s resp ctx payload).memOk := h

@[simp] theorem execSync_memOk {m} (h : s.memOk) : Out.memOk (execSync m s) := by
  have hr : (receive 5 m (fun s => s) s).memOk := receive_memOk (fun ht => ht) h
  grind [execSync, Out.memOk, State.memOk, acknowledge_memOk, renumber_memOk, sendSync_memOk]

@[simp] theorem execAckTimer_memOk (h : s.memOk) : Out.memOk (execAckTimer s) := by
  grind [execAckTimer, Out.memOk, sendAck_memOk]

@[simp] theorem execResendTimeout_memOk (h : s.memOk) : Out.memOk (execResendTimeout s) := by
  grind [execResendTimeout, State.memOk, Out.memOk]

@[simp] theorem execStandbyTakeover_memOk {failed} (h : s.memOk) : Out.memOk (execStandbyTakeover failed s) := by
  grind [execStandbyTakeover, State.memOk, Out.memOk, sendSync_memOk, renumber_memOk]

@[simp] theorem execSignedTestToken_memOk {token} (h : s.memOk) : Out.memOk (execSignedTestToken token s) := by
  grind [execSignedTestToken, State.memOk, Out.memOk]

@[simp] theorem execPeerJoin_memOk {p} (h : s.memOk) : Out.memOk (execPeerJoin p s) := by
  grind [execPeerJoin, State.memOk, Out.memOk]

@[simp] theorem execDeviceReset_memOk : Out.memOk (execDeviceReset s) := reset_memOk

/-! The matrix unit. -/

theorem drainScalar_memOk {cl op} (h : s.memOk) : (drainScalar s cl op).memOk := by
  unfold drainScalar
  split
  · exact modWarp_memOk h
  · exact h

theorem isobarDue.ensureSeq_memOk {cluster} (h : s.memOk) : (isobarDue.ensureSeq cluster s).memOk := by
  grind [isobarDue.ensureSeq, setWarp_memOk]

theorem isobarDue_memOk {cluster} (h : s.memOk) : (isobarDue s cluster).memOk := by
  grind [isobarDue, setCluster_memOk, modWarp_memOk, isobarDue.ensureSeq_memOk]

@[simp] theorem execIsobarWindow_memOk {cluster} (h : s.memOk) : Out.memOk (execIsobarWindow cluster s) := isobarDue_memOk h

@[simp] theorem execMatrixOperationPerformed_memOk {cluster} (h : s.memOk) :
    Out.memOk (execMatrixOperationPerformed cluster s) := by
  have h1 : (isobarDue s cluster).memOk := isobarDue_memOk h
  unfold execMatrixOperationPerformed
  show State.memOk _
  extract_lets s1
  split
  · split
    · exact h1
    · split
      · split
        · exact poisonStop_memOk h1
        · exact h1
      · exact pulse_memOk (drainScalar_memOk (foldl_memOk setClean_memOk (setCluster_memOk h1) _))
  · exact h1

@[simp] theorem execBatchComplete_memOk {cluster} (h : s.memOk) : Out.memOk (execBatchComplete cluster s) := by
  grind [execBatchComplete, Out.memOk, setCluster_memOk]

theorem issueMop_memOk {op} (h : s.memOk) : (issueMop s op).memOk := by
  grind [issueMop, stall_memOk, setCluster_memOk, advance_memOk, State.modW_memOk]

@[simp] theorem execMbatch_memOk {d} (h : s.memOk) : Out.memOk (execMbatch d s) := by
  grind [execMbatch, Out.memOk, setCluster_memOk, advance_memOk, setS_memOk]

@[simp] theorem execMwaitb_memOk {lit a} (h : s.memOk) : Out.memOk (execMwaitb lit a s) := by
  grind [execMwaitb, Out.memOk, advance_memOk, stall_memOk]

@[simp] theorem execMwaitf_memOk {lit a} (h : s.memOk) : Out.memOk (execMwaitf lit a s) := by
  grind [execMwaitf, Out.memOk, advance_memOk, stall_memOk]

@[simp] theorem execRun_memOk {cluster} (h : s.memOk) : Out.memOk (execRun cluster s) := by
  grind [execRun, Out.memOk, finishHead_memOk, setWarp_memOk, setEngineQueue_memOk]

@[simp] theorem execRunComplete_memOk {cluster} (h : s.memOk) : Out.memOk (execRunComplete cluster s) := by
  grind [execRunComplete, Out.memOk, finishCmd_memOk, modWarp_memOk]

/-! SPAWN. -/

@[simp] theorem execSpawn_memOk {lit hd n} (h : s.memOk) : Out.memOk (execSpawn lit hd n s) := by
  unfold execSpawn
  extract_lets hv
  have hn := spawnNode_memOk (hd := hv) h
  show State.memOk _
  split
  · grind [SpawnTo.memOk]
  · grind [Prep.memOk, emitRecords_memOk, advance_memOk, writeBackCtx_memOk, prep_memOk, stall_memOk]

@[simp] theorem execSpawnu_memOk {lit hd rs} (h : s.memOk) : Out.memOk (execSpawnu lit hd rs s) := by
  unfold execSpawnu
  extract_lets hv
  have hn := spawnNode_memOk (hd := hv) h
  show State.memOk _
  split
  · grind [SpawnTo.memOk]
  · grind [emitRecord_memOk, raise0_memOk, advance_memOk, writeBackCtx_memOk, stall_memOk]

/-! Cross-lane operations. -/

theorem cross_memOk {o g} (h : s.memOk) : (cross o g s).memOk := by
  grind [cross, Prep.memOk, prep_memOk, advance_memOk, raiseFlags_memOk, putResult_memOk]

theorem quadDelta_memOk {o g} (h : s.memOk) : (quadDelta o g s).memOk := cross_memOk h

/-! Every instruction and event. -/

/-- Case by case what the instruction runs; instructions that share an operation share its rule. -/
theorem exec_memOk {i} (h : s.memOk) : Out.memOk (exec i s) := by
  cases i with
  | nop | swr | swrLit | bra | call | ret | cimScrub | frameq | sseed => exact h
  | trap | trapEntry => exact takeTrap_memOk h
  | yield => exact advance_memOk h
  | icpf => exact fillCode_memOk h
  | ntdrain => exact advance_memOk (performNt_memOk h)
  | claim | claimLit => exact claimFor_memOk h
  | waitmem | waitmemLit => exact waitmemReq_memOk h
  | plset => exact setPlanes_memOk h
  | mset | fcmp | fcmpx => exact compare_memOk h
  | mget | mpop | mfirst => exact maskToLanes_memOk h
  | mand | mor | mxor | mandn | mnot => exact maskOp2_memOk h
  | iadd | isub | imul | imulh | imad | imin | imax | iabs | ineg | iadds | isubs | lea | iadd64 | isub64 | idiv | irem | and
   | or | xor | andn | not | shl | shr | sra | rot | bfe | bfi | popc | clz | brev | sel | mov | fadd | fsub | fmul | ffma
   | fmin | fmax | fabs | fneg | frnd | ffrac | fldexp | fclass | fcopysign | fdiv | fsqrt | hadd2 | hmul2 | hfma2 | badd2
   | bmul2 | bfma2 | padd16 | psub16 | pmin16 | pmax16 | padds16 | pdot4t8 | pdot8i4 | pshf | cvt | cvtsr | pack
   | unpack => exact alu_memOk h
  | iaddi | andi | ori | xori | shli | shri | srai | movi => exact immExec_memOk h
  | icmp | icmpn => exact intCompare_memOk h
  | frcp | frsq | fexp2 | flog2 | fsinp | fcosp | ftanh | fsigm => exact elementary_memOk h
  | shfl | vote | redu | scan | bcast | qswp => exact cross_memOk h
  | qdx | qdy => exact quadDelta_memOk h
  | ld | lde | lds | ld64 => exact loadForm_memOk h
  | st | ste | sts | ntst | st64 => exact storeForm_memOk h
  | ldu | stu | lhbind | lhinv => exact logged_memOk h
  | aadd | amin | amax | aand | aor | axor | axch | acas | afadd | ainc => exact atomForm_memOk h
  | tldg | tstg => exact tileForm_memOk h
  | mldb | mlda | mmul | mlutb | mlut | mzero | mdrain => exact issueMop_memOk h
  | isobarWindow => exact execIsobarWindow_memOk h
  | bar | bara | barw => exact barGo_memOk h
  | binLaunch => exact execBinLaunch_memOk h
  | binTimerExpiry => exact execBinTimerExpiry_memOk h
  | sample | samplel | sampleg => exact sampleForm_memOk h
  | sand | sor | sandc | sorc => exact gate2_memOk h
  | copyCmd | copy2d | fill | convert | decomp => exact copyEvent_memOk h
  | yieldExpiry | leaseTick => exact modWarp_memOk h
  | icacheFill => exact execIcacheFill_memOk h
  | peerAccess => exact retryReads_memOk h
  | deviceReset => exact execDeviceReset_memOk
  | exit => exact execExit_memOk h
  | brk => exact execBrk_memOk h
  | rtt => exact execRtt_memOk h
  | srd => exact execSrd_memOk h
  | lease => exact execLease_memOk h
  | giveback => exact execGiveback_memOk h
  | chmapC => exact execChmapC_memOk h
  | chmapP => exact execChmapP_memOk h
  | waitmemRecheck => exact execWaitmemRecheck_memOk h
  | claimWaitLimit => exact execClaimWaitLimit_memOk h
  | brs => exact execBrs_memOk h
  | brm => exact execBrm_memOk h
  | brany => exact execBrany_memOk h
  | brall => exact execBrall_memOk h
  | callm => exact execCallm_memOk h
  | plsw => exact execPlsw_memOk h
  | loop => exact execLoop_memOk h
  | loopx => exact execLoopx_memOk h
  | mlit => exact execMlit_memOk h
  | icmpi => exact execIcmpi_memOk h
  | prf => exact execPrf_memOk h
  | loadReturn => exact execLoadReturn_memOk h
  | ldt => exact execLdt_memOk h
  | stt => exact execStt_memOk (_tr := false) h
  | lhq => exact execLhq_memOk h
  | push => exact execPush_memOk h
  | yldc => exact execYldc_memOk h
  | cwait => exact execCwait_memOk h
  | ctest => exact execCtest_memOk h
  | tldv => exact execTldv_memOk h
  | tstv => exact execTstv_memOk (_tr := false) h
  | mwait => exact execMwait_memOk (_tr := false) h
  | mtest => exact execMtest_memOk (_tr := false) h
  | tileTransferComplete => exact execTileTransferComplete_memOk h
  | mbatch => exact execMbatch_memOk h
  | mwaitb => exact execMwaitb_memOk h
  | mwaitf => exact execMwaitf_memOk h
  | matrixOperationPerformed => exact execMatrixOperationPerformed_memOk h
  | batchComplete => exact execBatchComplete_memOk h
  | spawn => exact execSpawn_memOk h
  | spawnu => exact execSpawnu_memOk h
  | await => exact execAwait_memOk h
  | nodeq => exact execNodeq_memOk h
  | threadComplete => exact execThreadComplete_memOk h
  | continuationSteal => exact execContinuationSteal_memOk h
  | channelDequeueWake => exact execChannelDequeueWake_memOk h
  | imgld => exact execImgld_memOk h
  | imgst => exact execImgst_memOk (_tr := false) h
  | trace => exact execTrace_memOk (_lit := none) h
  | hitrd => exact execHitrd_memOk h
  | sgen => exact execSgen_memOk h
  | snot => exact execSnot_memOk h
  | smux => exact execSmux_memOk h
  | scnt => exact execScnt_memOk h
  | scvtVal => exact execScvtVal_memOk h
  | scvtDraw => exact execScvtDraw_memOk h
  | scvtWord => exact execScvtWord_memOk h
  | sregen => exact execSregen_memOk h
  | slen => exact execSlen_memOk h
  | scls => exact execScls_memOk h
  | notify => exact execNotify_memOk h
  | run => exact execRun_memOk h
  | runComplete => exact execRunComplete_memOk h
  | rasterRecord => exact execRasterRecord_memOk h
  | close => exact execClose_memOk h
  | tileClosed => exact execTileClosed_memOk h
  | classify => exact execClassify_memOk h
  | tileRelease => exact execTileRelease_memOk h
  | fragmentRecord => exact execFragmentRecord_memOk h
  | advance => exact execAdvance_memOk h
  | pageWalk => exact execPageWalk_memOk h
  | placeWorkgroup => exact execPlaceWorkgroup_memOk h
  | workgroupEvict => exact execWorkgroupEvict_memOk h
  | workgroupResume => exact execWorkgroupResume_memOk h
  | preemptDeadline => exact execPreemptDeadline_memOk h
  | matrixSetRelease => exact execMatrixSetRelease_memOk h
  | quantumEnd => exact execQuantumEnd_memOk h
  | barometerWindow => exact execBarometerWindow_memOk h
  | nearThresholdEntry => exact execNearThresholdEntry_memOk h
  | nearThresholdExit => exact execNearThresholdExit_memOk h
  | leaseRefill => exact execLeaseRefill_memOk h
  | stackThermalChange => exact execStackThermalChange_memOk h
  | watchdogFire => exact execWatchdogFire_memOk h
  | eccUncorrectable => exact execEccUncorrectable_memOk h
  | contextStop => exact execContextStop_memOk h
  | contextResume => exact execContextResume_memOk h
  | launch => exact execLaunch_memOk h
  | copyPacket => exact execCopyPacket_memOk h
  | waitev => exact execWaitev_memOk h
  | signal => exact execSignal_memOk h
  | mapupdInval => exact execMapupdInval_memOk h
  | mapupdInvalall => exact execMapupdInvalall_memOk h
  | mapupdWrite => exact execMapupdWrite_memOk h
  | mapupdMigrate => exact execMapupdMigrate_memOk h
  | ctxnew ctx qi => exact execCtxnew_memOk (ctx := ctx) (qi := qi) h
  | ctxend => exact execCtxend_memOk h
  | queue => exact execQueue_memOk h
  | l2part => exact execL2part_memOk h
  | ltab => exact execLtab_memOk h
  | ntab => exact execNtab_memOk h
  | areas => exact execAreas_memOk h
  | trapctl => exact execTrapctl_memOk h
  | power => exact execPower_memOk h
  | weights => exact execWeights_memOk h
  | sched => exact execSched_memOk h
  | quote => exact execQuote_memOk h
  | peer => exact execPeer_memOk h
  | ctxstat => exact execCtxstat_memOk h
  | packetReread => exact execPacketReread_memOk h
  | ack => exact execAck_memOk h
  | write => exact execWrite_memOk h
  | read => exact execRead_memOk h
  | kick => exact execKick_memOk h
  | complete => exact execComplete_memOk h
  | sync => exact execSync_memOk h
  | hostReadResponse => exact execHostReadResponse_memOk h
  | ackTimer => exact execAckTimer_memOk h
  | resendTimeout => exact execResendTimeout_memOk h
  | hostWindowWrite => exact execHostWindowWrite_memOk h
  | standbyImageBoot => exact execStandbyImageBoot_memOk h
  | standbyTakeover => exact execStandbyTakeover_memOk h
  | peerJoin => exact execPeerJoin_memOk h
  | signedTestToken => exact execSignedTestToken_memOk h

/-! Issue. -/

theorem fetchPiece_memOk {va n} (h : s.memOk) : (fetchPiece s va n).1.memOk := by
  grind [fetchPiece, translate_memOk, fetchRemote_memOk, homeFirst_memOk, touch_memOk]

theorem fetchPieces_memOk {xs ys} (h : s.memOk) : (fetchPieces s xs ys).1.memOk := by
  fun_induction fetchPieces <;> grind [fetchPiece_memOk]

theorem fetchWords_memOk {pc} (h : s.memOk) : (fetchWords s pc).1.memOk := by
  grind [fetchWords, fetchPieces_memOk]

theorem fetchAll_memOk {xs ys} (h : s.memOk) : (fetchAll xs s ys).memOk := by
  fun_induction fetchAll <;> grind [FetchEnd.memOk, fetchWords_memOk]

theorem freeze_memOk {ls} (h : s.memOk) : (freeze s ls).memOk := h

theorem mapNext_memOk {o : Out} {f} (hf : ∀ {t}, t.memOk → (f t).memOk) (ho : o.memOk) : Out.memOk (mapNext o f) := by
  cases o with
  | next t => exact hf ho
  | fault | refused => trivial

theorem beginIssue_memOk {r all lanes} (h : s.memOk) : (beginIssue s r all lanes).memOk := h

theorem idleIssue_memOk (h : s.memOk) : (idleIssue s).memOk := h

theorem tryLater_memOk (h : s.memOk) : (tryLater s).memOk := h

theorem undo_memOk {t} (h : s.memOk) : (undo s t).memOk := tryLater_memOk (keepAsked_memOk h)

theorem account_memOk {t cost} (ht : t.memOk) : (account s t cost).memOk := by
  grind [account, modCluster_memOk, noteAwake_memOk, pulse_memOk, State.modW_memOk, stampW_memOk]

theorem settle_memOk {t cost} (h : s.memOk) (ht : t.memOk) : (settle s t cost).memOk := by
  grind [settle, poisonStop_memOk, tryLater_memOk, undo_memOk, popAll_memOk, account_memOk, takeTrap_memOk, State.modW_memOk]

theorem issueOne_memOk {r i all} (h : s.memOk) : Out.memOk (issueOne s r i all) :=
  mapNext_memOk (fun ht => settle_memOk (idleIssue_memOk h) ht) (exec_memOk (beginIssue_memOk (idleIssue_memOk h)))

theorem joinPlane_memOk {q0 t m} (ht : t.memOk) : (joinPlane q0 s t m).memOk := ht

/-- Planes run one after another: what they have done together, and the first that got stuck. -/
theorem runPlanes_memOk {all is p} (hp : p.memOk) : (runPlanes s all is p).memOk := by
  induction is generalizing p with
  | nil => exact hp
  | cons x is ih =>
    obtain ⟨hacc, hstuck⟩ := hp
    have hbegin : (beginIssue (p.acc.modW fun w => { w with queue := s.w.queue, o := s.w.o, s := s.w.s }) x.1 all
        x.1.lanes).memOk :=
      beginIssue_memOk (State.modW_memOk hacc)
    have hx := exec_memOk (i := x.2) hbegin
    unfold runPlanes
    split
    · next t e =>
      rw [e] at hx
      split
      · refine ih ⟨hacc, fun u hu => ?_⟩
        cases hs : p.stuck with
        | none =>
          obtain rfl : t = u := by simpa [hs] using hu
          exact hx
        | some v =>
          obtain rfl : v = u := by simpa [hs] using hu
          exact hstuck v hs
      · split
        · refine ih ?_
          split <;> exact ⟨hacc, hstuck⟩
        · exact ih ⟨joinPlane_memOk hx, hstuck⟩
    · exact ih ⟨hacc, hstuck⟩

theorem startPlanes_memOk {all hold is} (h : s.memOk) : (startPlanes s all hold is).memOk := by
  grind [startPlanes, Planes.memOk, runPlanes_memOk, State.modW_memOk]

theorem issuePlanes_memOk {all is} (h : s.memOk) : Out.memOk (issuePlanes s all is) := by
  have h1 : (idleIssue s).memOk := idleIssue_memOk h
  have hp (again) : (startPlanes (idleIssue s) all again is).memOk := startPlanes_memOk h1
  unfold issuePlanes
  extract_lets s1 cost p
  split
  · exact mapNext_memOk (fun ht => settle_memOk h1 ht) (exec_memOk h1)
  · next t _ _ e => exact settle_memOk h1 ((hp false).2 _ e)
  · exact mapNext_memOk (fun ht => settle_memOk h1 ht) (exec_memOk (State.modW_memOk (hp true).1))
  · exact settle_memOk h1 (hp false).1

theorem trapOffset_memOk {t} (h : s.memOk) : Out.memOk (trapOffset s t) := by
  have h1 : (idleIssue s).memOk := idleIssue_memOk h
  exact mapNext_memOk (fun hu => settle_memOk h1 hu) (exec_memOk (i := .trapEntry t) h1)

theorem issueDecoded_memOk {is} (h : s.memOk) : Out.memOk (issueDecoded s is) := by
  unfold issueDecoded
  split
  · exact h
  · extract_lets all
    split
    · exact undo_memOk h
    · split
      · exact trapOffset_memOk h
      · split
        · exact issueOne_memOk h
        · exact issuePlanes_memOk h

theorem beforeIssue_memOk (h : s.memOk) : (beforeIssue s).1.memOk := by
  grind [beforeIssue, refill_memOk, finishExit_memOk, popAll_memOk]

theorem atOffset_memOk (h : s.memOk) : (atOffset s).memOk := by
  grind [atOffset, beginIssue_memOk]

theorem issue_memOk (h : s.memOk) : Out.memOk (issue s) := by
  grind [issue, Out.memOk, FetchEnd.memOk, beforeIssue_memOk, settle_memOk, idleIssue_memOk, raiseP_memOk, atOffset_memOk,
    poisonStop_memOk, tryLater_memOk, fetchAll_memOk, trapOffset_memOk, freeze_memOk, issueDecoded_memOk]

theorem wakeTurn_memOk (h : s.memOk) : (wakeTurn s).memOk := by
  grind [wakeTurn, State.modW_memOk, genBump_memOk, barGo_memOk, popAll_memOk, jump_memOk, pulse_memOk, serveClaim_memOk]

theorem warpTurn_memOk {k} (h : s.memOk) : Out.memOk (warpTurn k s) := by
  grind [warpTurn, Out.memOk, focus_memOk, issue_memOk, wakeTurn_memOk]

theorem passTime_memOk {n} (h : s.memOk) : (passTime n s).memOk := by
  grind [passTime, State.memOk, noteAwake_memOk, mapWarps_memOk]

/-! Turns. -/

theorem engineEvents_memOk {t} (ht : t.memOk) (x) : ∀ e ∈ engineEvents s x, Out.memOk (e t) := by
  unfold engineEvents
  split
  · simp
  · split <;> simp [ht]

theorem queueEvents_memOk {t} (ht : t.memOk) (c q) : ∀ e ∈ queueEvents c q, Out.memOk (e t) := by
  simp [queueEvents, ht]

theorem warpEvents_memOk {t} (ht : t.memOk) (w) : ∀ e ∈ warpEvents s w, Out.memOk (e t) := by
  unfold warpEvents
  simp only [List.forall_mem_append]
  refine ⟨⟨⟨⟨?_, ?_⟩, ?_⟩, ?_⟩, ?_⟩
  · split
    · split <;> simp [ht]
    · split <;> simp [ht]
    all_goals simp [ht]
  all_goals split <;> simp [ht]

theorem clusterEvents_memOk {t} (ht : t.memOk) (c k) : ∀ e ∈ clusterEvents s c k, Out.memOk (e t) := by
  unfold clusterEvents
  extract_lets seq engines places runs
  clear_value runs
  simp only [List.forall_mem_append, List.forall_mem_flatMap]
  refine ⟨⟨⟨⟨⟨⟨⟨fun x _ => engineEvents_memOk ht x, ?_⟩, ?_⟩, ?_⟩, ?_⟩, ?_⟩, ?_⟩, ?_⟩
  · simp [ht]
  · split <;> simp [ht]
  · simp [ht]
  · split <;> simp [ht]
  · simp [ht]
  · simp [ht]
  · split
    · simp
    · simp only [List.forall_mem_flatMap]
      simp [ht]

theorem towerEvents_memOk {t} (ht : t.memOk) (c k) : ∀ e ∈ towerEvents s c k, Out.memOk (e t) := by
  unfold towerEvents
  simp only [List.forall_mem_append, List.forall_mem_flatMap, List.forall_mem_map]
  refine ⟨⟨?_, ?_⟩, fun x _ => engineEvents_memOk ht x⟩
  · simp [ht]
  · split <;> simp [ht]

theorem placeEvents_memOk {t} (ht : t.memOk) : ∀ e ∈ placeEvents s, Out.memOk (e t) := by
  unfold placeEvents
  simp only [List.forall_mem_append, List.forall_mem_flatMap, List.forall_mem_map]
  exact ⟨fun _ _ _ _ _ _ => execPlaceWorkgroup_memOk ht, fun _ _ _ _ => execWorkgroupResume_memOk ht⟩

/-- Whichever event happens, it keeps the canonical form. -/
theorem possibleEvents_memOk {t} (ht : t.memOk) : ∀ e ∈ possibleEvents s, Out.memOk (e t) := by
  unfold possibleEvents
  simp only [List.forall_mem_append, List.forall_mem_flatMap, List.forall_mem_map]
  refine ⟨⟨⟨⟨⟨⟨⟨⟨⟨⟨?_, ?_⟩, fun w _ => warpEvents_memOk ht w⟩, ?_⟩, fun c _ => clusterEvents_memOk ht c.1 c.2⟩,
    fun x _ => towerEvents_memOk ht x.1 x.2⟩, fun x _ => engineEvents_memOk ht x⟩, ?_⟩, ?_⟩, fun c _ q _ => queueEvents_memOk ht c.1 q.1⟩,
    placeEvents_memOk ht⟩
  · simp [ht]
  · intro c _
    refine ⟨?_, by simp [ht]⟩
    split <;> simp [ht]
  · simp [ht]
  · simp [ht]
  · simp [ht]

theorem ownTurn_memOk (h : s.memOk) : Out.memOk (ownTurn s) := by
  unfold ownTurn
  split
  · exact execDeviceReset_memOk
  · split
    · next e he => exact possibleEvents_memOk h e (List.mem_of_find?_eq_some he)
    · split
      · exact warpTurn_memOk h
      · exact passTime_memOk h

theorem agendaWarp_memOk {k} (h : s.memOk) : Out.memOk (agendaWarp k s) := by
  grind [agendaWarp, Out.memOk, warpTurn_memOk]

theorem evictTurn_memOk {core ctx pa} (h : s.memOk) : (evictTurn core ctx pa s).memOk := by
  grind [evictTurn, evictLine_memOk]

theorem busyTurn_memOk {k n} (h : s.memOk) : (busyTurn k n s).memOk := modWarp_memOk h

theorem takeTurn_memOk {t} (h : s.memOk) : Out.memOk (takeTurn t s) := by
  unfold takeTurn
  split
  · exact agendaWarp_memOk h
  · split
    · exact h
    · exact exec_memOk h
  · exact passTime_memOk h
  · exact evictTurn_memOk h
  · exact busyTurn_memOk h

/-! The step. -/

/-- A step takes the turn that the agenda gives, or its own. -/
theorem step_memOk (h : s.memOk) : Out.memOk (step s) := by
  grind [step, State.memOk, ownTurn_memOk, takeTurn_memOk]

end

/-- Settles O60: a step is a chain of functions that each keep the canonical form. -/
theorem stepKeepsMemoryCanonical : Obligations.StepKeepsMemoryCanonical := by
  intro s t hs e
  have h := step_memOk hs
  rwa [e] at h

end Sys2Proof.Machine
end

section
/-! O31: translation.

A walk reads five entries, writes the low byte of the leaf, and fills caches. What the caches change is one relation, closed under
composition (`onlyWalkCaches`); the byte written is the only change of memory. -/
namespace Sys2Proof.Machine

/-! Bits of an entry, and its low byte in memory. -/

/-- What an access sets in a leaf: A, and D for a write. -/
def accessBits (k : Access) : Nat := if k == .write || k == .atomic then 0xC0 else 0x40

theorem accessBits_lt (k : Access) : accessBits k < 2 ^ 8 := by
  unfold accessBits
  split <;> decide

theorem testBit_accessBits {k : Access} {i : Nat} (h : (accessBits k).testBit i = true) : i = 6 ∨ i = 7 := by
  have hi : i < 8 := by
    by_contra hi
    rw [Nat.testBit_lt_two_pow ((accessBits_lt k).trans_le (Nat.pow_le_pow_right (by decide) (by omega)))] at h
    cases h
  have hwrite : ∀ i < 8, Nat.testBit 0xC0 i = true → i = 6 ∨ i = 7 := by decide
  have hread : ∀ i < 8, Nat.testBit 0x40 i = true → i = 6 ∨ i = 7 := by decide
  unfold accessBits at h
  split at h
  · exact hwrite i hi h
  · exact hread i hi h

theorem bitsAt_or_accessBits (e : Nat) (k : Access) {lo n : Nat} (h : lo + n ≤ 6 ∨ 8 ≤ lo) :
    bitsAt (e ||| accessBits k) lo n = bitsAt e lo n := by
  refine Nat.eq_of_testBit_eq fun i => ?_
  have hbit : i < n → (accessBits k).testBit (lo + i) = false := fun hi => by
    by_contra hb
    have := testBit_accessBits (Bool.eq_true_of_not_eq_false hb)
    omega
  simp only [bitsAt, Nat.testBit_mod_two_pow, Nat.testBit_div_two_pow, Nat.testBit_or]
  grind

theorem entPa_or_accessBits (e : Nat) (k : Access) : entPa (e ||| accessBits k) = entPa e := by
  rw [entPa, bitsAt_or_accessBits e k (by decide), entPa]

/-- The low byte rewritten, as a walk does it, sets the bits in the whole entry. -/
theorem setLow_eq_or (e : Nat) (k : Access) : e - e % 256 + (e % 256 ||| accessBits k) = e ||| accessBits k := by
  have hlow : e % 256 ||| accessBits k < 2 ^ 8 := Nat.or_lt_two_pow (Nat.mod_lt _ (by decide)) (accessBits_lt k)
  calc e - e % 256 + (e % 256 ||| accessBits k)
      = 2 ^ 8 * (e / 256) + (e % 256 ||| accessBits k) := by omega
    _ = 2 ^ 8 * (e / 256) ||| e % 256 ||| accessBits k := by rw [Nat.two_pow_add_eq_or_of_lt hlow, Nat.or_assoc]
    _ = e ||| accessBits k := by
      rw [← Nat.two_pow_add_eq_or_of_lt (Nat.mod_lt e (by decide) : e % 256 < 2 ^ 8), Nat.div_add_mod e 256]

theorem or_accessBits_lt {e : Nat} (k : Access) (h : e < 2 ^ 64) : e ||| accessBits k < 2 ^ 64 :=
  Nat.or_lt_two_pow h ((accessBits_lt k).trans (by decide))

theorem leNat_lt : ∀ bs : List Byte, leNat bs < 256 ^ bs.length
  | [] => by decide
  | b :: bs => by
    have := leNat_lt bs
    have := b.isLt
    simp only [leNat, List.length_cons, pow_succ]
    omega

theorem word64_lt (s : State) (a : Nat) : word64 s a < 2 ^ 64 := by
  have h := leNat_lt (mreadN s.mem a 8)
  simpa [word64, mreadLE, mreadN] using h

theorem ofNat_mreadLE (m : Mem) (a n : Nat) : BitVec.ofNat 8 (mreadLE m a (n + 1)) = mread m a := by
  apply BitVec.eq_of_toNat_eq
  have := (mread m a).isLt
  simp only [mreadLE, mreadN, leNat, BitVec.toNat_ofNat]
  omega

/-- Reading back a byte other than 0, in any list of cells: only the removal of an entry rests on the canonical form. -/
theorem mread_mwrite_of_ne_zero {b : Byte} (hb : b ≠ 0) (n j : Nat) : ∀ m : Mem,
    mread (mwrite m n b) j = if j = n then b else mread m j
  | [] => by grind [mwrite, mread]
  | (k, c) :: m => by
    have ih := mread_mwrite_of_ne_zero hb n j m
    unfold mwrite
    grind [mread]

/-! What the caches of a translation leave unchanged. -/

/-- What a translation changes besides the A and D bits: translation caches, the L2 of towers, and free choices. -/
def onlyWalkCaches (s t : State) : Prop :=
  t = { s with cores := t.cores, engines := t.engines, towers := t.towers, free := t.free } ∧
  ∀ k, ∃ x, getCore t k = { getCore s k with tlbs := x }

theorem onlyWalkCaches.refl (s : State) : onlyWalkCaches s s := ⟨rfl, fun _ => ⟨_, rfl⟩⟩

theorem onlyWalkCaches.trans {s t u : State} (h : onlyWalkCaches s t) (h' : onlyWalkCaches t u) : onlyWalkCaches s u := by
  obtain ⟨hframe, hcore⟩ := h
  obtain ⟨hframe', hcore'⟩ := h'
  refine ⟨by rw [hframe', hframe], fun k => ?_⟩
  obtain ⟨x, hx⟩ := hcore k
  obtain ⟨y, hy⟩ := hcore' k
  exact ⟨y, by rw [hy, hx]⟩

theorem onlyWalkCaches.of_fields (s : State) (es ts f) : onlyWalkCaches s { s with engines := es, towers := ts, free := f } :=
  ⟨rfl, fun k => ⟨(getCore s k).tlbs, rfl⟩⟩

theorem onlyWalkCaches.mem {s t : State} (h : onlyWalkCaches s t) : t.mem = s.mem := by rw [h.1]

theorem touch_onlyWalkCaches (s : State) (cls pa n : Nat) (wr : Bool) : onlyWalkCaches s (touch s cls pa n wr) := by
  obtain ⟨ts, h⟩ := touch_frame s cls pa n wr
  rw [h]
  exact .of_fields s s.engines ts s.free

theorem setTlbs_onlyWalkCaches (s : State) (u : Walker) (t : Tlbs) : onlyWalkCaches s (setTlbs s u t) := by
  cases u with
  | core c g =>
    refine ⟨rfl, fun k => ?_⟩
    by_cases hk : k = c
    · exact ⟨t, by simp [setTlbs, hk]⟩
    · exact ⟨(getCore s k).tlbs, by simp [setTlbs, hk]⟩
  | engine e => exact .of_fields s _ s.towers s.free
  | _ => exact .refl s

theorem installTlb_onlyWalkCaches (s : State) (u : Walker) (e : TlbEntry) : onlyWalkCaches s (installTlb s u e) := by
  unfold installTlb
  refine .trans ?_ (setTlbs_onlyWalkCaches _ u _)
  split
  · exact .refl s
  · exact .of_fields s s.engines s.towers _

theorem installWalks_onlyWalkCaches (s : State) (u : Walker) (ctx va : Nat) (xs : List (Nat × Nat)) :
    onlyWalkCaches s (installWalks s u ctx va xs) := by
  induction xs generalizing s with
  | nil => exact .refl s
  | cons x xs ih =>
    unfold installWalks
    extract_lets tlbs key others level new
    split
    next walks t ht =>
    have hfree : onlyWalkCaches s t := by
      split at ht
      · obtain rfl : s = t := congrArg Prod.snd ht
        exact .refl s
      · obtain rfl := congrArg Prod.snd ht
        exact .of_fields s s.engines s.towers _
    exact (hfree.trans (setTlbs_onlyWalkCaches t u _)).trans (ih _)

/-- Entries read at their homes change towers only. -/
theorem touchEntries_frame (s : State) (cls : Nat) (as : List Nat) : ∃ ts, touchEntries s cls as = { s with towers := ts } := by
  induction as generalizing s with
  | nil => exact ⟨s.towers, rfl⟩
  | cons a as ih =>
    obtain ⟨ts, h⟩ := touch_frame s cls a 8 false
    obtain ⟨ts', h'⟩ := ih (touch s cls a 8 false)
    refine ⟨ts', ?_⟩
    show touchEntries (touch s cls a 8 false) cls as = _
    rw [h', h]

theorem touchEntries_onlyWalkCaches (s : State) (cls : Nat) (as : List Nat) : onlyWalkCaches s (touchEntries s cls as) := by
  obtain ⟨ts, h⟩ := touchEntries_frame s cls as
  rw [h]
  exact .of_fields s s.engines ts s.free

/-! What translation leaves unchanged. -/

theorem onlyTranslation_of_onlyWalkCaches {s t : State} (h : onlyWalkCaches s t) : onlyTranslation s t := by
  obtain ⟨hframe, hcore⟩ := h
  refine ⟨?_, fun a => .inl ?_, hcore⟩
  · rw [hframe]
  · rw [hframe]

theorem onlyTranslation_trans_onlyWalkCaches {s t u : State} (h : onlyTranslation s t) (h' : onlyWalkCaches t u) :
    onlyTranslation s u := by
  obtain ⟨hframe, hmem, hcore⟩ := h
  refine ⟨?_, fun a => ?_, fun k => ?_⟩
  · rw [h'.1, hframe]
  · rw [h'.mem]
    exact hmem a
  · obtain ⟨x, hx⟩ := hcore k
    obtain ⟨y, hy⟩ := h'.2 k
    exact ⟨y, by rw [hy, hx]⟩

theorem onlyWalkCaches_trans_onlyTranslation {s t u : State} (h : onlyWalkCaches s t) (h' : onlyTranslation t u) :
    onlyTranslation s u := by
  obtain ⟨hframe, hmem, hcore⟩ := h'
  refine ⟨?_, fun a => ?_, fun k => ?_⟩
  · rw [hframe, h.1]
  · rw [← h.mem]
    exact hmem a
  · obtain ⟨x, hx⟩ := h.2 k
    obtain ⟨y, hy⟩ := hcore k
    exact ⟨y, by rw [hy, hx]⟩

/-- The byte that a walk writes: the entry's low byte with A, and D for a write, set. -/
theorem ofNat_low (e : Nat) (k : Access) :
    BitVec.ofNat 8 (e % 256 ||| accessBits k) = BitVec.ofNat 8 e ||| if k = .write ∨ k = .atomic then 0xC0 else 0x40 := by
  have hlow : BitVec.ofNat 8 (e % 256) = BitVec.ofNat 8 e := BitVec.eq_of_toNat_eq (by simp)
  rw [BitVec.ofNat_or, hlow]
  cases k <;> rfl

theorem ofNat_low_ne_zero (e : Nat) (k : Access) : BitVec.ofNat 8 (e % 256 ||| accessBits k) ≠ 0 := fun h => by
  have hbit := congrArg (·.getLsbD 6) h
  cases k <;> simp [accessBits] at hbit

theorem setAccessBits_onlyTranslation (s : State) (a : Nat) (k : Access) :
    onlyTranslation s { s with mem := mwrite s.mem a (BitVec.ofNat 8 (mreadLE s.mem a 8 % 256 ||| accessBits k)) } := by
  refine ⟨rfl, fun j => ?_, fun k => ⟨(getCore s k).tlbs, rfl⟩⟩
  rw [mread_mwrite_of_ne_zero (ofNat_low_ne_zero _ k)]
  split
  · next hj =>
    subst hj
    rw [ofNat_low, ofNat_mreadLE]
    split
    · exact .inr (.inr rfl)
    · exact .inr (.inl rfl)
  · exact .inl rfl

/-! Walks. -/

/-- The leaf that a walk ends at is the entry in memory. -/
theorem walkFrom_entry {fw : Bool} {s : State} {ctx va : Nat} {k : Access} {levels : List Nat} {table : Nat} {seen : List (Nat × Nat)}
    {level a e : Nat} {seen' : List (Nat × Nat)} (h : walkFrom fw s ctx va k levels table seen = .ok (level, a, e, seen')) :
    e = mreadLE s.mem a 8 := by
  fun_induction walkFrom <;> grind

theorem walk_onlyTranslation (s : State) (u : Walker) (ctx : Nat) (k : Access) (prefetch : Bool) (va n : Nat) :
    onlyTranslation s (walk s u ctx k prefetch va n).1 := by
  unfold walk
  split
  · exact onlyTranslation_of_onlyWalkCaches (.refl s)
  · split
    next levels table _ =>
    extract_lets t wr
    have ht : onlyWalkCaches s t := touchEntries_onlyWalkCaches s _ _
    split
    · exact onlyTranslation_of_onlyWalkCaches ht
    · next level a e seen hwalk =>
      extract_lets t2 size low t3 ent
      have ht2 : onlyWalkCaches s t2 := ht.trans (installWalks_onlyWalkCaches t u ctx va seen)
      split
      · exact onlyTranslation_of_onlyWalkCaches ht2
      · split
        · exact onlyTranslation_of_onlyWalkCaches ht2
        · have hlow : low = mreadLE t2.mem a 8 % 256 ||| accessBits k := by
            rw [ht2.mem, ← ht.mem, ← walkFrom_entry hwalk]
            rfl
          have ht3 : onlyTranslation s t3 := by
            refine onlyTranslation_trans_onlyWalkCaches (onlyWalkCaches_trans_onlyTranslation ht2 ?_) (touch_onlyWalkCaches _ _ _ _ _)
            rw [hlow]
            exact setAccessBits_onlyTranslation t2 a k
          exact onlyTranslation_trans_onlyWalkCaches ht3 (installTlb_onlyWalkCaches t3 u ent)

theorem translate_address_too_large (s : State) (u : Walker) (ctx : Nat) (k : Access) {va : Nat} (n : Nat) (h : 2 ^ 57 ≤ va) :
    translate s u ctx k va n = (s, .error (pfault 0x10 5 k false va)) := if_pos h

theorem translate_onlyTranslation (s : State) (u : Walker) (ctx : Nat) (k : Access) (va n : Nat) :
    onlyTranslation s (translate s u ctx k va n).1 := by
  have hs : onlyTranslation s s := onlyTranslation_of_onlyWalkCaches (.refl s)
  have hwalk {t x} (e : walk s u ctx k false va n = (t, x)) : onlyTranslation s t := by
    have h := walk_onlyTranslation s u ctx k false va n
    rwa [e] at h
  unfold translate
  split
  · exact hs
  · extract_lets use
    have huse (t : State) (e : TlbEntry) : (use t e).1 = t := by
      unfold use
      extract_lets
      split <;> rfl
    clear_value use
    split
    · split
      · next hw => exact hwalk hw
      · next hw => exact (huse _ _).symm ▸ hwalk hw
    · split
      · split
        · next hw => exact hwalk hw
        · next hw => exact (huse _ _).symm ▸ hwalk hw
      · split
        · split
          · next hw => exact hwalk hw
          · next hw =>
            rw [huse]
            exact onlyTranslation_trans_onlyWalkCaches (hwalk hw) (installTlb_onlyWalkCaches _ u _)
        · exact (huse _ _).symm ▸ hs

/-! Five levels. -/

theorem permitted_eq_none {s : State} {ctx e level va pa n : Nat} {k : Access} (hw : k = .write ∨ k = .atomic → bitsAt e 2 1 = 1)
    (hf : k = .fetch → bitsAt e 3 1 = 1) (hr : region pa < 3) : permitted s ctx e level k va pa n = none := by
  have hin (wr) : windowOk s ctx pa n wr = true := by simp [windowOk, hr]
  unfold permitted
  simp only [hin]
  cases k <;> simp_all

/-- An entry that names a table leads one level down. -/
theorem walkFrom_table {fw : Bool} {s : State} {ctx va : Nat} {k : Access} {n : Nat} {levels : List Nat} {table : Nat}
    {seen : List (Nat × Nat)} {e : Nat} (he : e = word64 s (table + 8 * vaIndex va n))
    (hp : poisoned s ctx (table + 8 * vaIndex va n) 8 = false) (hvalid : e % 2 = 1) (htable : e / 2 % 2 = 0)
    (hr : entryReserved fw e n = false) :
    walkFrom fw s ctx va k (n :: levels) table seen = walkFrom fw s ctx va k levels (entPa e) ((n, e) :: seen) := by
  subst he
  simp_all [walkFrom, word64, bitsAt]

/-- A leaf ends the walk. -/
theorem walkFrom_leaf {fw : Bool} {s : State} {ctx va : Nat} {k : Access} {n : Nat} {levels : List Nat} {table : Nat}
    {seen : List (Nat × Nat)} {e : Nat} (he : e = word64 s (table + 8 * vaIndex va n))
    (hp : poisoned s ctx (table + 8 * vaIndex va n) 8 = false) (hvalid : e % 2 = 1) (hleaf : e / 2 % 2 = 1)
    (hr : entryReserved fw e n = false) :
    walkFrom fw s ctx va k (n :: levels) table seen = .ok (n, table + 8 * vaIndex va n, e, seen) := by
  subst he
  simp_all [walkFrom, word64, bitsAt]

theorem walkFrom_towers (fw : Bool) (s : State) (ts) (ctx va : Nat) (k : Access) (levels : List Nat) (table : Nat)
    (seen : List (Nat × Nat)) :
    walkFrom fw { s with towers := ts } ctx va k levels table seen = walkFrom fw s ctx va k levels table seen := by
  induction levels generalizing table seen with
  | nil => rfl
  | cons n levels ih =>
    unfold walkFrom
    simp only [ih]
    rfl

theorem walkStart_of_nil {t : Tlbs} (h : t.walks = []) (ctx va root : Nat) : walkStart t ctx va root = ([0, 1, 2, 3, 4], root) := by
  simp [walkStart, h]

/-- A walk that is permitted: what it finds, and the bits that it sets in the leaf. -/
theorem walk_of_permitted {s : State} {u : Walker} {ctx va n : Nat} {k : Access} {fw : Bool} {root table level a e : Nat}
    {levels : List Nat} {seen : List (Nat × Nat)} (hroot : rootOf s u ctx = some (fw, root))
    (hstart : walkStart (getTlbs s u) ctx va root = (levels, table))
    (hwalk : walkFrom fw s ctx va k levels table [] = .ok (level, a, e, seen))
    (hperm : ∀ t, permitted t ctx e level k va (entPa e + va % levelSize level) n = none) :
    ∃ t, walk s u ctx k false va n = (t, .ok (leafEntry ctx va level (e ||| accessBits k))) ∧
      t.mem = mwrite s.mem a (BitVec.ofNat 8 (e % 256 ||| accessBits k)) := by
  obtain ⟨ts, hts⟩ := touchEntries_frame s (accessCls s u) (walkReads fw s va levels table)
  have hmem : (installWalks { s with towers := ts } u ctx va seen).mem = s.mem := (installWalks_onlyWalkCaches _ u ctx va seen).mem
  unfold walk
  simp only [hroot, hstart, hts, walkFrom_towers, hwalk, hperm, Bool.false_eq_true, if_false]
  refine ⟨_, Prod.ext rfl (congrArg (fun e' => Except.ok (leafEntry ctx va level e')) (setLow_eq_or e k)), ?_⟩
  rw [(installTlb_onlyWalkCaches _ u _).mem, touch_mem]
  exact congrArg (fun m => mwrite m a (BitVec.ofNat 8 (e % 256 ||| accessBits k))) hmem

theorem leafEntry_ent (ctx va level e : Nat) : (leafEntry ctx va level e).ent = BitVec.ofNat 64 e := by
  unfold leafEntry
  extract_lets
  split <;> rfl

/-- Whether or not a leaf of the last level stands for its group, an address keeps its offset in the page. -/
theorem leafEntry_pa (ctx va e : Nat) :
    (leafEntry ctx va 4 e).pa + (va - (leafEntry ctx va 4 e).va) = entPa e + va % 4096 := by
  have hsize : levelSize 4 = 4096 := rfl
  unfold leafEntry
  extract_lets size back d
  split
  · next h =>
    have hback : back ≤ entPa e := by simp_all
    simp only [back] at hback ⊢
    omega
  · simp only [size, hsize]
    omega

/-- Where no cached entry covers an address, the walk's leaf translates it. -/
theorem translate_of_walk {s t : State} {u : Walker} {ctx va n : Nat} {k : Access} {x : TlbEntry} (hva : va < 2 ^ 57)
    (hfind : (getTlbs s u).find (walkerGroup u) ctx va = none) (hwalk : walk s u ctx k false va n = (t, .ok x))
    (hperm : ∀ level, permitted t ctx x.ent.toNat level k va (x.pa + (va - x.va)) n = none) :
    translate s u ctx k va n =
      (t, .ok ⟨x.pa + (va - x.va), bitsAt x.ent.toNat 8 4, bitsAt x.ent.toNat 12 2, bitsAt x.ent.toNat 14 2⟩) := by
  unfold translate
  rw [if_neg (Nat.not_le.mpr hva)]
  simp only [hfind, hwalk, hperm]

theorem region_page {pa x : Nat} (h : pa / 2 ^ 48 < 3) (hpage : pa % 4096 = 0) (hx : x < 4096) : region (pa + x) < 3 := by
  simp only [region, bitsAt]
  omega

theorem entPa_mod (e : Nat) : entPa e % 4096 = 0 := Nat.mul_mod_left _ _

theorem rootOf_of_getCtx {s : State} {u : Walker} {ctx : Nat} {c : Ctx} (hctx : getCtx s ctx = some c) (hu : ∀ i, u ≠ .control i) :
    rootOf s u ctx = some (false, c.root) := by
  cases u with
  | control i => exact absurd rfl (hu i)
  | _ => simp [rootOf, hctx]

/-- A walk that ends at a leaf of the last level, for an access that the leaf permits: the translation, and the byte written. -/
theorem translate_of_leaf {s : State} {u : Walker} {ctx va n : Nat} {k : Access} {fw : Bool} {root table a e : Nat} {levels : List Nat}
    {seen : List (Nat × Nat)} (hva : va < 2 ^ 57) (hfind : (getTlbs s u).find (walkerGroup u) ctx va = none)
    (hroot : rootOf s u ctx = some (fw, root)) (hstart : walkStart (getTlbs s u) ctx va root = (levels, table))
    (hfrom : walkFrom fw s ctx va k levels table [] = .ok (4, a, e, seen)) (hw : k = .write ∨ k = .atomic → bitsAt e 2 1 = 1)
    (hf : k = .fetch → bitsAt e 3 1 = 1) (hpa : entPa e / 2 ^ 48 < 3) :
    ∃ t, translate s u ctx k va n = (t, .ok ⟨entPa e + va % 4096, bitsAt e 8 4, bitsAt e 12 2, bitsAt e 14 2⟩) ∧
      t.mem = mwrite s.mem a (BitVec.ofNat 8 (e % 256 ||| accessBits k)) := by
  have hbits {lo m} (h : lo + m ≤ 6 ∨ 8 ≤ lo) : bitsAt (e ||| accessBits k) lo m = bitsAt e lo m := bitsAt_or_accessBits e k h
  have hregion : region (entPa e + va % 4096) < 3 := region_page hpa (entPa_mod e) (Nat.mod_lt _ (by decide))
  have hlt : e < 2 ^ 64 := walkFrom_entry hfrom ▸ word64_lt s a
  obtain ⟨t, hwalk, hmem⟩ := walk_of_permitted (n := n) hroot hstart hfrom fun t => permitted_eq_none hw hf hregion
  have hent : (leafEntry ctx va 4 (e ||| accessBits k)).ent.toNat = e ||| accessBits k := by
    rw [leafEntry_ent, BitVec.toNat_ofNat, Nat.mod_eq_of_lt (or_accessBits_lt k hlt)]
  have htrans := translate_of_walk hva hfind hwalk fun level => by
    rw [hent, leafEntry_pa, entPa_or_accessBits]
    exact permitted_eq_none (fun h => (hbits (by decide)).trans (hw h)) (fun h => (hbits (by decide)).trans (hf h)) hregion
  rw [hent, leafEntry_pa, entPa_or_accessBits, hbits (by decide), hbits (by decide), hbits (by decide)] at htrans
  exact ⟨t, htrans, hmem⟩

/-- Settles O31: a walk reads its five entries one level at a time and writes the A and D bits of the last; the rest of a translation
touches caches only. Reading back a byte with A set needs no canonical memory, so this holds of every state. -/
theorem translations : Obligations.Translations := by
  refine ⟨fun s u ctx k va n => translate_address_too_large s u ctx k n, ?_, translate_onlyTranslation,
    fun u ctx va k s => ⟨fun h => ?_, fun h => ⟨?_, walk_onlyTranslation ..⟩⟩⟩
  · intro s u ctx k va n c e0 e1 e2 e3 e hva hctx hu hfind hwalks at_ he0 he1 he2 he3 he htables hclean hvalid hleaf hres hw hf hpa
    simp only [List.forall_mem_cons] at htables hclean
    obtain ⟨⟨hv0, ht0, hr0⟩, ⟨hv1, ht1, hr1⟩, ⟨hv2, ht2, hr2⟩, ⟨hv3, ht3, hr3⟩, -⟩ := htables
    obtain ⟨hc0, hc1, hc2, hc3, hc, -⟩ := hclean
    have hfrom : walkFrom false s ctx va k [0, 1, 2, 3, 4] c.root [] =
        .ok (4, at_ (entPa e3) 4, e, [(3, e3), (2, e2), (1, e1), (0, e0)]) := by
      rw [walkFrom_table he0 hc0 hv0 ht0 hr0, walkFrom_table he1 hc1 hv1 ht1 hr1, walkFrom_table he2 hc2 hv2 ht2 hr2,
        walkFrom_table he3 hc3 hv3 ht3 hr3, walkFrom_leaf he hc hvalid hleaf hres]
      rfl
    obtain ⟨t, htrans, hmem⟩ := translate_of_leaf (n := n) hva hfind (rootOf_of_getCtx hctx hu)
      (walkStart_of_nil hwalks ctx va c.root) hfrom hw hf hpa
    have hread (j : Nat) := mread_mwrite_of_ne_zero (ofNat_low_ne_zero e k) (at_ (entPa e3) 4) j s.mem
    refine ⟨t, htrans, ?_, fun j hj => ?_⟩
    · rw [hmem, hread, if_pos rfl, ofNat_low]
    · rw [hmem, hread, if_neg hj]
  · exact congrArg Host.Outcome.next (if_pos h)
  · exact congrArg Host.Outcome.next (if_neg (Nat.not_le.mpr h))

end Sys2Proof.Machine
end

section
/-! Stores, byte by byte: into the core's first-level cache (05 R110, R111), and at the home after the core's own bytes (06 R136).

A core reads a byte of regions 0 and 1 from its line where that holds it, and from memory elsewhere (`coreByte`); `seen` is that for a
warp with nothing pending. So there is one law of `coreByte` for each operation, and `seen` follows. -/
namespace Sys2Proof.Machine

/-! Bytes and bits. -/

@[simp] theorem leBytes_length (n x : Nat) : (leBytes n x).length = n := by
  induction n generalizing x with
  | zero => rfl
  | succ n ih => rw [leBytes, List.length_cons, ih]

theorem getD_leBytes {n k : Nat} (x : Nat) (h : k < n) : (leBytes n x).getD k 0 = BitVec.ofNat 8 (x / 256 ^ k) := by
  induction n generalizing x k with
  | zero => omega
  | succ n ih =>
    cases k with
    | zero => simp [leBytes]
    | succ k => rw [leBytes, List.getD_cons_succ, ih _ (by omega), Nat.div_div_eq_div_mul, ← pow_succ']

/-- Bit `i` of a value stands in byte `i / 8` of its little-endian bytes (00 R4). -/
theorem getLsbD_leBytes {n k i : Nat} (x : Nat) (h : k < n) (hi : i < 8) :
    ((leBytes n x).getD k 0).getLsbD i = x.testBit (8 * k + i) := by
  have h256 : 256 ^ k = 2 ^ (8 * k) := by rw [pow_mul]; rfl
  rw [getD_leBytes x h, BitVec.getLsbD_ofNat, h256, Nat.testBit_div_two_pow, decide_eq_true hi, Bool.true_and, Nat.add_comm]

theorem testBit_leNat (bs : List Byte) (i : Nat) : (leNat bs).testBit i = (bs.getD (i / 8) 0).getLsbD (i % 8) := by
  induction bs generalizing i with
  | nil => simp [leNat]
  | cons b bs ih =>
    have hsum : leNat (b :: bs) = 2 ^ 8 * leNat bs + b.toNat := Nat.add_comm ..
    rw [hsum, Nat.testBit_two_pow_mul_add _ b.isLt]
    split
    · next hi => rw [Nat.div_eq_of_lt hi, Nat.mod_eq_of_lt hi]; rfl
    · next hi =>
      obtain ⟨j, rfl⟩ := Nat.exists_eq_add_of_le' (Nat.not_lt.mp hi)
      rw [ih, Nat.add_sub_cancel, Nat.add_div_right _ (by decide), List.getD_cons_succ, Nat.add_mod_right]

/-- A field replaced in a value: its bits are the new ones, and every other bit is as before. -/
theorem testBit_putElem (old lo w x i : Nat) :
    (putElem old lo w x).testBit i = if lo ≤ i ∧ i < lo + w then x.testBit (i - lo) else old.testBit i := by
  have hput : putElem old lo w x = 2 ^ lo * (2 ^ w * (old / 2 ^ lo / 2 ^ w) + x % 2 ^ w) + old % 2 ^ lo := by
    have hold : 2 ^ lo * (2 ^ w * (old / 2 ^ lo / 2 ^ w) + bitsAt old lo w) + old % 2 ^ lo = old := by
      rw [bitsAt, Nat.div_add_mod, Nat.div_add_mod]
    rw [putElem, Nat.mul_comm (bitsAt old lo w), Nat.mul_comm (x % 2 ^ w)]
    rw [Nat.mul_add] at hold ⊢
    omega
  rw [hput, Nat.testBit_two_pow_mul_add _ (Nat.mod_lt old (Nat.two_pow_pos lo)),
    Nat.testBit_two_pow_mul_add _ (Nat.mod_lt x (Nat.two_pow_pos w)), Nat.testBit_mod_two_pow, Nat.testBit_mod_two_pow,
    Nat.testBit_div_two_pow, Nat.testBit_div_two_pow]
  by_cases hlo : i < lo
  · rw [if_pos hlo, if_neg (by omega), decide_eq_true hlo, Bool.true_and]
  · by_cases hhi : i - lo < w
    · rw [if_neg hlo, if_pos hhi, if_pos (by omega), decide_eq_true hhi, Bool.true_and]
    · rw [if_neg hlo, if_neg hhi, if_neg (by omega)]
      congr 1
      omega

@[simp] theorem getD_mreadN {m : Mem} {a n i : Nat} (h : i < n) : (mreadN m a n).getD i 0 = mread m (a + i) := by
  induction n generalizing a i with
  | zero => omega
  | succ n ih =>
    cases i with
    | zero => rfl
    | succ i => rw [mreadN, List.getD_cons_succ, ih (by omega), Nat.add_right_comm, Nat.add_assoc]

@[simp] theorem getD_physRead {s : State} {ctx pa n i : Nat} (h : i < n) : (physRead s ctx pa n).getD i 0 = physByte s ctx (pa + i) := by
  induction n generalizing pa i with
  | zero => omega
  | succ n ih =>
    cases i with
    | zero => rfl
    | succ i => rw [physRead, List.getD_cons_succ, ih (by omega), Nat.add_right_comm, Nat.add_assoc]

theorem getD_overlay (xs : List Byte) (n j : Nat) (bs : List Byte) :
    (overlay xs n bs).getD j 0 = if n ≤ j ∧ j < n + bs.length then bs.getD (j - n) 0 else xs.getD j 0 := by
  induction bs generalizing xs n with
  | nil => grind [overlay]
  | cons b bs ih =>
    rw [overlay, ih]
    grind [listPut_getD, List.getD_cons_succ, List.getD_cons_zero]

/-- The bytes of the sectors chosen, as a mask. -/
theorem sectors_mask (p : Nat → Prop) [DecidablePred p] (n j : Nat) :
    let m := (List.range n).foldl (fun m q => if p q then m + (2 ^ 32 - 1) * 2 ^ (32 * q) else m) 0
    m < 2 ^ (32 * n) ∧ m.testBit j = decide (j < 32 * n ∧ p (j / 32)) := by
  induction n with
  | zero => simp
  | succ n ih =>
    obtain ⟨hlt, hbit⟩ := ih
    simp only [List.range_succ, List.foldl_append, List.foldl_cons, List.foldl_nil]
    generalize (List.range n).foldl _ 0 = m at hlt hbit ⊢
    have hpow : 2 ^ (32 * (n + 1)) = 2 ^ 32 * 2 ^ (32 * n) := by rw [← pow_add]; congr 1; omega
    split
    · next hp =>
      rw [Nat.add_comm m, Nat.mul_comm (2 ^ 32 - 1)]
      refine ⟨by omega, ?_⟩
      rw [Nat.testBit_two_pow_mul_add _ hlt, hbit, Nat.testBit_two_pow_sub_one]
      by_cases hj : j < 32 * n
      · simp only [hj, if_true, true_and, show j < 32 * (n + 1) by omega]
      · have hlast : j < 32 * (n + 1) → j / 32 = n := by omega
        rw [if_neg hj]
        exact decide_eq_decide.mpr ⟨fun h => ⟨by omega, by rwa [hlast (by omega)]⟩, fun h => by omega⟩
    · next hp =>
      refine ⟨by omega, ?_⟩
      rw [hbit]
      have hlast : j < 32 * (n + 1) → ¬ j < 32 * n → j / 32 = n := by omega
      exact decide_eq_decide.mpr ⟨fun h => ⟨by omega, h.2⟩, fun h => ⟨by_contra fun hj => hp (hlast h.1 hj ▸ h.2), h.2⟩⟩

/-- The mask of the sectors that a range meets has every byte of the range. -/
theorem getLsbD_sectorMask {a pa n : Nat} (h : pa ≤ a) (h' : a < pa + n) : (sectorMask (a / 128) pa n).getLsbD (a % 128) = true := by
  obtain ⟨-, hbit⟩ := sectors_mask (fun q => 128 * (a / 128) + 32 * q < pa + n ∧ pa < 128 * (a / 128) + 32 * q + 32) 4 (a % 128)
  have hmask : sectorMask (a / 128) pa n = BitVec.ofNat 128 ((List.range 4).foldl (fun m q =>
      if 128 * (a / 128) + 32 * q < pa + n ∧ pa < 128 * (a / 128) + 32 * q + 32 then m + (2 ^ 32 - 1) * 2 ^ (32 * q) else m) 0) := by
    simp [sectorMask]
  rw [hmask, BitVec.getLsbD_ofNat, hbit]
  simp only [Bool.and_eq_true, decide_eq_true_eq]
  omega

/-! The parts of the state that a core's stores can change. -/

/-- Only first-level caches, L2 slices, memory and poison differ. -/
def onlyStorage (s t : State) : Prop := t = { s with cores := t.cores, towers := t.towers, mem := t.mem, poison := t.poison }

theorem onlyStorage.refl (s : State) : onlyStorage s s := rfl

theorem onlyStorage.trans {s t u : State} (h : onlyStorage s t) (h' : onlyStorage t u) : onlyStorage s u := by
  unfold onlyStorage at *
  rw [h', h]

theorem onlyStorage.w {s t : State} (h : onlyStorage s t) : t.w = s.w := by rw [h]
theorem onlyStorage.core {s t : State} (h : onlyStorage s t) : t.core = s.core := congrArg Warp.coreNo h.w
theorem onlyStorage.ctx {s t : State} (h : onlyStorage s t) : t.ctx = s.ctx := congrArg (·.home.ctx) h.w

/-- The on-chip map stays as it was. -/
theorem onlyStorage.physByte {s t : State} (h : onlyStorage s t) (ctx : Nat) {a : Nat} (ha : 2 ≤ region a) :
    physByte t ctx a = physByte s ctx a := by
  rw [h]
  unfold Machine.physByte
  generalize region a = r at ha
  match r, ha with
  | 2, _ => rfl
  | _ + 3, _ => rfl

theorem physByte_of_dram {s : State} {ctx a : Nat} (ha : region a < 2) : physByte s ctx a = mread s.mem a := by
  unfold physByte
  generalize region a = r at ha
  match r, ha with
  | 0, _ => rfl
  | 1, _ => rfl

theorem setCore_onlyStorage (s : State) (c : Nat) (x : Core) : onlyStorage s (setCore s c x) := rfl
theorem l2Access_onlyStorage (s : State) (cls : Nat) (hint : Hint) (line : Nat) (dirty : BitVec 128) :
    onlyStorage s (l2Access s cls hint line dirty) := rfl

@[simp] theorem getCore_l2Access (s : State) (cls : Nat) (hint : Hint) (line : Nat) (dirty : BitVec 128) (c : Nat) :
    getCore (l2Access s cls hint line dirty) c = getCore s c := rfl

@[simp] theorem l2Access_mem (s : State) (cls : Nat) (hint : Hint) (line : Nat) (dirty : BitVec 128) :
    (l2Access s cls hint line dirty).mem = s.mem := rfl

@[simp] theorem clearPoison_mem (s : State) (l : Line) : (clearPoison s l).mem = s.mem := rfl

/-! A byte of regions 0 and 1 as a core reads it. -/

/-- A core holds lines of 128 bytes. -/
theorem lineHeld_eq_of_line (s : State) {a b : Nat} (h : a / 128 = b / 128) : lineHeld s a = lineHeld s b := by
  rw [lineHeld, lineHeld, h]

/-- A line gives its byte `i` without its home: it is dirty, or fetched in this generation (05 R110, R111). -/
def Line.reads (l : Line) (gen : BitVec 16) (i : Nat) : Bool := l.dirty.getLsbD i || (l.gen == gen && l.valid.getLsbD i)

/-- A byte of regions 0 and 1 as the core of the warp in focus reads it: from its line, else at the home. -/
def coreByte (s : State) (a : Nat) : Byte :=
  match lineHeld s a with
  | some l => if l.reads (getCore s s.core).gen (a % 128) then l.bytes.getD (a % 128) 0 else mread s.mem a
  | none => mread s.mem a

theorem coreByte_of_some {s : State} {a : Nat} {l : Line} (h : lineHeld s a = some l) :
    coreByte s a = if l.reads (getCore s s.core).gen (a % 128) then l.bytes.getD (a % 128) 0 else mread s.mem a := by
  rw [coreByte, h]

theorem coreByte_of_none {s : State} {a : Nat} (h : lineHeld s a = none) : coreByte s a = mread s.mem a := by
  rw [coreByte, h]

theorem atHome_of_some {s : State} {a : Nat} {l : Line} (h : lineHeld s a = some l) :
    atHome s a = if l.dirty.getLsbD (a % 128) then l.bytes.getD (a % 128) 0 else mread s.mem a := by
  rw [atHome, h]

theorem atHome_of_none {s : State} {a : Nat} (h : lineHeld s a = none) : atHome s a = mread s.mem a := by
  rw [atHome, h]

section
variable {s : State} (hseq : s.w.isSeq = false) (hnt : s.w.ntst = [])
include hseq hnt

/-- With nothing pending, a warp sees what its core reads. -/
theorem seen_of_dram {a : Nat} (ha : region a < 2) : seen s a = coreByte s a := by
  unfold seen coreByte Line.reads
  simp only [hseq, hnt, List.find?_nil, if_neg (Nat.not_le.mpr ha), Bool.false_eq_true, if_false]
  cases lineHeld s a <;> simp

theorem seen_of_map {a : Nat} (ha : 2 ≤ region a) : seen s a = physByte s s.ctx a := by
  simp [seen, hseq, hnt, ha]

end

/-- What lies in one line lies in one region (03 Table 03-1). -/
theorem region_eq_of_line {a b : Nat} (h : a / 128 = b / 128) : region a = region b := by
  simp only [region, bitsAt]
  omega

/-- A store that the core reads back, and that changes storage only, is what the warp sees. -/
theorem seen_of_coreByte {s t : State} {pa : Nat} {bs : List Byte} (hst : onlyStorage s t) (hseq : s.w.isSeq = false)
    (hnt : s.w.ntst = []) (hregion : region pa < 2) (hline : pa % 128 + bs.length ≤ 128)
    (h : ∀ a, coreByte t a = if pa ≤ a ∧ a < pa + bs.length then bs.getD (a - pa) 0 else coreByte s a) (a : Nat) :
    seen t a = if pa ≤ a ∧ a < pa + bs.length then bs.getD (a - pa) 0 else seen s a := by
  have hseq' : t.w.isSeq = false := hst.w ▸ hseq
  have hnt' : t.w.ntst = [] := hst.w ▸ hnt
  by_cases ha : region a < 2
  · rw [seen_of_dram hseq' hnt' ha, seen_of_dram hseq hnt ha, h]
  · have hout : ¬ (pa ≤ a ∧ a < pa + bs.length) := fun hin => ha (region_eq_of_line (by omega : a / 128 = pa / 128) ▸ hregion)
    have hmap := Nat.not_lt.mp ha
    rw [if_neg hout, seen_of_map hseq' hnt' hmap, seen_of_map hseq hnt hmap, hst.ctx, hst.physByte _ hmap]

/-- Where the clean bytes that the core holds are in step, it reads what the home has once its own dirty byte is there. -/
theorem coreByte_eq_atHome {s : State} {a b : Nat} (h : inStep s b) (hab : a / 128 = b / 128) : coreByte s a = atHome s a := by
  have hheld := lineHeld_eq_of_line s hab
  cases hl : lineHeld s b with
  | none => rw [coreByte_of_none (hheld.trans hl), atHome_of_none (hheld.trans hl)]
  | some l =>
    rw [coreByte_of_some (hheld.trans hl), atHome_of_some (hheld.trans hl)]
    cases hdirty : l.dirty.getLsbD (a % 128)
    case true => simp [Line.reads, hdirty]
    case false =>
      simp only [Line.reads, hdirty, Bool.false_or, Bool.and_eq_true, beq_iff_eq, Bool.false_eq_true, if_false]
      split
      · next hfetched =>
        rw [h l hl (a % 128) (Nat.mod_lt _ (by decide)) ⟨hdirty, hfetched⟩]
        congr 1
        omega
      · rfl

/-! Lines found by their key. -/

theorem lineHeld_setCore (s : State) (x : Core) (a : Nat) : lineHeld (setCore s s.core x) a = x.line? s.ctx (a / 128 * 128) := by
  show (getCore (setCore s s.core x) s.core).line? s.ctx _ = _
  rw [getCore_setCore, if_pos rfl]

theorem lineHeld_key {s : State} {a : Nat} {l : Line} (h : lineHeld s a = some l) : l.ctx = s.ctx ∧ l.pa = a / 128 * 128 := by
  simpa using List.find?_some h

/-- A change that keeps the keys of lines changes the line found. -/
theorem line?_map {f : Line → Line} (hf : ∀ l, (f l).ctx = l.ctx ∧ (f l).pa = l.pa) (c : Core) (ctx pa : Nat) :
    Core.line? { c with lines := c.lines.map f } ctx pa = (c.line? ctx pa).map f := by
  simp only [Core.line?, List.find?_map]
  congr 2
  funext l
  simp [hf]

/-- The lines of the core of the warp in focus, each changed. -/
def mapLines (s : State) (f : Line → Line) : State :=
  setCore s s.core { getCore s s.core with lines := (getCore s s.core).lines.map f }

section
variable (s : State) (f : Line → Line)

theorem mapLines_onlyStorage : onlyStorage s (mapLines s f) := rfl

@[simp] theorem mapLines_mem : (mapLines s f).mem = s.mem := rfl

@[simp] theorem gen_mapLines : (getCore (mapLines s f) (mapLines s f).core).gen = (getCore s s.core).gen := by
  show (getCore (mapLines s f) s.core).gen = _
  rw [mapLines, getCore_setCore, if_pos rfl]

variable {s f} (hf : ∀ l, (f l).ctx = l.ctx ∧ (f l).pa = l.pa)
include hf

theorem lineHeld_mapLines (a : Nat) : lineHeld (mapLines s f) a = (lineHeld s a).map f := by
  rw [mapLines, lineHeld_setCore]
  exact line?_map hf ..

theorem coreByte_mapLines_of_some {a : Nat} {l : Line} (h : lineHeld s a = some l) : coreByte (mapLines s f) a =
    if (f l).reads (getCore s s.core).gen (a % 128) then (f l).bytes.getD (a % 128) 0 else mread s.mem a := by
  rw [coreByte_of_some ((lineHeld_mapLines hf a).trans (by rw [h, Option.map_some])), gen_mapLines, mapLines_mem]

theorem coreByte_mapLines_of_none {a : Nat} (h : lineHeld s a = none) : coreByte (mapLines s f) a = mread s.mem a := by
  rw [coreByte_of_none ((lineHeld_mapLines hf a).trans (by rw [h, Option.map_none])), mapLines_mem]

theorem coreByte_mapLines_of_eq {a : Nat} (h : ∀ l, lineHeld s a = some l → f l = l) : coreByte (mapLines s f) a = coreByte s a := by
  cases hl : lineHeld s a with
  | none => rw [coreByte_mapLines_of_none hf hl, coreByte_of_none hl]
  | some l => rw [coreByte_mapLines_of_some hf hl, coreByte_of_some hl, h l hl]

end

/-! A line brought in. -/

theorem Line.reads_of_fresh {l : Line} {gen : BitVec 16} (h : l.fresh gen = true) {i : Nat} (hi : i < 128) : l.reads gen i = true := by
  simp only [fresh, Bool.and_eq_true, beq_iff_eq] at h
  have hbit : (l.valid ||| l.dirty).getLsbD i = true := by rw [h.2, BitVec.getLsbD_allOnes, decide_eq_true hi]
  simp only [BitVec.getLsbD_or, Bool.or_eq_true] at hbit
  simp only [reads, h.1, Bool.or_eq_true, Bool.and_eq_true, beq_self_eq_true, true_and]
  exact hbit.symm

theorem Line.refresh_key (s : State) (gen : BitVec 16) (l : Line) : (l.refresh s gen).ctx = l.ctx ∧ (l.refresh s gen).pa = l.pa := by
  unfold refresh
  split <;> exact ⟨rfl, rfl⟩

theorem Line.refresh_fresh (s : State) (gen : BitVec 16) (l : Line) : (l.refresh s gen).fresh gen = true := by
  unfold refresh
  split
  · assumption
  · simp only [fresh, beq_self_eq_true, BitVec.allOnes_or, Bool.and_self]

theorem Line.getD_refresh (s : State) (gen : BitVec 16) (l : Line) {i : Nat} (hi : i < 128) :
    (l.refresh s gen).bytes.getD i 0 = if l.reads gen i then l.bytes.getD i 0 else mread s.mem (l.pa + i) := by
  unfold refresh
  split
  · next h => rw [if_pos (reads_of_fresh h hi)]
  · simp [List.getD_eq_getElem?_getD, hi, reads]

/-- What bringing in the line of an address does: the line is there, it holds every byte as the core read it, and no other line of the
context is touched. -/
structure OpensLine (s : State) (pa : Nat) (t : State) (l : Line) : Prop where
  storage : onlyStorage s t
  mem     : t.mem = s.mem
  gen     : (getCore t t.core).gen = (getCore s s.core).gen
  key     : l.ctx = s.ctx ∧ l.pa = pa / 128 * 128
  fresh   : l.fresh (getCore s s.core).gen = true
  bytes   : ∀ a, a / 128 = pa / 128 → l.bytes.getD (a % 128) 0 = coreByte s a
  held    : ∀ a, a / 128 = pa / 128 → lineHeld t a = some l
  others  : ∀ a, a / 128 ≠ pa / 128 → lineHeld t a = lineHeld s a

theorem shrinkL1_of_le {s : State} {core room : Nat} (hint : Hint) (h : (getCore s core).lines.length ≤ room) (n : Nat) :
    shrinkL1 core hint room n s = s := by
  cases n with
  | zero => rfl
  | succ n => rw [shrinkL1, if_pos h]

/-- The line stands among the lines of the core, in whatever place, and the others are found as before. -/
theorem OpensLine.of_lines {s t : State} {pa : Nat} {l : Line} {ls : List Line} (hst : onlyStorage s t) (hmem : t.mem = s.mem)
    (hkey : l.ctx = s.ctx ∧ l.pa = pa / 128 * 128) (hfresh : l.fresh (getCore s s.core).gen = true)
    (hbytes : ∀ a, a / 128 = pa / 128 → l.bytes.getD (a % 128) 0 = coreByte s a)
    (hheld : ls.find? (fun x => x.ctx == s.ctx && x.pa == pa / 128 * 128) = some l)
    (hothers : ∀ b, b ≠ pa / 128 * 128 → ls.find? (fun x => x.ctx == s.ctx && x.pa == b) = (getCore s s.core).line? s.ctx b) :
    OpensLine s pa (setCore t s.core { getCore s s.core with lines := ls }) l := by
  have hput (a : Nat) : lineHeld (setCore t s.core { getCore s s.core with lines := ls }) a =
      ls.find? (fun x => x.ctx == s.ctx && x.pa == a / 128 * 128) := by
    rw [← hst.core, lineHeld_setCore, hst.ctx]
    rfl
  have hcore : (setCore t s.core { getCore s s.core with lines := ls }).core = s.core := hst.core
  refine ⟨hst.trans (setCore_onlyStorage ..), hmem, by rw [hcore, getCore_setCore, if_pos rfl], hkey, hfresh, hbytes, fun a ha => ?_, fun a ha => ?_⟩
  · rw [hput, ha, hheld]
  · rw [hput, hothers _ (by omega), lineHeld]

/-- With room for one more line, none has to leave. -/
theorem openLine_opens {s : State} (room : roomFor s 1) (cls : Nat) (hint : Hint) (pa : Nat) :
    OpensLine s pa (openLine s s.core s.ctx cls hint pa).1 (openLine s s.core s.ctx cls hint pa).2 := by
  have hsplit (a : Nat) : a / 128 * 128 + a % 128 = a := Nat.div_add_mod' a 128
  unfold openLine
  simp only
  split
  · next l hl =>
    obtain ⟨hctx, hpa⟩ := lineHeld_key hl
    obtain ⟨hctx', hpa'⟩ := l.refresh_key s (getCore s s.core).gen
    refine .of_lines ?_ ?_ ⟨hctx'.trans hctx, hpa'.trans hpa⟩ (l.refresh_fresh ..) (fun a ha => ?_) ?_ fun b hb => ?_
    · split
      · exact .refl s
      · exact l2Access_onlyStorage ..
    · split <;> rfl
    · have hla : lineHeld s a = some l := (lineHeld_eq_of_line s ha).trans hl
      have hat : l.pa + a % 128 = a := by rw [hpa, ← ha, hsplit]
      exact (l.getD_refresh s _ (Nat.mod_lt a (by decide))).trans (by rw [coreByte_of_some hla, hat])
    · simp [hctx', hpa', hctx, hpa]
    · rw [List.find?_cons_of_neg (by simp [hpa', hpa, hb.symm]), List.find?_filter, Core.line?]
      congr 1
      funext x
      rw [Bool.eq_iff_iff]
      simp only [Line.same, hpa, Bool.and_eq_true, Bool.not_eq_true', beq_iff_eq]
      grind
  · next hl =>
    rw [shrinkL1_of_le _ (by unfold roomFor at room; omega)]
    refine .of_lines (l2Access_onlyStorage ..) rfl ⟨rfl, rfl⟩ ?_ (fun a ha => ?_) ?_ fun b hb => ?_
    · show (_ == _ && _) = true
      simp [getCore_l2Access]
    · have hla : lineHeld s a = none := (lineHeld_eq_of_line s ha).trans hl
      have hread : (mreadN s.mem (pa / 128 * 128) 128).getD (a % 128) 0 = mread s.mem (pa / 128 * 128 + a % 128) :=
        getD_mreadN (Nat.mod_lt a (by decide))
      have hat : pa / 128 * 128 + a % 128 = a := by rw [← ha, hsplit]
      exact hread.trans (by rw [hat, coreByte_of_none hla])
    · rw [Core.line?] at hl
      split <;> simp [List.find?_append, getCore_l2Access, hl]
    · split
      · simp [List.find?_append, getCore_l2Access, hb.symm, Core.line?]
      · simp [getCore_l2Access, hb.symm, Core.line?]

/-! A store of a core. -/

/-- A store into a line that the core holds whole: it gives the new bytes, and every other byte as before. -/
theorem Line.reads_store {l : Line} {gen : BitVec 16} (h : l.fresh gen = true) (pa : Nat) (bs : List Byte) {i : Nat} (hi : i < 128) :
    (l.store pa bs).reads gen i = true := by
  have hl := reads_of_fresh h hi
  simp only [reads, store, BitVec.getLsbD_or, Bool.or_eq_true] at hl ⊢
  tauto

/-- The store of a core as a change of its lines: those of the key of `l` become `l` with the bytes. -/
def Line.stored (l : Line) (cls pa : Nat) (bs : List Byte) (x : Line) : Line :=
  if x.same l then { l.store pa bs with cls := cls } else x

theorem Line.stored_key (l : Line) (cls pa : Nat) (bs : List Byte) (x : Line) :
    (l.stored cls pa bs x).ctx = x.ctx ∧ (l.stored cls pa bs x).pa = x.pa := by
  unfold stored
  split
  · next hsame =>
    simp only [same, Bool.and_eq_true, beq_iff_eq] at hsame
    exact ⟨hsame.1.symm, hsame.2.symm⟩
  · exact ⟨rfl, rfl⟩

theorem Line.stored_self (l : Line) (cls pa : Nat) (bs : List Byte) : l.stored cls pa bs l = { l.store pa bs with cls := cls } :=
  if_pos (by simp [same])

theorem Line.stored_of_ne {l x : Line} (cls pa : Nat) (bs : List Byte) (h : x.pa ≠ l.pa) : l.stored cls pa bs x = x :=
  if_neg (by simp [same, h])

theorem coreStore_eq_mapLines {s t : State} {l : Line} {cls pa : Nat} {hint : Hint} (hregion : region pa < 2) (hst : onlyStorage s t)
    (h : openLine s s.core s.ctx cls hint pa = (t, l)) (bs : List Byte) :
    coreStore s s.core s.ctx cls hint pa bs = mapLines t (l.stored cls pa bs) := by
  rw [coreStore, if_pos hregion, h, mapLines, hst.core]
  rfl

/-- 05 R110: a store goes into the core's line, and the core reads it back. -/
theorem coreStore_stores {s : State} {pa : Nat} {bs : List Byte} (room : roomFor s 1) (hregion : region pa < 2)
    (hline : pa % 128 + bs.length ≤ 128) (cls : Nat) (hint : Hint) :
    onlyStorage s (coreStore s s.core s.ctx cls hint pa bs) ∧ ∀ a, coreByte (coreStore s s.core s.ctx cls hint pa bs) a =
      if pa ≤ a ∧ a < pa + bs.length then bs.getD (a - pa) 0 else coreByte s a := by
  have hopen := openLine_opens room cls hint pa
  obtain ⟨⟨t, l⟩, ho⟩ : ∃ o, openLine s s.core s.ctx cls hint pa = o := ⟨_, rfl⟩
  rw [ho] at hopen
  obtain ⟨hst, hmem, hgen, hkey, hfresh, hbytes, hheld, hothers⟩ := hopen
  rw [coreStore_eq_mapLines hregion hst ho]
  refine ⟨hst.trans (mapLines_onlyStorage ..), fun a => ?_⟩
  by_cases ha : a / 128 = pa / 128
  · have hi : a % 128 < 128 := Nat.mod_lt a (by decide)
    rw [coreByte_mapLines_of_some (l.stored_key cls pa bs) (hheld a ha), l.stored_self, hgen, ← hbytes a ha]
    refine (if_pos (l.reads_store hfresh pa bs hi)).trans ((getD_overlay ..).trans ?_)
    have hoff : pa ≤ a → a % 128 - pa % 128 = a - pa := by omega
    have hin : (pa % 128 ≤ a % 128 ∧ a % 128 < pa % 128 + bs.length) ↔ pa ≤ a ∧ a < pa + bs.length := by omega
    simp only [hin]
    split
    · next h => rw [hoff h.1]
    · rfl
  · have hout : ¬ (pa ≤ a ∧ a < pa + bs.length) := by omega
    rw [if_neg hout, coreByte_mapLines_of_eq (l.stored_key cls pa bs), coreByte, hothers a ha, hgen, hmem, coreByte]
    intro x hx
    refine Line.stored_of_ne _ _ _ ?_
    rw [(lineHeld_key (hothers a ha ▸ hx)).2, hkey.2]
    omega

/-! Write-back. -/

/-- The dirty bytes of a line go to their homes, each by itself. -/
theorem mread_flushFrom {s : State} (h : s.memOk) (l : Line) (i n a : Nat) : mread (flushFrom s l i n).mem a =
    if l.pa + i ≤ a ∧ a < l.pa + i + n ∧ l.dirty.getLsbD (a - l.pa) then l.bytes.getD (a - l.pa) 0 else mread s.mem a := by
  induction n generalizing s i with
  | zero => rw [flushFrom, if_neg (by omega)]
  | succ n ih =>
    have hstep (t : State) (ht : t.memOk) (hread : mread t.mem a =
        if a = l.pa + i ∧ l.dirty.getLsbD i then l.bytes.getD i 0 else mread s.mem a) :
        mread (flushFrom t l (i + 1) n).mem a = if l.pa + i ≤ a ∧ a < l.pa + i + (n + 1) ∧ l.dirty.getLsbD (a - l.pa) then
          l.bytes.getD (a - l.pa) 0 else mread s.mem a := by
      rw [ih ht, hread]
      by_cases ha : a = l.pa + i
      · have hi : a - l.pa = i := by omega
        rw [if_neg (fun h => by omega), hi]
        simp [ha]
      · have hin : (l.pa + (i + 1) ≤ a ∧ a < l.pa + (i + 1) + n) ↔ l.pa + i ≤ a ∧ a < l.pa + i + (n + 1) := by omega
        simp only [← and_assoc, hin, ha, false_and, if_false]
    rw [flushFrom]
    split
    · next hd => exact hstep _ (mwrite_wf _ _ h) (by rw [mread_mwrite h]; simp [hd])
    · next hd => exact hstep s h (by simp [hd])

theorem flushFrom_frame (s : State) (l : Line) (i n : Nat) : ∃ m, flushFrom s l i n = { s with mem := m } := by
  induction n generalizing s i with
  | zero => exact ⟨s.mem, rfl⟩
  | succ n ih =>
    rw [flushFrom]
    split
    · exact ih _ _
    · exact ih _ _

/-- A line's write-back changes memory, poison and L2 slices, and no line. -/
theorem writeBack_frame (s : State) (l : Line) : onlyStorage s (writeBack s l) ∧ (writeBack s l).cores = s.cores := by
  obtain ⟨m, hm⟩ := flushFrom_frame s l 0 128
  unfold writeBack
  split
  · exact ⟨.refl s, rfl⟩
  · rw [hm]
    exact ⟨rfl, rfl⟩

theorem mread_writeBack {s : State} (h : s.memOk) (l : Line) (a : Nat) : mread (writeBack s l).mem a =
    if l.pa ≤ a ∧ a < l.pa + 128 ∧ l.dirty.getLsbD (a - l.pa) then l.bytes.getD (a - l.pa) 0 else mread s.mem a := by
  unfold writeBack
  split
  · next hd => simp [hd]
  · rw [l2Access_mem, clearPoison_mem, mread_flushFrom h, Nat.add_zero]

/-- A core that holds one copy of a line writes that one back. -/
theorem filter_eq_lineHeld {s : State} {pa : Nat} (h : oneCopy s pa) :
    ((getCore s s.core).lines.filter fun l => l.ctx == s.ctx && l.pa == pa / 128 * 128) = (lineHeld s pa).toList := by
  have hhead : ((getCore s s.core).lines.filter fun l => l.ctx == s.ctx && l.pa == pa / 128 * 128).head? = lineHeld s pa :=
    List.head?_filter ..
  rw [← hhead]
  unfold oneCopy at h
  generalize (getCore s s.core).lines.filter _ = ls at h
  match ls, h with
  | [], _ => rfl
  | [_], _ => rfl

/-- Bytes written back as they leave the core's line clean, the rest of the line as it is. -/
def Line.cleaned (s : State) (pa : Nat) (l : Line) : Line :=
  if l.ctx == s.ctx && l.pa == pa / 128 * 128 then { l with dirty := 0 } else l

theorem Line.cleaned_key (s : State) (pa : Nat) (l : Line) : (l.cleaned s pa).ctx = l.ctx ∧ (l.cleaned s pa).pa = l.pa := by
  unfold cleaned
  split <;> exact ⟨rfl, rfl⟩

theorem Line.cleaned_of_held {s : State} {pa a : Nat} {l : Line} (h : lineHeld s a = some l) (ha : a / 128 = pa / 128) :
    l.cleaned s pa = { l with dirty := 0 } := by
  obtain ⟨hctx, hpa⟩ := lineHeld_key h
  exact if_pos (by simp [hctx, hpa, ha])

theorem Line.cleaned_of_ne {s : State} {pa a : Nat} {l : Line} (h : lineHeld s a = some l) (ha : a / 128 ≠ pa / 128) :
    l.cleaned s pa = l := by
  obtain ⟨-, hpa⟩ := lineHeld_key h
  exact if_neg (by simp [hpa, ha])

/-- The lines of a write-back as `writeBackPa` finds them, written back: no line changes. -/
theorem writeBackLines_frame (s : State) (o : Option Line) :
    onlyStorage s (writeBackLines s o.toList) ∧ (writeBackLines s o.toList).cores = s.cores := by
  cases o with
  | none => exact ⟨.refl s, rfl⟩
  | some l => exact writeBack_frame s l

theorem lineHeld_congr {s t : State} (hst : onlyStorage s t) (hcores : t.cores = s.cores) (a : Nat) : lineHeld t a = lineHeld s a := by
  rw [lineHeld, lineHeld, hst.core, hst.ctx, getCore, getCore, hcores]

theorem coreGen_congr {s t : State} (hst : onlyStorage s t) (hcores : t.cores = s.cores) :
    (getCore t t.core).gen = (getCore s s.core).gen := by
  rw [hst.core, getCore, getCore, hcores]

theorem mread_writeBackLines {s : State} (hmem : s.memOk) (pa a : Nat) : mread (writeBackLines s (lineHeld s pa).toList).mem a =
    if a / 128 = pa / 128 then atHome s a else mread s.mem a := by
  have hheld (ha : a / 128 = pa / 128) := lineHeld_eq_of_line s ha
  cases hl : lineHeld s pa with
  | none =>
    show mread s.mem a = _
    split
    · next ha => rw [atHome_of_none ((hheld ha).trans hl)]
    · rfl
  | some l =>
    show mread (writeBack s l).mem a = _
    have hpa := (lineHeld_key hl).2
    rw [mread_writeBack hmem]
    by_cases ha : a / 128 = pa / 128
    · have hi : a - l.pa = a % 128 := by omega
      have hlo : l.pa ≤ a := by omega
      have hhi : a < l.pa + 128 := by omega
      simp only [ha, if_true, atHome_of_some ((hheld ha).trans hl), hi, hlo, hhi, true_and]
    · rw [if_neg ha, if_neg (fun h => by omega)]

section
variable {s : State} {pa : Nat} (hone : oneCopy s pa)
include hone

theorem writeBackPa_eq_mapLines :
    writeBackPa s s.core s.ctx pa = mapLines (writeBackLines s (lineHeld s pa).toList) (Line.cleaned s pa) := by
  rw [writeBackPa, writeBackIf, filter_eq_lineHeld hone, mapLines, (writeBackLines_frame s _).1.core]
  rfl

theorem writeBackPa_onlyStorage : onlyStorage s (writeBackPa s s.core s.ctx pa) := by
  rw [writeBackPa_eq_mapLines hone]
  exact (writeBackLines_frame s _).1.trans (mapLines_onlyStorage ..)

/-- 06 R136: the core's own dirty bytes of the line are at the home. -/
theorem mread_writeBackPa (hmem : s.memOk) (a : Nat) :
    mread (writeBackPa s s.core s.ctx pa).mem a = if a / 128 = pa / 128 then atHome s a else mread s.mem a := by
  rw [writeBackPa_eq_mapLines hone, mapLines_mem, mread_writeBackLines hmem]

theorem writeBackPa_clean {l : Line} (h : lineHeld (writeBackPa s s.core s.ctx pa) pa = some l) : l.dirty = 0 := by
  obtain ⟨hst, hcores⟩ := writeBackLines_frame s (lineHeld s pa)
  rw [writeBackPa_eq_mapLines hone, lineHeld_mapLines (Line.cleaned_key s pa), lineHeld_congr hst hcores] at h
  obtain ⟨x, hx, rfl⟩ := Option.map_eq_some_iff.mp h
  rw [Line.cleaned_of_held hx rfl]

/-- The core reads every byte as before. -/
theorem coreByte_writeBackPa (hmem : s.memOk) (a : Nat) : coreByte (writeBackPa s s.core s.ctx pa) a = coreByte s a := by
  obtain ⟨hst, hcores⟩ := writeBackLines_frame s (lineHeld s pa)
  have hread := mread_writeBackLines hmem pa a
  rw [writeBackPa_eq_mapLines hone]
  generalize writeBackLines s (lineHeld s pa).toList = t at hst hcores hread
  have hheld := lineHeld_congr hst hcores a
  have hgen := coreGen_congr hst hcores
  by_cases ha : a / 128 = pa / 128
  · rw [if_pos ha] at hread
    cases hl : lineHeld s a with
    | none => rw [coreByte_mapLines_of_none (Line.cleaned_key s pa) (hheld.trans hl), hread, atHome_of_none hl, coreByte_of_none hl]
    | some l =>
      rw [coreByte_mapLines_of_some (Line.cleaned_key s pa) (hheld.trans hl), Line.cleaned_of_held hl ha, hread, atHome_of_some hl,
        coreByte_of_some hl, hgen]
      cases hd : l.dirty.getLsbD (a % 128) <;> simp [Line.reads, hd]
  · rw [if_neg ha] at hread
    rw [coreByte_mapLines_of_eq (Line.cleaned_key s pa) fun l hl => Line.cleaned_of_ne (hheld ▸ hl) ha, coreByte, hheld, hgen, hread, coreByte]

end

/-! A write at the home. -/

/-- The sectors of a range as a line keeps them once the range has been written at the home. -/
def Line.staled (ctx pa n : Nat) (l : Line) : Line :=
  if l.ctx == ctx && l.pa < pa + n && pa < l.pa + 128 then { l with valid := l.valid &&& ~~~ sectorMask (l.pa / 128) pa n } else l

theorem Line.staled_key (ctx pa n : Nat) (l : Line) : (l.staled ctx pa n).ctx = l.ctx ∧ (l.staled ctx pa n).pa = l.pa := by
  unfold staled
  split <;> exact ⟨rfl, rfl⟩

theorem Line.staled_of_ne {s : State} {pa n a : Nat} {l : Line} (hline : pa % 128 + n ≤ 128) (h : lineHeld s a = some l)
    (ha : a / 128 ≠ pa / 128) : l.staled s.ctx pa n = l := by
  obtain ⟨-, hpa⟩ := lineHeld_key h
  refine if_neg fun hin => ?_
  simp only [hpa, Bool.and_eq_true, decide_eq_true_eq] at hin
  omega

/-- A line that stays clean gives a byte of the range no more. -/
theorem Line.not_reads_staled {s : State} {pa n a : Nat} {l : Line} (h : lineHeld s a = some l) (hclean : l.dirty = 0)
    (hlo : pa ≤ a) (hhi : a < pa + n) (gen : BitVec 16) : (l.staled s.ctx pa n).reads gen (a % 128) = false := by
  obtain ⟨hctx, hpa⟩ := lineHeld_key h
  have hmask := getLsbD_sectorMask hlo hhi
  have hdiv : l.pa / 128 = a / 128 := by omega
  rw [staled, if_pos (by simp only [hctx, hpa, beq_self_eq_true, Bool.and_eq_true, decide_eq_true_eq, true_and]; omega), reads]
  simp [hclean, hdiv, hmask]

/-- A line that gives a byte after sectors went stale gave it before. -/
theorem Line.reads_of_staled {ctx pa n i : Nat} {l : Line} {gen : BitVec 16} (h : (l.staled ctx pa n).reads gen i = true) :
    l.reads gen i = true := by
  unfold staled at h
  split at h
  · simp only [reads, BitVec.getLsbD_and, Bool.or_eq_true, Bool.and_eq_true] at h ⊢
    tauto
  · exact h

theorem Line.staled_bytes (ctx pa n : Nat) (l : Line) : (l.staled ctx pa n).bytes = l.bytes := by
  unfold staled
  split <;> rfl

/-- What a write at the home of regions 0 and 1 changes: memory, poison and L2 slices, and no line. -/
theorem physWrite_frame (s : State) (ctx cls : Nat) {pa : Nat} (h : region pa < 2) (bs : List Byte) :
    onlyStorage s (physWrite s ctx cls pa bs) ∧ (physWrite s ctx cls pa bs).cores = s.cores := by
  have hcase : region pa = 0 ∨ region pa = 1 := by omega
  rcases hcase with h | h
  all_goals
    simp only [physWrite, h, touch_cores, and_true]
    rw [touch_eq]
    rfl

section
variable {s : State} {pa : Nat} (hregion : region pa < 2) (bs : List Byte)
include hregion

theorem homeWrite_eq_mapLines :
    homeWrite s pa bs = mapLines (physWrite s s.ctx s.w.home.cls pa bs) (Line.staled s.ctx pa bs.length) := by
  obtain ⟨hst, -⟩ := physWrite_frame s s.ctx s.w.home.cls hregion bs
  rw [homeWrite, if_neg (by omega), mapLines, hst.core]
  rfl

theorem homeWrite_onlyStorage : onlyStorage s (homeWrite s pa bs) := by
  rw [homeWrite_eq_mapLines hregion]
  exact (physWrite_frame s _ _ hregion bs).1.trans (mapLines_onlyStorage ..)

theorem mread_homeWrite (hmem : s.memOk) (a : Nat) : mread (homeWrite s pa bs).mem a =
    if pa ≤ a ∧ a < pa + bs.length then bs.getD (a - pa) 0 else mread s.mem a := by
  rw [homeWrite_eq_mapLines hregion, mapLines_mem, physWrite_mem, if_pos hregion, mread_mwriteN pa bs hmem]

/-- 06 R136: bytes written at the home are read back from there, where the core holds nothing of its own. -/
theorem coreByte_homeWrite (hmem : s.memOk) (hline : pa % 128 + bs.length ≤ 128) (hclean : ∀ l, lineHeld s pa = some l → l.dirty = 0)
    (hhome : ∀ a, a / 128 = pa / 128 → coreByte s a = mread s.mem a) (a : Nat) : coreByte (homeWrite s pa bs) a =
      if pa ≤ a ∧ a < pa + bs.length then bs.getD (a - pa) 0 else coreByte s a := by
  obtain ⟨hst, hcores⟩ := physWrite_frame s s.ctx s.w.home.cls hregion bs
  have hread := mread_homeWrite hregion bs hmem a
  rw [homeWrite_eq_mapLines hregion] at hread ⊢
  rw [mapLines_mem] at hread
  generalize physWrite s s.ctx s.w.home.cls pa bs = t at hst hcores hread
  have hkey := Line.staled_key s.ctx pa bs.length
  have hheld := lineHeld_congr hst hcores a
  have hgen := coreGen_congr hst hcores
  by_cases ha : a / 128 = pa / 128
  · rw [hhome a ha, ← hread]
    cases hl : lineHeld s a with
    | none => rw [coreByte_mapLines_of_none hkey (hheld.trans hl)]
    | some l =>
      have hdirty : l.dirty = 0 := hclean l ((lineHeld_eq_of_line s ha).symm.trans hl)
      rw [coreByte_mapLines_of_some hkey (hheld.trans hl), hgen]
      split
      · next hreads =>
        have hout : ¬ (pa ≤ a ∧ a < pa + bs.length) := fun hin => by
          rw [Line.not_reads_staled hl hdirty hin.1 hin.2] at hreads
          cases hreads
        rw [hread, if_neg hout, ← hhome a ha, coreByte_of_some hl, if_pos (Line.reads_of_staled hreads), Line.staled_bytes]
      · rfl
  · have hout : ¬ (pa ≤ a ∧ a < pa + bs.length) := by omega
    rw [if_neg hout] at hread ⊢
    rw [coreByte_mapLines_of_eq hkey fun l hl => Line.staled_of_ne hline (hheld ▸ hl) ha, coreByte, hheld, hgen, hread, coreByte]

end

end Sys2Proof.Machine
end

section
/-! Places of elements, and what an element's check answers (04 R88, R89, R91). -/
namespace Sys2Proof.Machine

/-! Where an element lies: `located` and `locate` read as one arithmetic of a page's packing. -/

/-- The packing of a page: sectors of a block, bits of an element, elements of a first and of any further sector of a block, and the
first bit of the elements in a first sector. A plain page has blocks of one sector, with no scale before its elements. -/
structure Packing where
  sectors : Nat
  width   : Nat
  head    : Nat
  rest    : Nat
  first   : Nat

def packingOf (fmt geom : Nat) : Packing :=
  let t := sectorTable fmt
  if geom = 0 then ⟨1, t.1, t.2.1, t.2.1, 0⟩ else ⟨sectorsOf geom, t.1, t.2.2.1, t.2.1, t.2.2.2⟩

/-- The sector within its block of the element of index `n` there, and its index in that sector. -/
def Packing.slot (k : Packing) (n : Nat) : Nat × Nat :=
  if n < k.head then (0, n) else (1 + (n - k.head) / k.rest, (n - k.head) % k.rest)

theorem Packing.slot_of_lt {k : Packing} {n : Nat} (h : n < k.head) : k.slot n = (0, n) := if_pos h

theorem Packing.slot_of_le {k : Packing} {n : Nat} (h : k.head ≤ n) : k.slot n = (1 + (n - k.head) / k.rest, (n - k.head) % k.rest) :=
  if_neg (Nat.not_lt.mpr h)

/-- The elements of a block (04 R88). -/
def Packing.block (k : Packing) : Nat := k.head + (k.sectors - 1) * k.rest

/-- Where an element lies, as `located` gives it. -/
def Packing.place (k : Packing) (e : Nat) : Nat × Nat × Nat :=
  let j := k.slot (e % k.block)
  (k.sectors * (e / k.block) + j.1, (if j.1 = 0 then k.first else 0) + k.width * j.2, k.sectors * (e / k.block))

/-- The elements of a sector fit its 256 bits. -/
def Packing.fits (k : Packing) : Prop :=
  0 < k.sectors ∧ 0 < k.head ∧ 0 < k.rest ∧ k.first + k.width * k.head ≤ 256 ∧ k.width * k.rest ≤ 256

theorem packingOf_fits : ∀ p ∈ elementPages, (packingOf p.1 p.2).fits := by
  unfold Packing.fits
  decide

/-- A scaled page keeps the first byte of a block for its scale (04 R89). -/
theorem packingOf_first : ∀ p ∈ elementPages, p.2 ≠ 0 → 8 ≤ (packingOf p.1 p.2).first := by decide

/-- The tables by which the model places elements say the same of these pages. -/
theorem locate_tables : ∀ p ∈ elementPages, let k := packingOf p.1 p.2
    blockElems p.1 p.2 = k.block ∧ blockSectors p.2 = k.sectors ∧ elemWidth p.1 = k.width ∧
    (p.2 = 0 → k.block = k.head ∧ k.first = 0) ∧ (p.2 ≠ 0 → packing p.1 = (k.rest, k.head, k.first)) := by
  decide

theorem width_packingOf (fmt geom : Nat) : (packingOf fmt geom).width = (sectorTable fmt).1 := by
  unfold packingOf
  split <;> rfl

/-- Table 04-5 and R89, as the statement writes them, are the packing's arithmetic. -/
theorem located_eq_place {fmt geom : Nat} (h : (packingOf fmt geom).fits) (e : Nat) : located fmt geom e = (packingOf fmt geom).place e := by
  obtain ⟨-, hhead, -⟩ := h
  unfold located Packing.place Packing.slot Packing.block
  by_cases hgeom : geom = 0
  · simp only [packingOf, hgeom, if_true] at hhead ⊢
    simp [Nat.mod_lt e hhead]
  · simp only [packingOf, hgeom, if_false]
    split <;> simp [Nat.add_assoc]

/-- The model's own arithmetic of an element's place is the packing's, in bytes. -/
theorem locate_eq_place {p : Nat × Nat} (hp : p ∈ elementPages) (e : Nat) :
    locate p.1 p.2 e = let x := (packingOf p.1 p.2).place e; (32 * x.1, x.2.1, 32 * x.2.2) := by
  obtain ⟨-, hhead, -⟩ := packingOf_fits p hp
  obtain ⟨hblock, hsectors, hwidth, hplain, hscaled⟩ := locate_tables p hp
  generalize packingOf p.1 p.2 = k at *
  unfold locate Packing.place
  rw [hblock, hsectors, hwidth]
  by_cases hgeom : p.2 = 0
  · obtain ⟨hhead_eq, hfirst⟩ := hplain hgeom
    have hn : e % k.block < k.head := hhead_eq ▸ Nat.mod_lt e (hhead_eq ▸ hhead)
    simp [hgeom, hfirst, Packing.slot_of_lt hn, Nat.mul_assoc]
  · rw [hscaled hgeom]
    by_cases hn : e % k.block < k.head
    · simp [hgeom, hn, Packing.slot_of_lt, Nat.mul_assoc]
    · simp [hgeom, hn, Packing.slot_of_le (Nat.not_lt.mp hn), Nat.mul_assoc]

/-! Elements within their sectors and apart from each other. -/

section
variable {k : Packing}

theorem Packing.slot_lt (h : k.fits) (e : Nat) : (k.slot (e % k.block)).1 < k.sectors := by
  obtain ⟨hsectors, hhead, hrest, -⟩ := h
  have hn : e % k.block < k.head + (k.sectors - 1) * k.rest := Nat.mod_lt _ (Nat.add_pos_left hhead _)
  unfold slot
  split
  · exact hsectors
  · have : (e % k.block - k.head) / k.rest < k.sectors - 1 := Nat.div_lt_of_lt_mul (by rw [Nat.mul_comm]; omega)
    omega

theorem Packing.slot_inj {n m : Nat} (h : k.slot n = k.slot m) : n = m := by
  rcases Nat.lt_or_ge n k.head with hn | hn <;> rcases Nat.lt_or_ge m k.head with hm | hm <;>
    simp only [slot_of_lt, slot_of_le, hn, hm, Prod.mk.injEq] at h
  · exact h.2
  · exact absurd h.1.symm (by simp)
  · exact absurd h.1 (by simp)
  · have hdiv := Nat.div_add_mod (n - k.head) k.rest
    rw [Nat.add_left_cancel h.1, h.2, Nat.div_add_mod] at hdiv
    omega

/-- The sector of an element gives its block and its sector there. -/
theorem Packing.place_sector (h : k.fits) (e : Nat) :
    (k.place e).1 / k.sectors = e / k.block ∧ (k.place e).1 % k.sectors = (k.slot (e % k.block)).1 := by
  have hlt := slot_lt h e
  constructor
  · exact (Nat.mul_add_div h.1 ..).trans (by rw [Nat.div_eq_of_lt hlt, Nat.add_zero])
  · exact (Nat.mul_add_mod ..).trans (Nat.mod_eq_of_lt hlt)

/-- An element lies wholly within its sector. -/
theorem Packing.place_fits (h : k.fits) (e : Nat) : (k.place e).2.1 + k.width ≤ 256 := by
  obtain ⟨-, -, hrest, hfirst, hfit⟩ := h
  have below {i n : Nat} (hi : i < n) : k.width * i + k.width ≤ k.width * n := Nat.mul_le_mul_left k.width hi
  simp only [place]
  by_cases hn : e % k.block < k.head
  · have := below hn
    simp only [slot_of_lt hn, if_true]
    omega
  · have := below (Nat.mod_lt (e % k.block - k.head) hrest)
    rw [slot_of_le (Nat.not_lt.mp hn), if_neg (by simp)]
    simp only [Nat.zero_add]
    omega

/-- An element in the sector of its block's scale begins past what the packing keeps there. -/
theorem Packing.place_past_scale (e : Nat) (h : (k.place e).1 = (k.place e).2.2) : k.first ≤ (k.place e).2.1 := by
  have hslot : (k.slot (e % k.block)).1 = 0 := Nat.add_eq_left.mp h
  simp only [place, hslot, if_true]
  exact Nat.le_add_right ..

/-- Two elements lie in different sectors, or one of them ends before the other begins. -/
theorem Packing.place_apart (h : k.fits) {e e' : Nat} (hne : e ≠ e') : (k.place e).1 ≠ (k.place e').1 ∨
    (k.place e).2.1 + k.width ≤ (k.place e').2.1 ∨ (k.place e').2.1 + k.width ≤ (k.place e).2.1 := by
  by_cases hsec : (k.place e).1 = (k.place e').1
  case neg => exact .inl hsec
  refine .inr ?_
  obtain ⟨hblock, hslot⟩ := place_sector h e
  obtain ⟨hblock', hslot'⟩ := place_sector h e'
  rw [hsec] at hblock hslot
  have hidx : (k.slot (e % k.block)).2 ≠ (k.slot (e' % k.block)).2 := fun hidx => hne <| by
    have hmod := slot_inj (Prod.ext (hslot.symm.trans hslot') hidx)
    rw [← Nat.div_add_mod e k.block, ← hblock, hblock', hmod, Nat.div_add_mod]
  have step {i j : Nat} (hij : i < j) : k.width * i + k.width ≤ k.width * j := Nat.mul_le_mul_left k.width hij
  simp only [place, hslot.symm.trans hslot']
  rcases Nat.lt_or_gt_of_ne hidx with hlt | hlt
  · have := step hlt
    omega
  · have := step hlt
    omega

end

/-! What the check of an element answers. -/

/-- A page's geometry is the two bits of its entry (03 R58). -/
theorem translate_geom_lt {s t : State} {u : Walker} {ctx : Nat} {k : Access} {va n : Nat} {x : Xlat}
    (h : translate s u ctx k va n = (t, .ok x)) : x.geom < 4 := by
  unfold translate at h
  split at h
  · cases h
  · extract_lets use at h
    have huse {s t : State} {e : TlbEntry} {x : Xlat} (h : use s e = (t, .ok x)) : x.geom < 4 := by
      simp only [use] at h
      split at h
      · cases h
      · cases h
        exact Nat.mod_lt _ (by decide)
    clear_value use
    grind

theorem xlateLane_geom_lt {s t : State} {k as_ : Access} {va n : Nat} {x : Xlat}
    (h : xlateLane s k as_ va n = (t, .ok x)) : x.geom < 4 := by
  unfold xlateLane xlateBy at h
  split at h
  · next htrans =>
    cases h
    exact translate_geom_lt htrans
  · cases h

/-- What holds of an element that its check found (04 R88, R89, R91). -/
structure ElemAt.found (p : ElemAt) (b0 e fmt geom : Nat) : Prop where
  aligned : b0 % (32 * blockSectors geom) = 0
  fmt_eq  : p.fmt = fmt
  geom_eq : p.geom = geom
  lo      : p.lo = (locate fmt geom e).2.1
  sector  : p.pa % 32 = 0
  scale   : p.scale.isSome ↔ geom ≠ 0

theorem elemFind_found {s t : State} {k : Access} {b0 e fmt geom : Nat} {forced : Bool} {p : ElemAt}
    (h : elemFind s k b0 e fmt geom forced = (t, .ok p)) : p.found b0 e fmt geom := by
  unfold elemFind at h
  split at h
  next sec lo scl hloc =>
  extract_lets va same mis at h
  split at h
  · cases h
  next s1 x hx =>
  extract_lets answer at h
  have hanswer {s : State} {sc : Option Nat} {agree : Bool} (hsc : sc.isSome ↔ geom ≠ 0)
      (h : answer s sc agree = (t, .ok p)) : p.found b0 e fmt geom := by
    simp only [answer] at h
    split at h
    · cases h
    next hmis =>
    split at h
    · cases h
    cases h
    exact ⟨by simpa [mis] using hmis, rfl, rfl, by rw [hloc], by show (x.pa - x.pa % 32) % 32 = 0; omega, hsc⟩
  clear_value answer
  split at h
  · next hgeom => exact hanswer (by simp [hgeom]) h
  · next hgeom =>
    split at h
    · cases h
    · exact hanswer (by simp [hgeom]) h

theorem rawElem_ne_ok {s t : State} {k : Access} {b0 : Nat} {p : ElemAt} : rawElem s k b0 ≠ (t, .ok p) := by
  unfold rawElem
  split <;> simp

/-- An element of a page that needs no record: the page's own format and geometry. -/
theorem elemCheck_found {s t : State} {k : Access} {b0 e : Nat} {p : ElemAt} (h : elemCheck s k b0 e none = (t, .ok p)) :
    ∃ fmt geom, fmtOk fmt = true ∧ geom < 4 ∧ p.found b0 e fmt geom := by
  unfold elemCheck at h
  split at h
  · cases h
  simp only at h
  split at h
  · cases h
  next hx =>
  split at h
  · next hfmt => exact ⟨_, _, hfmt, xlateLane_geom_lt hx, elemFind_found h⟩
  · exact absurd h rawElem_ne_ok

theorem blockSectors_eq_sectorsOf {geom : Nat} (h : geom < 4) : blockSectors geom = sectorsOf geom := by
  revert geom
  decide

end Sys2Proof.Machine
end

section
/-! O27: an element written (04 R96). Its bytes are those that hold one of its bits; a t6 or i4 element shares them with others, and the
bytes written hold what the home has of those. -/
namespace Sys2Proof.Machine

/-- What lets an element be written in regions 0 and 1 by a warp with nothing pending, its core having room and one copy in step. -/
structure ElemAt.Writable (p : ElemAt) (s : State) : Prop where
  mem    : s.memOk
  warp   : s.w.isSeq = false
  room   : roomFor s 1
  step   : inStep s p.pa
  page   : (p.fmt, p.geom) ∈ elementPages
  dram   : p.pa / 2 ^ 48 < 2
  sector : p.pa % 32 = 0
  fits   : p.lo + elemWidth p.fmt ≤ 256
  whole  : p.fmt ≠ 2 ∧ p.fmt ≠ 6 → p.lo % 8 = 0
  copy   : oneCopy s p.pa
  nt     : s.w.ntst = []

/-! The bytes of an element. -/

theorem elemWidth_pos : ∀ p ∈ elementPages, 0 < elemWidth p.1 := by decide

/-- A bit of its sector lies in the element. -/
def ElemAt.bit (p : ElemAt) (i : Nat) : Prop := p.lo ≤ i ∧ i < p.lo + elemWidth p.fmt

/-- Where the bytes of an element begin, and that a byte of its sector is one of them. -/
def ElemAt.base (p : ElemAt) : Nat := p.pa + p.lo / 8
def ElemAt.byte (p : ElemAt) (k : Nat) : Prop := p.lo / 8 ≤ k ∧ k < p.lo / 8 + (elemBytes p).2

section
variable {p : ElemAt} {s : State}

theorem ElemAt.byte_of_bit {i : Nat} (h : p.bit i) : p.byte (i / 8) := by
  unfold bit at h
  unfold byte elemBytes
  omega

theorem ElemAt.exists_bit (hw : 0 < elemWidth p.fmt) {k : Nat} (h : p.byte k) : ∃ j, p.bit j ∧ j / 8 = k := by
  unfold byte elemBytes at h
  refine ⟨max p.lo (8 * k), ?_, ?_⟩
  · unfold bit
    omega
  · omega

/-- The bytes of an element lie in one line, that of its sector. -/
theorem ElemAt.Writable.line (h : p.Writable s) (x : Nat) :
    p.base % 128 + (leBytes (elemBytes p).2 x).length ≤ 128 ∧ p.base / 128 = p.pa / 128 := by
  have hw := elemWidth_pos _ h.page
  have hsector := h.sector
  have hfits := h.fits
  rw [leBytes_length]
  simp only [base, elemBytes] at hw ⊢
  omega

theorem ElemAt.Writable.region (h : p.Writable s) {a : Nat} (ha : a / 128 = p.pa / 128) : region a < 2 := by
  rw [region_eq_of_line ha]
  exact (Nat.mod_le _ _).trans_lt h.dram

/-! The value whose bytes are written. -/

/-- The element itself, or for t6 and i4 its sector as the home has it with the element in it, from the element's first byte on. -/
def ElemAt.written (p : ElemAt) (s : State) (v : Nat) : Nat :=
  if p.fmt ≠ 2 ∧ p.fmt ≠ 6 then v
  else putElem (leNat (physRead (writeBackPa s s.core s.ctx p.pa) s.ctx p.pa 32)) p.lo (elemWidth p.fmt) v / 2 ^ (8 * (p.lo / 8))

/-- The sector as its home has it once the core's own bytes are there. -/
theorem ElemAt.Writable.testBit_sector (h : p.Writable s) {i : Nat} (hi : i < 256) :
    (leNat (physRead (writeBackPa s s.core s.ctx p.pa) s.ctx p.pa 32)).testBit i = (atHome s (p.pa + i / 8)).getLsbD (i % 8) := by
  have hsector := h.sector
  have hline : (p.pa + i / 8) / 128 = p.pa / 128 := by omega
  rw [testBit_leNat, getD_physRead (by omega), physByte_of_dram (h.region hline), mread_writeBackPa h.copy h.mem, if_pos hline]

/-- The bits of the element are those of the value. -/
theorem ElemAt.Writable.testBit_written (h : p.Writable s) (v : Nat) {i : Nat} (hi : p.bit i) :
    (p.written s v).testBit (i - 8 * (p.lo / 8)) = v.testBit (i - p.lo) := by
  have hbit := hi
  unfold bit at hi
  unfold written
  split
  · next hwhole =>
    have := h.whole hwhole
    congr 1
    omega
  · rw [Nat.testBit_div_two_pow, Nat.sub_add_cancel (by omega), testBit_putElem, if_pos hi]

/-- The other bits of the bytes of a t6 or i4 element are those of the home. -/
theorem ElemAt.Writable.testBit_written_other (h : p.Writable s) (hpart : ¬ (p.fmt ≠ 2 ∧ p.fmt ≠ 6)) (v : Nat) {i : Nat} (hi : i < 256)
    (hbyte : p.byte (i / 8)) (hbit : ¬ p.bit i) :
    (p.written s v).testBit (i - 8 * (p.lo / 8)) = (atHome s (p.pa + i / 8)).getLsbD (i % 8) := by
  unfold byte at hbyte
  unfold bit at hbit
  rw [written, if_neg hpart, Nat.testBit_div_two_pow, Nat.sub_add_cancel (by omega), testBit_putElem, if_neg hbit, h.testBit_sector hi]

/-! The write. -/

theorem writeElem_whole (hint : Hint) (h : p.Writable s) (hwhole : p.fmt ≠ 2 ∧ p.fmt ≠ 6) (v : Nat) : (writeElem s hint p [] v).1 =
    coreStore s s.core s.ctx s.w.home.cls hint p.base (leBytes (elemBytes p).2 (p.written s v)) := by
  have hregion := h.region (h.line v).2
  have hnt : performNtRange s p.base (leBytes (elemBytes p).2 v).length = s := by simp [performNtRange, h.nt]
  have hwrite : (writeElem s hint p [] v).1 = writePiece s hint p.base (leBytes (elemBytes p).2 v) := by
    simp [writeElem, hwhole.1, hwhole.2, ElemAt.base, elemBytes]
  rw [hwrite, writePiece, if_neg (by omega), h.warp, if_neg (by decide), hnt, ElemAt.written, if_pos hwhole]

theorem writeElem_part (hint : Hint) (h : p.Writable s) (hpart : ¬ (p.fmt ≠ 2 ∧ p.fmt ≠ 6)) (v : Nat) : (writeElem s hint p [] v).1 =
    homeWrite (writeBackPa s s.core s.ctx p.pa) p.base (leBytes (elemBytes p).2 (p.written s v)) := by
  have hregion : region p.pa < 2 := h.region rfl
  have hfmt : (p.fmt = 2 || p.fmt = 6) = true := by
    simp only [Bool.or_eq_true, decide_eq_true_eq]
    tauto
  have hnt : performNtRange s p.pa 32 = s := by simp [performNtRange, h.nt]
  rw [ElemAt.written, if_neg hpart]
  simp only [writeElem, hfmt, if_true, if_neg (by omega : ¬ 3 ≤ region p.pa), hnt, homeNow, (writeBackPa_onlyStorage h.copy).ctx,
    ElemAt.base, elemBytes]

/-- The bytes of the element are those of the value written, and the warp sees every other byte as before. -/
theorem seen_writeElem (hint : Hint) (h : p.Writable s) (v a : Nat) : seen (writeElem s hint p [] v).1 a =
    if p.base ≤ a ∧ a < p.base + (leBytes (elemBytes p).2 (p.written s v)).length then
      (leBytes (elemBytes p).2 (p.written s v)).getD (a - p.base) 0
    else seen s a := by
  obtain ⟨hline, hbase⟩ := h.line (p.written s v)
  have hregion := h.region hbase
  by_cases hwhole : p.fmt ≠ 2 ∧ p.fmt ≠ 6
  · rw [writeElem_whole hint h hwhole]
    obtain ⟨hst, hread⟩ := coreStore_stores h.room hregion hline s.w.home.cls hint
    exact seen_of_coreByte hst h.warp h.nt hregion hline hread a
  · rw [writeElem_part hint h hwhole]
    have hback := writeBackPa_onlyStorage h.copy
    have hhome (b : Nat) (hb : b / 128 = p.pa / 128) :
        coreByte (writeBackPa s s.core s.ctx p.pa) b = mread (writeBackPa s s.core s.ctx p.pa).mem b := by
      rw [coreByte_writeBackPa h.copy h.mem, coreByte_eq_atHome h.step hb, mread_writeBackPa h.copy h.mem, if_pos hb]
    have hclean (l : Line) (hl : lineHeld (writeBackPa s s.core s.ctx p.pa) p.base = some l) : l.dirty = 0 :=
      writeBackPa_clean h.copy ((lineHeld_eq_of_line _ hbase).symm.trans hl)
    refine seen_of_coreByte (hback.trans (homeWrite_onlyStorage hregion _)) h.warp h.nt hregion hline (fun b => ?_) a
    rw [coreByte_homeWrite hregion _ (writeBackPa_memOk h.mem) hline hclean (fun b hb => hhome b (hb.trans hbase)),
      coreByte_writeBackPa h.copy h.mem]

/-- A t6 or i4 element is at its home. -/
theorem mread_writeElem_part (hint : Hint) (h : p.Writable s) (hpart : ¬ (p.fmt ≠ 2 ∧ p.fmt ≠ 6)) (v a : Nat) :
    mread (writeElem s hint p [] v).1.mem a =
      if p.base ≤ a ∧ a < p.base + (leBytes (elemBytes p).2 (p.written s v)).length then
        (leBytes (elemBytes p).2 (p.written s v)).getD (a - p.base) 0
      else mread (writeBackPa s s.core s.ctx p.pa).mem a := by
  rw [writeElem_part hint h hpart, mread_homeWrite (h.region (h.line v).2) _ (writeBackPa_memOk h.mem)]

/-- Bytes that hold the value written, read bit by bit. -/
theorem ElemAt.getLsbD_of_written {f g : Nat → Byte} {x i : Nat} (hbyte : p.byte (i / 8))
    (h : ∀ a, f a = if p.base ≤ a ∧ a < p.base + (leBytes (elemBytes p).2 x).length then
      (leBytes (elemBytes p).2 x).getD (a - p.base) 0 else g a) :
    (f (p.pa + i / 8)).getLsbD (i % 8) = x.testBit (i - 8 * (p.lo / 8)) := by
  unfold byte at hbyte
  have hk : p.pa + i / 8 - p.base = i / 8 - p.lo / 8 := by unfold base; omega
  rw [h, if_pos (by rw [leBytes_length]; unfold base; omega), hk, getLsbD_leBytes x (by omega) (Nat.mod_lt i (by decide))]
  congr 1
  omega

end

/-- Settles O27: places by the arithmetic of a page's packing; an element in whole bytes is a store into the core's line, and a t6 or i4
element a write at the home of bytes that hold what the home had there. -/
theorem elementsHaveTheirPlaces : Obligations.ElementsHaveTheirPlaces := by
  refine ⟨fun p hp e => ?_, fun s k b0 e s' p h => ?_,
    fun s hint p v hmem hwarp hroom hstep hpage hdram hsector hfits hwhole hcopy hnt => ?_⟩
  · have hfits := packingOf_fits p hp
    simp only [located_eq_place hfits, ← width_packingOf p.1 p.2]
    exact ⟨locate_eq_place hp e, Packing.place_fits hfits e,
      fun hgeom hsec => (packingOf_first p hp hgeom).trans (Packing.place_past_scale e hsec),
      fun e' hne => Packing.place_apart hfits hne⟩
  · obtain ⟨fmt, geom, hfmt, hgeom, hfound⟩ := elemCheck_found h
    simp only [fmtOk, Bool.and_eq_true, decide_eq_true_eq] at hfmt
    obtain ⟨haligned, rfl, rfl, hlo, hsector, hscale⟩ := hfound
    exact ⟨blockSectors_eq_sectorsOf hgeom ▸ haligned, hfmt.1, hfmt.2, hlo, hsector, hscale⟩
  · have h : p.Writable s := ⟨hmem, hwarp, hroom, hstep, hpage, hdram, hsector, hfits, hwhole, hcopy, hnt⟩
    have hseen := seen_writeElem hint h v
    refine ⟨fun i _ hi => ?_, fun i hi256 hi hpart hbyte => ?_, fun a ha => ?_, fun hpart i _ hi => ?_⟩
    · rw [ElemAt.getLsbD_of_written (ElemAt.byte_of_bit hi) hseen, h.testBit_written v hi]
    · obtain ⟨j, hj, hji⟩ := hbyte
      have hbyte : p.byte (i / 8) := hji ▸ ElemAt.byte_of_bit hj
      rw [ElemAt.getLsbD_of_written hbyte hseen, h.testBit_written_other hpart v hi256 hbyte hi]
    · rw [hseen, if_neg fun hin => ?_]
      rw [leBytes_length, ElemAt.base] at hin
      obtain ⟨j, hj, hja⟩ := ElemAt.exists_bit (elemWidth_pos _ hpage) (⟨by omega, by omega⟩ : p.byte (a - p.pa))
      exact ha j hj (by omega)
    · rw [ElemAt.getLsbD_of_written (ElemAt.byte_of_bit hi) (mread_writeElem_part hint h hpart v), h.testBit_written v hi]

end Sys2Proof.Machine
end

section
/-! The warp's pending non-temporal bytes (06 R131): what they are to reads, and what performing them at their home changes. -/
namespace Sys2Proof.Machine

/-! The on-chip map does not depend on what the warp has pending. -/

/-- The state with other pending bytes of the warp in focus. -/
def State.withPending (s : State) (q : List (W64 × Byte)) : State := s.modW fun w => { w with ntst := q }

section
variable (s : State) (q : List (W64 × Byte))

/-- A search by what does not depend on the pending bytes finds the same warp. -/
theorem find?_allWarps_withPending {P : Warp → Bool} (hP : P (s.withPending q).w = P s.w) :
    (allWarps (s.withPending q)).find? P = (allWarps s).find? P ∨
    (allWarps (s.withPending q)).find? P = some (s.withPending q).w ∧ (allWarps s).find? P = some s.w := by
  cases hw : P s.w with
  | false =>
    refine .inl ?_
    rw [allWarps, allWarps, List.find?_cons_of_neg (by simp [hP, hw]), List.find?_cons_of_neg (by simp [hw])]
    rfl
  | true => exact .inr ⟨List.find?_cons_of_pos (hP.trans hw), List.find?_cons_of_pos hw⟩

theorem warpInSlot_withPending (i j : Nat) : warpInSlot (s.withPending q) i j = warpInSlot s i j ∨
    warpInSlot (s.withPending q) i j = some (s.withPending q).w ∧ warpInSlot s i j = some s.w :=
  find?_allWarps_withPending s q rfl

theorem warpAtStream_withPending (i j : Nat) : warpAtStream (s.withPending q) i j = warpAtStream s i j ∨
    warpAtStream (s.withPending q) i j = some (s.withPending q).w ∧ warpAtStream s i j = some s.w :=
  find?_allWarps_withPending s q rfl

theorem mapRead_withPending (ctx pa : Nat) : mapRead (s.withPending q) ctx pa = mapRead s ctx pa := by
  unfold mapRead
  simp only
  split
  · rcases warpInSlot_withPending s q (bitsAt pa 32 12) (pa % 2 ^ 32 / 0x40000) with h | ⟨h, h'⟩
    · rw [h]
    · rw [h, h']
      rfl
  · rfl
  · rfl
  · rfl
  · rfl
  · rcases warpAtStream_withPending s q (bitsAt pa 32 12) (pa % 2 ^ 32) with h | ⟨h, h'⟩
    · rw [h]
    · rw [h, h']
      rfl

theorem physByte_withPending (ctx a : Nat) : physByte (s.withPending q) ctx a = physByte s ctx a := by
  unfold physByte
  simp only [mapRead_withPending]
  rfl

theorem coreByte_withPending (a : Nat) : coreByte (s.withPending q) a = coreByte s a := rfl

end

theorem onlyStorage.withPending {s t : State} (h : onlyStorage s t) (q : List (W64 × Byte)) :
    onlyStorage (s.withPending q) (t.withPending q) := by
  unfold onlyStorage at h
  rw [h]
  rfl

theorem setPoison_onlyStorage (s : State) (ps : List Nat) : onlyStorage s { s with poison := ps } := rfl

theorem withPending_self (s : State) : s.withPending s.w.ntst = s := rfl

/-- What the warp has pending is read off the state itself. -/
theorem onlyStorage.frame {s t : State} {q : List (W64 × Byte)} (h : onlyStorage (s.withPending q) t) :
    t = { s with w := { s.w with ntst := t.w.ntst }, cores := t.cores, towers := t.towers, mem := t.mem, poison := t.poison } := by
  obtain rfl : t.w.ntst = q := congrArg Warp.ntst h.w
  exact h

/-! A pending byte. -/

/-- The youngest pending byte of an address. -/
def pendingByte (q : List (W64 × Byte)) (a : Nat) : Option Byte := (q.find? fun x => x.1.toNat == a).map (·.2)

theorem pendingByte_cons (x : W64 × Byte) (q : List (W64 × Byte)) (a : Nat) :
    pendingByte (x :: q) a = if x.1.toNat = a then some x.2 else pendingByte q a := by
  by_cases h : x.1.toNat = a <;> simp [pendingByte, h]

theorem pendingByte_append (q r : List (W64 × Byte)) (a : Nat) : pendingByte (q ++ r) a = (pendingByte q a).or (pendingByte r a) := by
  simp [pendingByte, List.find?_append, Option.map_or]

/-- Pending bytes chosen by their addresses. -/
theorem pendingByte_filter (p : Nat → Bool) (q : List (W64 × Byte)) (a : Nat) :
    pendingByte (q.filter fun x => p x.1.toNat) a = if p a then pendingByte q a else none := by
  induction q with
  | nil => simp [pendingByte]
  | cons x q ih => grind [pendingByte_cons]

/-- What a warp sees: its pending byte, else the map, or what its core reads. -/
theorem seen_eq_pendingByte {s : State} (hseq : s.w.isSeq = false) (a : Nat) :
    seen s a = (pendingByte s.w.ntst a).getD (if region a < 2 then coreByte s a else physByte s s.ctx a) := by
  unfold seen pendingByte
  rw [hseq, if_neg (by decide)]
  cases s.w.ntst.find? fun q => q.1.toNat == a with
  | some q => rfl
  | none =>
    by_cases ha : region a < 2
    · rw [Option.map_none, Option.getD_none, if_pos ha]
      simp only [if_neg (Nat.not_le.mpr ha), coreByte, Line.reads]
      cases lineHeld s a <;> simp
    · rw [Option.map_none, Option.getD_none, if_neg ha]
      exact if_pos (Nat.not_lt.mp ha)

/-- A store that the warp reads back, by its core or from what it has pending, and that changes storage and pending bytes only, is what
the warp sees. -/
theorem seen_of_store {s t : State} {q : List (W64 × Byte)} {pa : Nat} {bs : List Byte} (hst : onlyStorage (s.withPending q) t)
    (hseq : s.w.isSeq = false) (hregion : region pa < 2) (hline : pa % 128 + bs.length ≤ 128)
    (hnew : ∀ a, pa ≤ a ∧ a < pa + bs.length → (pendingByte q a).getD (coreByte t a) = bs.getD (a - pa) 0)
    (hrest : ∀ a, ¬ (pa ≤ a ∧ a < pa + bs.length) → pendingByte q a = pendingByte s.w.ntst a ∧ coreByte t a = coreByte s a) (a : Nat) :
    seen t a = if pa ≤ a ∧ a < pa + bs.length then bs.getD (a - pa) 0 else seen s a := by
  have hseq' : t.w.isSeq = false := hst.w ▸ hseq
  have hq : t.w.ntst = q := congrArg Warp.ntst hst.w
  rw [seen_eq_pendingByte hseq', seen_eq_pendingByte hseq, hq]
  by_cases hin : pa ≤ a ∧ a < pa + bs.length
  · have ha : region a < 2 := region_eq_of_line (by omega : a / 128 = pa / 128) ▸ hregion
    rw [if_pos ha, hnew a hin, if_pos hin]
  · obtain ⟨hpending, hcore⟩ := hrest a hin
    rw [if_neg hin, hpending, hcore]
    split
    · rfl
    · next ha =>
      rw [hst.physByte _ (Nat.not_lt.mp ha), physByte_withPending, hst.ctx]
      rfl

/-! Clean bytes gone stale. -/

theorem Line.staled_dirty (ctx pa n : Nat) (l : Line) : (l.staled ctx pa n).dirty = l.dirty := by
  unfold staled
  split <;> rfl

section
variable {s : State} {pa n a : Nat}

theorem atHome_mapLines_staled : atHome (mapLines s (Line.staled s.ctx pa n)) a = atHome s a := by
  have hheld := lineHeld_mapLines (s := s) (Line.staled_key s.ctx pa n) a
  cases hl : lineHeld s a with
  | none => rw [atHome_of_none (hheld.trans (by rw [hl, Option.map_none])), atHome_of_none hl, mapLines_mem]
  | some l =>
    rw [atHome_of_some (hheld.trans (by rw [hl, Option.map_some])), atHome_of_some hl, Line.staled_dirty, Line.staled_bytes, mapLines_mem]

/-- Where the core reads what the home has with its own dirty bytes, it still does with its clean bytes stale; other lines stay. -/
theorem coreByte_mapLines_staled (hline : pa % 128 + n ≤ 128) (hhome : a / 128 = pa / 128 → coreByte s a = atHome s a) :
    coreByte (mapLines s (Line.staled s.ctx pa n)) a = coreByte s a := by
  have hkey := Line.staled_key s.ctx pa n
  by_cases ha : a / 128 = pa / 128
  case neg => exact coreByte_mapLines_of_eq hkey fun l hl => Line.staled_of_ne hline hl ha
  cases hl : lineHeld s a with
  | none => rw [coreByte_mapLines_of_none hkey hl, coreByte_of_none hl]
  | some l =>
    have hhome := hhome ha
    rw [atHome_of_some hl] at hhome
    rw [coreByte_mapLines_of_some hkey hl, Line.staled_bytes]
    split
    · next hreads => rw [coreByte_of_some hl, if_pos (Line.reads_of_staled hreads)]
    · next hreads =>
      have hdirty : l.dirty.getLsbD (a % 128) = false := by
        by_contra hdirty
        exact hreads (by rw [Line.reads, Line.staled_dirty, Bool.eq_true_of_not_eq_false hdirty, Bool.true_or])
      rw [hhome, hdirty, if_neg (by decide)]

end

/-! A write at the home, as the core and the home have the other bytes afterwards. -/

section
variable {s : State} {pa : Nat} (hregion : region pa < 2) (bs : List Byte)
include hregion

theorem roomFor_homeWrite (n : Nat) : roomFor (homeWrite s pa bs) n ↔ roomFor s n := by
  obtain ⟨hst, hcores⟩ := physWrite_frame s s.ctx s.w.home.cls hregion bs
  have hgroups : (homeWrite s pa bs).groups = s.groups := by rw [homeWrite_onlyStorage hregion bs]
  have hlines : (getCore (homeWrite s pa bs) s.core).lines.length = (getCore s s.core).lines.length := by
    rw [homeWrite_eq_mapLines hregion, mapLines, hst.core, getCore_setCore, if_pos rfl, List.length_map, getCore, getCore, hcores]
  simp only [roomFor, (homeWrite_onlyStorage hregion bs).core, hlines, l1Lines, scratchPart, groupsOnCore, hgroups]

/-- Of a byte that is not written, the core reads what it did, where that is what the home has with the core's dirty bytes, and the home
has what it had. -/
theorem homeWrite_others (hmem : s.memOk) (hline : pa % 128 + bs.length ≤ 128) {a : Nat} (hout : ¬ (pa ≤ a ∧ a < pa + bs.length))
    (hhome : a / 128 = pa / 128 → coreByte s a = atHome s a) :
    coreByte (homeWrite s pa bs) a = coreByte s a ∧ atHome (homeWrite s pa bs) a = atHome s a := by
  obtain ⟨hst, hcores⟩ := physWrite_frame s s.ctx s.w.home.cls hregion bs
  have hread := mread_homeWrite hregion bs hmem a
  rw [if_neg hout] at hread
  rw [homeWrite_eq_mapLines hregion] at hread ⊢
  rw [mapLines_mem] at hread
  generalize physWrite s s.ctx s.w.home.cls pa bs = t at hst hcores hread
  have hcore : coreByte t a = coreByte s a := by
    rw [coreByte, coreByte, lineHeld_congr hst hcores, coreGen_congr hst hcores, hread]
  have hat : atHome t a = atHome s a := by rw [atHome, atHome, lineHeld_congr hst hcores, hread]
  rw [← hst.ctx, atHome_mapLines_staled, coreByte_mapLines_staled hline (by rwa [hcore, hat])]
  exact ⟨hcore, hat⟩

end

/-! Pending bytes performed. -/

/-- Pending bytes written at their homes, the oldest, which is the last, first. -/
def writtenHome (s : State) : List (W64 × Byte) → State
  | [] => s
  | x :: q => homeWrite (writtenHome s q) x.1.toNat [x.2]

section
variable {s : State} {q : List (W64 × Byte)} (hregion : ∀ x ∈ q, region x.1.toNat < 2)
include hregion

theorem writtenHome_onlyStorage : onlyStorage s (writtenHome s q) := by
  induction q with
  | nil => exact .refl s
  | cons x q ih =>
    obtain ⟨hx, hq⟩ := List.forall_mem_cons.mp hregion
    exact (ih hq).trans (homeWrite_onlyStorage hx _)

theorem roomFor_writtenHome (n : Nat) : roomFor (writtenHome s q) n ↔ roomFor s n := by
  induction q with
  | nil => rfl
  | cons x q ih =>
    obtain ⟨hx, hq⟩ := List.forall_mem_cons.mp hregion
    exact (roomFor_homeWrite hx _ n).trans (ih hq)

/-- The youngest byte of an address is the one that stays. -/
theorem mread_writtenHome (hmem : s.memOk) (a : Nat) :
    (writtenHome s q).memOk ∧ mread (writtenHome s q).mem a = (pendingByte q a).getD (mread s.mem a) := by
  induction q with
  | nil => exact ⟨hmem, rfl⟩
  | cons x q ih =>
    obtain ⟨hx, hq⟩ := List.forall_mem_cons.mp hregion
    obtain ⟨hmem', hread⟩ := ih hq
    refine ⟨homeWrite_memOk hmem', ?_⟩
    rw [writtenHome, mread_homeWrite hx _ hmem', hread, pendingByte_cons]
    by_cases ha : x.1.toNat = a
    · rw [if_pos (by simp [ha]), if_pos ha, ha]
      simp
    · rw [if_neg (by simp only [List.length_singleton]; omega), if_neg ha]

theorem writtenHome_others (hmem : s.memOk) {a : Nat}
    (hother : ∀ x ∈ q, x.1.toNat ≠ a ∧ (a / 128 = x.1.toNat / 128 → coreByte s a = atHome s a)) :
    coreByte (writtenHome s q) a = coreByte s a ∧ atHome (writtenHome s q) a = atHome s a := by
  induction q with
  | nil => exact ⟨rfl, rfl⟩
  | cons x q ih =>
    obtain ⟨hx, hq⟩ := List.forall_mem_cons.mp hregion
    obtain ⟨⟨hne, hhome⟩, hother'⟩ := List.forall_mem_cons.mp hother
    obtain ⟨hcore, hat⟩ := ih hq hother'
    have hline : x.1.toNat % 128 + [x.2].length ≤ 128 := Nat.mod_lt x.1.toNat (by decide)
    have hout : ¬ (x.1.toNat ≤ a ∧ a < x.1.toNat + [x.2].length) := by
      simp only [List.length_singleton]
      omega
    obtain ⟨hcore', hat'⟩ := homeWrite_others hx [x.2] (mread_writtenHome hq hmem a).1 hline hout fun ha => by rw [hcore, hat, hhome ha]
    exact ⟨hcore'.trans hcore, hat'.trans hat⟩

end

section
variable {s : State} {p : Nat → Bool} (hregion : ∀ x ∈ s.w.ntst, p x.1.toNat = true → region x.1.toNat < 2)
include hregion

theorem selected_region : ∀ x ∈ s.w.ntst.filter (fun x => p x.1.toNat), region x.1.toNat < 2 := fun x hx =>
  have ⟨hmem, hp⟩ := List.mem_filter.mp hx
  hregion x hmem hp

/-- Performing pending bytes writes them at their homes, clears poison, and leaves the others pending. -/
theorem performNt_eq_writtenHome : performNt s p =
    ({ writtenHome s (s.w.ntst.filter fun x => p x.1.toNat) with poison := (performNt s p).poison } : State).withPending
      (s.w.ntst.filter fun x => !p x.1.toNat) := by
  have hmine := selected_region hregion
  have hfold (q : List (W64 × Byte)) (hq : ∀ x ∈ q, region x.1.toNat < 2) : q.foldr (fun x t =>
      staleBytes (physWrite t t.ctx t.w.home.cls x.1.toNat [x.2]) t.core t.ctx x.1.toNat 1) s = writtenHome s q := by
    induction q with
    | nil => rfl
    | cons x q ih =>
      obtain ⟨hx, hq⟩ := List.forall_mem_cons.mp hq
      rw [List.foldr_cons, ih hq, writtenHome, homeWrite, if_neg (by omega)]
      rfl
  have hw : (writtenHome s (s.w.ntst.filter fun x => p x.1.toNat)).w = s.w := (writtenHome_onlyStorage hmine).w
  simp only [performNt, List.filter_reverse, List.foldl_reverse, hfold _ hmine, State.withPending, State.modW, hw]

theorem performNt_onlyStorage : onlyStorage (s.withPending (s.w.ntst.filter fun x => !p x.1.toNat)) (performNt s p) := by
  rw [performNt_eq_writtenHome hregion]
  exact ((writtenHome_onlyStorage (selected_region hregion)).trans (setPoison_onlyStorage ..)).withPending _

theorem roomFor_performNt (n : Nat) : roomFor (performNt s p) n ↔ roomFor s n := by
  rw [performNt_eq_writtenHome hregion]
  exact roomFor_writtenHome (selected_region hregion) n

/-- 06 R131: the home has the warp's youngest byte of each address that was performed. -/
theorem mread_performNt (hmem : s.memOk) (a : Nat) :
    mread (performNt s p).mem a = if p a then (pendingByte s.w.ntst a).getD (mread s.mem a) else mread s.mem a := by
  rw [performNt_eq_writtenHome hregion]
  refine (mread_writtenHome (selected_region hregion) hmem a).2.trans ?_
  rw [pendingByte_filter]
  split <;> rfl

/-- The core reads the other bytes as before. -/
theorem coreByte_performNt (hmem : s.memOk) {a : Nat} (hout : p a = false)
    (hhome : ∀ x ∈ s.w.ntst, p x.1.toNat = true → a / 128 = x.1.toNat / 128 → coreByte s a = atHome s a) :
    coreByte (performNt s p) a = coreByte s a := by
  rw [performNt_eq_writtenHome hregion]
  refine (writtenHome_others (selected_region hregion) hmem fun x hx => ?_).1
  obtain ⟨hx, hp⟩ := List.mem_filter.mp hx
  exact ⟨fun ha => Bool.false_ne_true (hout.symm.trans (ha ▸ hp)), hhome x hx hp⟩

end

/-- 06 R132: NTDRAIN performs every pending byte, and moves on. -/
theorem ntdrain_performs {s : State} (hmem : s.memOk) (hdram : ∀ x ∈ s.w.ntst, region x.1.toNat < 2) :
    ∃ u, exec .ntdrain s = .next u ∧ u.w = { s.w with o := s.w.iss.next, ntst := [] } ∧
      ∀ a, mread u.mem a = (pendingByte s.w.ntst a).getD (mread s.mem a) := by
  have hall : ∀ x ∈ s.w.ntst, (fun _ => true : Nat → Bool) x.1.toNat = true → region x.1.toNat < 2 := fun x hx _ => hdram x hx
  have hnone : (s.w.ntst.filter fun x => !(fun _ => true : Nat → Bool) x.1.toNat) = [] := List.filter_false _
  have hst := performNt_onlyStorage (p := fun _ => true) hall
  rw [hnone] at hst
  refine ⟨advance (performNt s fun _ => true), rfl, ?_, mread_performNt (p := fun _ => true) hall hmem⟩
  rw [advance, State.modW, hst.w]
  rfl

end Sys2Proof.Machine
end

section
/-! O24: one store. An ordinary store performs the warp's pending bytes of its range and then writes the core's line; an NTST takes the
core's bytes of the line home and waits (06 R131, R132). -/
namespace Sys2Proof.Machine

/-! An ordinary store. -/

/-- The addresses of a range. -/
def inRange (pa n a : Nat) : Bool := pa ≤ a && a < pa + n

theorem inRange_iff {pa n a : Nat} : inRange pa n a = true ↔ pa ≤ a ∧ a < pa + n := by simp [inRange]

theorem inRange_eq_false {pa n a : Nat} : inRange pa n a = false ↔ ¬ (pa ≤ a ∧ a < pa + n) := by rw [← inRange_iff, Bool.not_eq_true]

theorem performNt_of_nil {s : State} (h : s.w.ntst = []) (p : Nat → Bool) : performNt s p = s := by
  have hself := withPending_self s
  rw [h] at hself
  refine Eq.trans ?_ hself
  simp [performNt, fullSectors, State.withPending, State.modW, h]

/-- In the DRAM tiers the pending bytes of exactly the range are performed. -/
theorem performNtRange_of_dram {s : State} {pa : Nat} (h : region pa < 2) (n : Nat) :
    performNtRange s pa n = performNt s (inRange pa n) := by
  unfold performNtRange
  split
  · next hnil => rw [performNt_of_nil (List.isEmpty_iff.mp hnil)]
  · rw [if_neg (by omega)]
    rfl

theorem openLine_poison {s : State} (room : roomFor s 1) (cls : Nat) (hint : Hint) (pa : Nat) :
    (openLine s s.core s.ctx cls hint pa).1.poison = s.poison := by
  unfold openLine
  simp only
  split
  · split <;> rfl
  · rw [shrinkL1_of_le _ (by unfold roomFor at room; omega)]
    rfl

/-- An ordinary store changes no byte and no poison at its home. -/
theorem coreStore_home {s : State} {pa : Nat} (room : roomFor s 1) (hregion : region pa < 2) (cls : Nat) (hint : Hint) (bs : List Byte) :
    (coreStore s s.core s.ctx cls hint pa bs).mem = s.mem ∧ (coreStore s s.core s.ctx cls hint pa bs).poison = s.poison := by
  rw [coreStore, if_pos hregion]
  exact ⟨(openLine_opens room cls hint pa).mem, openLine_poison room cls hint pa⟩

section
variable {s : State} {pa : Nat} {bs : List Byte} (hmem : s.memOk) (hregion : region pa < 2) (hline : pa % 128 + bs.length ≤ 128)
  (hseq : s.w.isSeq = false) (hstep : inStep s pa)
include hmem hregion hline hseq hstep

/-- The warp reads an ordinary store back, and only storage and pending bytes change. -/
theorem writePiece_stores (hroom : roomFor s 1) (hint : Hint) :
    onlyStorage (s.withPending (s.w.ntst.filter fun x => !inRange pa bs.length x.1.toNat)) (writePiece s hint pa bs) ∧
    ∀ a, seen (writePiece s hint pa bs) a = if pa ≤ a ∧ a < pa + bs.length then bs.getD (a - pa) 0 else seen s a := by
  have hsame {a : Nat} (ha : inRange pa bs.length a = true) : a / 128 = pa / 128 := by
    have := inRange_iff.mp ha
    omega
  have hdram : ∀ x ∈ s.w.ntst, inRange pa bs.length x.1.toNat = true → region x.1.toNat < 2 := fun x _ hx =>
    region_eq_of_line (hsame hx) ▸ hregion
  have hperform := performNt_onlyStorage hdram
  have hcore (a : Nat) (hout : ¬ (pa ≤ a ∧ a < pa + bs.length)) :
      coreByte (performNt s (inRange pa bs.length)) a = coreByte s a :=
    coreByte_performNt hdram hmem (inRange_eq_false.mpr hout) fun _ _ hx ha => coreByte_eq_atHome hstep (ha.trans (hsame hx))
  have hwrite : writePiece s hint pa bs = coreStore (performNt s (inRange pa bs.length)) s.core s.ctx s.w.home.cls hint pa bs := by
    rw [writePiece, if_neg (by omega), hseq, if_neg (by decide), performNtRange_of_dram hregion]
  have hroom' := (roomFor_performNt hdram 1).mpr hroom
  rw [hwrite]
  generalize performNt s (inRange pa bs.length) = u at hperform hcore hroom' ⊢
  obtain ⟨hst, hread⟩ := coreStore_stores hroom' hregion hline s.w.home.cls hint
  have hkey : u.core = s.core ∧ u.ctx = s.ctx := ⟨hperform.core, hperform.ctx⟩
  rw [hkey.1, hkey.2] at hst hread
  refine ⟨hperform.trans hst, seen_of_store (hperform.trans hst) hseq hregion hline (fun a hin => ?_) fun a hout => ?_⟩
  · rw [pendingByte_filter fun a => !inRange pa bs.length a, if_neg (by simp [inRange_iff.mpr hin]), Option.getD_none, hread, if_pos hin]
  · rw [pendingByte_filter fun a => !inRange pa bs.length a, if_pos (by simp [inRange_eq_false.mpr hout]), hread, if_neg hout, hcore a hout]
    exact ⟨rfl, rfl⟩

end

/-- With nothing pending, an ordinary store changes no byte at its home. -/
theorem writePiece_home {s : State} {pa : Nat} (hregion : region pa < 2) (hseq : s.w.isSeq = false) (hroom : roomFor s 1)
    (hnt : s.w.ntst = []) (hint : Hint) (bs : List Byte) :
    (writePiece s hint pa bs).mem = s.mem ∧ (writePiece s hint pa bs).poison = s.poison := by
  rw [writePiece, if_neg (by omega), hseq, if_neg (by decide), performNtRange_of_dram hregion, performNt_of_nil hnt]
  exact coreStore_home hroom hregion s.w.home.cls hint bs

/-! A non-temporal store. -/

/-- The bytes of a non-temporal store as they wait, the last first. -/
def ntBytes (pa : Nat) (bs : List Byte) : List (W64 × Byte) := (bs.zipIdx.map fun p => (BitVec.ofNat 64 (pa + p.2), p.1)).reverse

theorem pendingByte_ntBytes {pa : Nat} {bs : List Byte} (h : pa + bs.length ≤ 2 ^ 64) (a : Nat) :
    pendingByte (ntBytes pa bs) a = if pa ≤ a ∧ a < pa + bs.length then some (bs.getD (a - pa) 0) else none := by
  induction bs using List.reverseRecOn with
  | nil => simp [ntBytes, pendingByte]
  | append_singleton bs b ih =>
    rw [List.length_append, List.length_singleton] at h ⊢
    have hsnoc : ntBytes pa (bs ++ [b]) = (BitVec.ofNat 64 (pa + bs.length), b) :: ntBytes pa bs := by
      simp [ntBytes, List.zipIdx_append]
    have hlast : (BitVec.ofNat 64 (pa + bs.length)).toNat = pa + bs.length := Nat.mod_eq_of_lt (by omega)
    rw [hsnoc, pendingByte_cons, hlast, ih (by omega)]
    grind

/-- The pending bytes of a warp after a non-temporal store. -/
def withNtBytes (pa : Nat) (bs : List Byte) (q : List (W64 × Byte)) : List (W64 × Byte) :=
  ntBytes pa bs ++ q.filter fun x => !inRange pa bs.length x.1.toNat

theorem pendingByte_withNtBytes {pa : Nat} {bs : List Byte} (h : pa + bs.length ≤ 2 ^ 64) (q : List (W64 × Byte)) (a : Nat) :
    pendingByte (withNtBytes pa bs q) a = if pa ≤ a ∧ a < pa + bs.length then some (bs.getD (a - pa) 0) else pendingByte q a := by
  rw [withNtBytes, pendingByte_append, pendingByte_ntBytes h, pendingByte_filter fun a => !inRange pa bs.length a]
  split
  · rfl
  · next hout => rw [Option.none_or, inRange_eq_false.mpr hout, Bool.not_false, if_pos rfl]

/-- They lie in the line of the store, and so in its region. -/
theorem region_ntBytes {pa : Nat} {bs : List Byte} (hdram : pa / 2 ^ 48 < 2) (hline : pa % 128 + bs.length ≤ 128) :
    ∀ x ∈ ntBytes pa bs, region x.1.toNat < 2 := by
  intro x hx
  obtain ⟨p, hp, rfl⟩ := List.mem_map.mp (List.mem_reverse.mp hx)
  have hlt : p.2 < bs.length := by simpa using List.snd_lt_of_mem_zipIdx hp
  have hat : (BitVec.ofNat 64 (pa + p.2)).toNat = pa + p.2 := Nat.mod_eq_of_lt (by omega)
  rw [hat, region_eq_of_line (by omega : (pa + p.2) / 128 = pa / 128)]
  exact (Nat.mod_le _ _).trans_lt hdram

/-- A line written back has no dirty byte, so that the home has what it has by itself. -/
theorem atHome_writeBackPa {s : State} {pa a : Nat} (hone : oneCopy s pa) (ha : a / 128 = pa / 128) :
    atHome (writeBackPa s s.core s.ctx pa) a = mread (writeBackPa s s.core s.ctx pa).mem a := by
  cases hl : lineHeld (writeBackPa s s.core s.ctx pa) a with
  | none => exact atHome_of_none hl
  | some l =>
    have hdirty : l.dirty = 0 := writeBackPa_clean hone ((lineHeld_eq_of_line _ ha).symm.trans hl)
    simp [atHome_of_some hl, hdirty]

section
variable {s : State} {pa : Nat} {bs : List Byte} (hregion : region pa < 2) (hone : oneCopy s pa)
include hregion hone

theorem writeNt_eq_withPending : writeNt s pa bs =
    (mapLines (writeBackPa s s.core s.ctx pa) (Line.staled s.ctx pa bs.length)).withPending (withNtBytes pa bs s.w.ntst) := by
  have hst := writeBackPa_onlyStorage hone
  have hnt : (writeBackPa s s.core s.ctx pa).w.ntst = s.w.ntst := by rw [hst.w]
  rw [writeNt, if_neg (by omega), ← hnt, mapLines, hst.core]
  rfl

theorem writeNt_onlyStorage : onlyStorage (s.withPending (withNtBytes pa bs s.w.ntst)) (writeNt s pa bs) := by
  rw [writeNt_eq_withPending hregion hone]
  exact ((writeBackPa_onlyStorage hone).trans (mapLines_onlyStorage ..)).withPending _

/-- The core's dirty bytes of the line are at the home, and the new bytes are not. -/
theorem mread_writeNt (hmem : s.memOk) (a : Nat) :
    mread (writeNt s pa bs).mem a = if a / 128 = pa / 128 then atHome s a else mread s.mem a := by
  rw [writeNt_eq_withPending hregion hone]
  exact mread_writeBackPa hone hmem a

/-- The core itself reads every byte as before. -/
theorem coreByte_writeNt (hmem : s.memOk) (hline : pa % 128 + bs.length ≤ 128) (hstep : inStep s pa) (a : Nat) :
    coreByte (writeNt s pa bs) a = coreByte s a := by
  have hback := coreByte_writeBackPa hone hmem a
  have hstale := coreByte_mapLines_staled (s := writeBackPa s s.core s.ctx pa) hline fun ha => by
    rw [atHome_writeBackPa hone ha, hback, mread_writeBackPa hone hmem, if_pos ha, coreByte_eq_atHome hstep ha]
  rw [(writeBackPa_onlyStorage hone).ctx] at hstale
  rw [writeNt_eq_withPending hregion hone]
  exact hstale.trans hback

/-- 06 R131: the warp reads a non-temporal store back, from what it has pending. -/
theorem seen_writeNt (hmem : s.memOk) (hdram : pa / 2 ^ 48 < 2) (hline : pa % 128 + bs.length ≤ 128) (hseq : s.w.isSeq = false)
    (hstep : inStep s pa) (a : Nat) :
    seen (writeNt s pa bs) a = if pa ≤ a ∧ a < pa + bs.length then bs.getD (a - pa) 0 else seen s a := by
  have hpending := pendingByte_withNtBytes (by omega : pa + bs.length ≤ 2 ^ 64) s.w.ntst
  refine seen_of_store (writeNt_onlyStorage hregion hone) hseq hregion hline (fun a hin => ?_) (fun a hout => ?_) a
  · rw [hpending, if_pos hin, Option.getD_some]
  · rw [hpending, if_neg hout]
    exact ⟨rfl, coreByte_writeNt hregion hone hmem hline hstep a⟩

/-- 06 R132: NTDRAIN performs what waits, and the bytes of the store stand at their home. -/
theorem ntdrain_writeNt (hmem : s.memOk) (hdram : pa / 2 ^ 48 < 2) (hline : pa % 128 + bs.length ≤ 128)
    (hpending : ∀ q ∈ s.w.ntst, region q.1.toNat < 2) :
    ∃ u, exec .ntdrain (writeNt s pa bs) = .next u ∧ u.w.ntst = [] ∧ u.w.o = s.w.iss.next ∧
      ∀ i < bs.length, mread u.mem (pa + i) = bs.getD i 0 := by
  have hw := (writeNt_onlyStorage (bs := bs) hregion hone).w
  have hq : (writeNt s pa bs).w.ntst = withNtBytes pa bs s.w.ntst := congrArg Warp.ntst hw
  obtain ⟨u, hu, hperformed, hread⟩ := ntdrain_performs (writeNt_memOk hmem) (s := writeNt s pa bs) fun x hx => by
    rcases List.mem_append.mp (hq ▸ hx) with hx | hx
    · exact region_ntBytes hdram hline x hx
    · exact hpending x (List.mem_filter.mp hx).1
  refine ⟨u, hu, congrArg Warp.ntst hperformed, (congrArg Warp.o hperformed).trans (congrArg (·.iss.next) hw), fun i hi => ?_⟩
  rw [hread, hq, pendingByte_withNtBytes (by omega), if_pos (by omega), Option.getD_some, Nat.add_sub_cancel_left]

end

/-! The other regions, and sequencers. -/

theorem writePiece_of_seq {s : State} {pa : Nat} (hseq : s.w.isSeq = true) (hregion : region pa < 3) (hint : Hint) (bs : List Byte) :
    writePiece s hint pa bs = physWrite s s.ctx s.w.home.cls pa bs := by
  rw [writePiece, if_neg (by omega), if_pos hseq]

theorem writePiece_of_map {s : State} {pa : Nat} (hregion : region pa = 2) (hnt : s.w.ntst = []) (hint : Hint) (bs : List Byte) :
    writePiece s hint pa bs = physWrite s s.ctx s.w.home.cls pa bs := by
  have hnone : performNtRange s pa bs.length = s := by simp [performNtRange, hnt]
  have hstore : coreStore s s.core s.ctx s.w.home.cls hint pa bs = physWrite s s.ctx s.w.home.cls pa bs := if_neg (by omega)
  rw [writePiece, if_neg (by omega), hnone, hstore, ite_self]

/-- Settles O24: an ordinary store is read back from the core's line and an NTST from what the warp has pending; the bytes around it stay,
because the clean bytes that go stale are what the home has. -/
theorem storesAreSeen : Obligations.StoresAreSeen := by
  refine fun s hint pa bs hmem => ⟨fun hdram hline hseq hstep => ?_, fun hseq hregion => writePiece_of_seq hseq hregion hint bs,
    fun hregion hnt => writePiece_of_map hregion hnt hint bs, fun hregion => ⟨if_pos hregion, if_pos hregion⟩⟩
  have hregion : region pa < 2 := (Nat.mod_le _ _).trans_lt hdram
  refine ⟨fun hroom => ?_, fun hone => ?_⟩
  · obtain ⟨hst, hseen⟩ := writePiece_stores hmem hregion hline hseq hstep hroom hint
    refine ⟨hseen, hst.frame, fun hnt => ⟨?_, writePiece_home hregion hseq hroom hnt hint bs⟩⟩
    rw [hst.w, hnt, List.filter_nil, ← hnt, withPending_self]
  · refine ⟨seen_writeNt hregion hone hmem hdram hline hseq hstep, (writeNt_onlyStorage hregion hone).frame, fun a ha => ?_,
      ntdrain_writeNt hregion hone hmem hdram hline⟩
    rw [mread_writeNt hregion hone hmem, if_neg ha]

end Sys2Proof.Machine
end

section
/-! Accesses whose destination is a producer's port, in a state that files a warp under a key that is not its own. The slot that such an
access reserves at its issue is written in the consumer's registers (`putSlot`), and `setWarp` puts the consumer back under its own id:
when that is the id of the warp in focus, the consumer's record takes its place, with an issue that holds its accesses (15 R367). The
access is then noted and not performed, although the warp that issued it holds nothing. O21, O25, O26, O28 and O30 speak of every state,
this one too, and fail there. -/
namespace Sys2Proof.Machine

/-- The warp in focus: register v4 is the port of a channel that it produces for, and it issues in the given lanes. -/
def producer (lanes : Mask) : Warp :=
  { Warp.idle 200 (.group 0) with
    v := List.replicate 5 Vec.zero
    ports := [(0, 4)]
    iss := { Issue.idle with lanes, all := lanes } }

/-- The channel's consumer, which has the same id, and whose issue holds its accesses. -/
def consumerOfSameId : Warp :=
  { Warp.idle 200 (.group 0) with
    live := true
    home := ⟨0, 0, 0, 0, 0, 0, 0, 7, false⟩
    iss := { Issue.idle with hold := true, many := true } }

/-- Their workgroup, with one channel: consumer index 7, port v0, depth 1, no slot in use. -/
def producerGroup : Group :=
  { ctx := 0, qi := 0, launch := 0, core := 0, warps := [201], matrix := false, budget := 0, scratch := 0, skib := [], mem := [],
    reserve := [], pool := [], claims := [], bars := [], chans := [(0, ⟨some 7, 0, 1, 0, 0, [], 0, false⟩)], gang := 0,
    resident := true, image := 0, imageSize := 0, preempt := none, overdue := false, savedOn := none }

/-- The device after reset with that workgroup, the consumer filed under key 201. -/
def misfiled (lanes : Mask) : State :=
  { State.reset with w := producer lanes, warps := [(201, consumerOfSameId)], groups := [(0, producerGroup)] }

/-- The slots of every channel after a step. -/
def slotsAfter : Out → List (List ChanSlot)
  | .next s => s.groups.flatMap fun g => g.2.chans.map (·.2.slots)
  | _ => []

/-- A step that leaves the port's slot due is none that fills it. -/
theorem dueOutcome_ne_filledOutcome {o : Out} {t : State} (hdue : slotsAfter o = [[.due 0 1]]) (hfull : slotsAfter (.next t) = [[.full]]) :
    o ≠ .next t := by
  rintro rfl
  exact absurd (hdue.symm.trans hfull) (by decide)

/-- The trap that the issue in focus has met, after a step. -/
def trapAfter : Out → Option Trap
  | .next s => s.w.iss.trapped
  | _ => none

/-- A load of a word into the port. -/
def portLoad : Load := { lit := none, adr := .queue 0, dst := .vec 4, size := .word, base := 0, hint := .default }

/-- An atomic that returns into the port. -/
def portAtom : Atom := .ext (.queue 0) (.queue 1) .unused (.vec 4) .i32 0 0 false

/-- Refutes O21: with no lane to check, LD into the port leaves its slot due, and the statement says that it is filled. -/
theorem not_loads : ¬ Obligations.Loads := by
  unfold Obligations.Loads
  intro h
  have hfilled := (h.1 _ (List.mem_cons_self ..) portLoad (misfiled 0) (misfiled 0) _ [] [] (by decide) rfl rfl rfl rfl).1 _ [] rfl
  exact dueOutcome_ne_filledOutcome (by decide +kernel) (by decide +kernel) hfilled

/-- Refutes O25: with no lane to check, AADD into the port leaves its slot due, and the statement says that it is filled. -/
theorem not_atomics : ¬ Obligations.Atomics := by
  unfold Obligations.Atomics
  intro h
  have hfilled := (h.1.1 _ (List.mem_cons_self ..) portAtom (misfiled 0) (misfiled 0) _ [] (by decide) rfl rfl rfl _).2 rfl _ [] rfl
  exact dueOutcome_ne_filledOutcome (by decide +kernel) (by decide +kernel) hfilled

/-- Refutes O26: with no lane to check, LDE into the port leaves its slot due, and the statement says that it is filled. -/
theorem not_elementAccesses : ¬ Obligations.ElementAccesses := by
  unfold Obligations.ElementAccesses
  intro h
  have hfilled := h.1 portLoad (misfiled 0) (misfiled 0) _ _ [] [] [] (by decide) rfl rfl rfl rfl rfl
  exact dueOutcome_ne_filledOutcome (by decide +kernel) (by decide +kernel) hfilled

/-- Refutes O28: with no lane to check, LHQ into the port leaves its slot due, and the statement says that it is filled. -/
theorem not_layoutHandles : ¬ Obligations.LayoutHandles := by
  unfold Obligations.LayoutHandles
  intro h
  obtain ⟨-, -, -, -, -, hquery⟩ := h
  have hnoLane : ∀ l < 128, ¬ hasLane (misfiled 0).lanes l := by simp [misfiled, producer, hasLane, State.lanes]
  have hfilled := hquery none (.queue 0) (.queue 1) (.vec 4) false (misfiled 0) (misfiled 0) (by decide) rfl rfl
    (fun _ => 0) (fun l hl hlane => absurd hlane (hnoLane l hl))
  exact dueOutcome_ne_filledOutcome (by decide +kernel) (by decide +kernel) hfilled

theorem takeTrap_trapped_of_many (s : State) (t : Trap) (h : s.w.iss.many = true) : (takeTrap s t).w.iss.trapped = some t := by
  simp [takeTrap, h]

/-- Refutes O30: LD of a word at address 1 in lane 0, into the port, is only noted, so no trap is met; the statement says that one is. -/
theorem not_accessesFault : ¬ Obligations.AccessesFault := by
  unfold Obligations.AccessesFault
  intro h
  obtain ⟨t, -, htrap⟩ := h.1 _ (List.mem_cons_self ..) { portLoad with lit := some 1 } (misfiled 1) (misfiled 1) _ _ _ (by decide)
    rfl rfl rfl (by decide +kernel) (by decide +kernel)
  have hnone : trapAfter (exec (.ld { portLoad with lit := some 1 }) (misfiled 1)) = none := by decide +kernel
  rw [htrap] at hnone
  exact absurd ((takeTrap_trapped_of_many _ t (by decide +kernel)).symm.trans hnone) nofun

end Sys2Proof.Machine
end

section
/-! Engines (06 R146 to R152): the queue of an engine under what else an instruction changes, and O32. -/
namespace Sys2Proof.Machine

theorem engineQueue_modW (s : State) (f : Warp → Warp) (e : Engine) : engineQueue (s.modW f) e = engineQueue s e := by
  cases e <;> rfl

theorem engineQueue_congr {s t : State} (hclusters : t.clusters = s.clusters) (hports : t.portCmds = s.portCmds)
    (htowers : ∀ k, (getTower t k).dma = (getTower s k).dma ∧ (getTower t k).rasterCmd = (getTower s k).rasterCmd ∧
      (getTower t k).blendCmd = (getTower s k).blendCmd) (e : Engine) : engineQueue t e = engineQueue s e := by
  cases e <;> simp [engineQueue, getCluster, hclusters, hports, htowers]

/-- An access at a slice changes its lines and its DRAM counts. -/
theorem engineQueue_l2Access (s : State) (cls : Nat) (hint : Hint) (line : Nat) (dirty : BitVec 128) (e : Engine) :
    engineQueue (l2Access s cls hint line dirty) e = engineQueue s e := by
  have htowers (k : Nat) : (getTower (l2Access s cls hint line dirty) k).dma = (getTower s k).dma ∧
      (getTower (l2Access s cls hint line dirty) k).rasterCmd = (getTower s k).rasterCmd ∧
      (getTower (l2Access s cls hint line dirty) k).blendCmd = (getTower s k).blendCmd := by
    rw [l2Access, getTower_setTower]
    split
    · next hk => subst hk; exact ⟨rfl, rfl, rfl⟩
    · exact ⟨rfl, rfl, rfl⟩
  exact engineQueue_congr (s := s) (t := l2Access s cls hint line dirty) rfl rfl htowers e

theorem engineQueue_writeBack (s : State) (l : Line) (e : Engine) : engineQueue (writeBack s l) e = engineQueue s e := by
  obtain ⟨m, hm⟩ := flushFrom_frame s l 0 128
  unfold writeBack
  split
  · rfl
  · rw [engineQueue_l2Access, hm]
    exact engineQueue_congr rfl rfl (fun _ => ⟨rfl, rfl, rfl⟩) e

theorem engineQueue_writeBackLines (e : Engine) : ∀ (ls : List Line) (s : State), engineQueue (writeBackLines s ls) e = engineQueue s e
  | [], _ => rfl
  | l :: ls, s => (engineQueue_writeBackLines e ls (writeBack s l)).trans (engineQueue_writeBack s l e)

theorem writeBackLines_onlyStorage : ∀ (ls : List Line) (s : State), onlyStorage s (writeBackLines s ls)
  | [], s => .refl s
  | l :: ls, s => (writeBack_frame s l).1.trans (writeBackLines_onlyStorage ls (writeBack s l))

theorem writeBackCtx_onlyStorage (s : State) (core ctx : Nat) : onlyStorage s (writeBackCtx s core ctx) :=
  (writeBackLines_onlyStorage _ s).trans rfl

theorem engineQueue_writeBackCtx (s : State) (core ctx : Nat) (e : Engine) :
    engineQueue (writeBackCtx s core ctx) e = engineQueue s e := by
  rw [← engineQueue_writeBackLines e ((getCore s core).lines.filter fun l => l.ctx == ctx) s]
  exact engineQueue_congr rfl rfl (fun _ => ⟨rfl, rfl, rfl⟩) e

theorem setEngineQueue_w (s : State) (e : Engine) (q : List Cmd) : (setEngineQueue s e q).w = s.w := by
  cases e <;> rfl

/-- Every engine but a sampler keeps the commands that it is given. -/
theorem engineQueue_setEngineQueue (s : State) {e : Engine} {q : List Cmd} (he : ∀ c, e ≠ .sampler c) (hq : q ≠ []) :
    engineQueue (setEngineQueue s e q) e = q := by
  cases e with
  | sampler c => exact absurd rfl (he c)
  | _ => simp [engineQueue, setEngineQueue, modCluster, hq, tgetD]

/-- The table of 06 Table 06-6 is how the instructions find an engine and its depth. -/
theorem engineTable_row {s : State} {r : BitVec 4 × Engine × Option Nat} (h : r ∈ engineTable s) :
    r.1.toNat < 11 ∧ engineOf s.w.cluster r.1.toNat = some r.2.1 ∧ queueDepth r.1.toNat = r.2.2 ∧ ∀ c, r.2.1 ≠ .sampler c := by
  simp only [engineTable, List.mem_cons, List.not_mem_nil, or_false] at h
  rcases h with rfl | rfl | rfl | rfl | rfl | rfl | rfl | rfl | rfl | rfl | rfl <;> exact ⟨Nat.le_of_ble_eq_true rfl, rfl, rfl, nofun⟩

theorem engineId_of_lt (s : State) (k : State → State) {eng : Nat} (h : eng < 11) : engineId s eng k = k s := if_neg (by omega)
theorem engineId_of_ge (s : State) (k : State → State) {eng : Nat} (h : 11 ≤ eng) : engineId s eng k = raise0 s ENGINE_ID [] := if_pos h

theorem genBump_w (s : State) (core : Nat) : (genBump s core).w = s.w := by
  simp only [genBump]
  split <;> rfl

/-- 05 R110: the generation of 16 bits goes up by one, and after its last to zero. -/
theorem genBump_gen (s : State) (core : Nat) : (getCore (genBump s core) core).gen = (getCore s core).gen + 1 := by
  simp only [genBump]
  split
  · next h => simp [h]
  · simp

theorem tget_of_tabWf_lt {α : Type} {n lo : Nat} : ∀ {t : Tab α}, tabWf lo t = true → n < lo → tget t n = none
  | [], _, _ => rfl
  | (k, a) :: t, h, hn => by
    simp only [tabWf, Bool.and_eq_true, decide_eq_true_eq] at h
    rw [tget, if_neg (by omega), if_pos (by omega)]

theorem tget_tdel_same {α : Type} {n lo : Nat} : ∀ {t : Tab α}, tabWf lo t = true → tget (tdel t n) n = none
  | [], _ => rfl
  | (k, a) :: t, h => by
    simp only [tabWf, Bool.and_eq_true, decide_eq_true_eq] at h
    obtain ⟨-, ht⟩ := h
    rw [tdel]
    split
    · next hk => exact tget_of_tabWf_lt ht (by omega)
    · split
      · next hk hlt => rw [tget, if_neg hk, if_pos hlt]
      · next hk hlt => rw [tget, if_neg hk, if_neg hlt, tget_tdel_same ht]

section
variable {s : State} {eng : BitVec 4} {e : Engine} {depth : Option Nat}

/-- PUSH finds the queue full, or as many commands outstanding as it can count (06 R146, R150). -/
def pushRefused (s : State) (eng : BitVec 4) (e : Engine) (depth : Option Nat) : Prop :=
  (∃ n, depth = some n ∧ n ≤ (engineQueue s e).length) ∨ 65535 ≤ tgetD s.w.counts eng.toNat 0

/-- The command that PUSH makes of a block of eight scalars (06 R146). -/
def pushedCmd (s : State) (words : List W64) (eng : Nat) : Cmd :=
  ⟨words, s.ctx, some s.w.id, none, eng, false, s.w.home.qi, s.w.home.prio, s.w.home.cls, s.w.groupId, s.uses⟩

/-- PUSH done: the core's bytes are written back, the command is queued and counted, and the answer is 0 (06 R146, R150). -/
def pushed (s : State) (sd : BitVec 6) (cb : BitVec 3) (eng : BitVec 4) (e : Engine) : State :=
  let words := (List.range 8).map fun i => s.w.sreg (8 * cb.toNat + i)
  let t := writeBackCtx s s.core s.ctx
  let t := setEngineQueue t e (engineQueue t e ++ [pushedCmd t words eng.toNat])
  advance (setS (t.modW fun w => { w with counts := tput w.counts eng.toNat (outstanding w eng.toNat + 1) }) sd.toNat 0)

variable (hlt : eng.toNat < 11)
include hlt

section
variable (hof : engineOf s.w.cluster eng.toNat = some e) (hdepth : queueDepth eng.toNat = depth)
include hof hdepth

theorem exec_push_of_refused (hfull : pushRefused s eng e depth) (sd : BitVec 6) (cb : BitVec 3) :
    exec (.push sd cb eng) s = .next (jump (setS s sd.toNat 1) s.w.iss.next) := by
  show execPush sd cb eng s = _
  simp only [execPush, engineId_of_lt s _ hlt, hof, hdepth]
  refine congrArg _ (if_pos ?_)
  rw [Bool.or_eq_true, decide_eq_true_eq]
  exact hfull.imp_left fun ⟨n, hn, hlen⟩ => by rw [hn]; exact decide_eq_true hlen

theorem exec_push_of_taken (hroom : ¬ pushRefused s eng e depth) (sd : BitVec 6) (cb : BitVec 3) :
    exec (.push sd cb eng) s = .next (pushed s sd cb eng e) := by
  obtain ⟨hdeep, hcount⟩ := not_or.mp hroom
  show execPush sd cb eng s = _
  simp only [execPush, engineId_of_lt s _ hlt, hof, hdepth]
  refine congrArg _ (if_neg ?_)
  rw [Bool.or_eq_true, decide_eq_true_eq]
  refine not_or.mpr ⟨?_, hcount⟩
  cases depth with
  | none => exact Bool.false_ne_true
  | some n => exact fun h => hdeep ⟨n, rfl, of_decide_eq_true h⟩
end

theorem exec_yldc_of_few {k : Src} (hk : tgetD s.w.counts eng.toNat 0 ≤ (scalarOf s none k).toNat) (off : W32) :
    exec (.yldc eng k off) s = .next (jump (genBump s s.core) (s.w.o + off)) := by
  show execYldc eng k off s = _
  simp only [execYldc, engineId_of_lt s _ hlt]
  exact congrArg _ (if_pos hk)

theorem exec_yldc_of_many {k : Src} (hk : (scalarOf s none k).toNat < tgetD s.w.counts eng.toNat 0) (off : W32) :
    exec (.yldc eng k off) s = .next (block s (.yldc eng.toNat (scalarOf s none k).toNat (s.w.o + off))) := by
  show execYldc eng k off s = _
  simp only [execYldc, engineId_of_lt s _ hlt]
  exact congrArg _ (if_neg (Nat.not_le_of_lt hk))

theorem exec_cwait_of_few {k : BitVec 5} (hk : tgetD s.w.counts eng.toNat 0 ≤ k.toNat) :
    exec (.cwait k eng) s = .next (jump (genBump s s.core) s.w.iss.next) := by
  show execCwait k eng s = _
  simp only [execCwait, engineId_of_lt s _ hlt]
  refine congrArg _ ((if_pos hk).trans ?_)
  rw [← genBump_w s s.core]
  rfl

theorem exec_cwait_of_many {k : BitVec 5} (hk : k.toNat < tgetD s.w.counts eng.toNat 0) :
    exec (.cwait k eng) s = .next ((stall s).modW fun w => { w with parked := true }) := by
  show execCwait k eng s = _
  simp only [execCwait, engineId_of_lt s _ hlt]
  exact congrArg _ (if_neg (Nat.not_le_of_lt hk))

/-- CTEST done (06 R151): the generation advances, the count and the error bit are read, and the bit is cleared. -/
def tested (s : State) (sd : BitVec 6) (eng : Nat) : State :=
  let x := tgetD s.w.counts eng 0 + 65536 * (tgetD s.w.errors eng false).toNat
  advance ((setS (genBump s s.core) sd.toNat (BitVec.ofNat 64 x)).modW fun w => { w with errors := tdel w.errors eng })

theorem exec_ctest (sd : BitVec 6) : exec (.ctest sd eng) s = .next (tested s sd eng.toNat) := by
  show execCtest sd eng s = _
  simp only [execCtest, engineId_of_lt s _ hlt]
  rfl
end

theorem exec_engine_of_ge (s : State) {bad : BitVec 4} (h : 11 ≤ bad.toNat) (sd : BitVec 6) (cb : BitVec 3) (k : Src) (kk : BitVec 5)
    (off : W32) :
    exec (.push sd cb bad) s = .next (raise0 s ENGINE_ID []) ∧ exec (.yldc bad k off) s = .next (raise0 s ENGINE_ID []) ∧
    exec (.cwait kk bad) s = .next (raise0 s ENGINE_ID []) ∧ exec (.ctest sd bad) s = .next (raise0 s ENGINE_ID []) :=
  have hstop (k : State → State) : (.next (engineId s bad.toNat k) : Out) = .next (raise0 s ENGINE_ID []) :=
    congrArg _ (engineId_of_ge s k h)
  ⟨hstop _, hstop _, hstop _, hstop _⟩

theorem pushed_w (s : State) (sd : BitVec 6) (cb : BitVec 3) (eng : BitVec 4) (e : Engine) :
    (pushed s sd cb eng e).w = { s.w.setS sd.toNat 0 with
      o := s.w.iss.next, counts := tput s.w.counts eng.toNat (tgetD s.w.counts eng.toNat 0 + 1) } := by
  simp only [pushed, advance, setS, State.modW_w, setEngineQueue_w, (writeBackCtx_onlyStorage s s.core s.ctx).w]
  rfl

theorem engineQueue_pushed (s : State) (sd : BitVec 6) (cb : BitVec 3) (eng : BitVec 4) {e : Engine} (he : ∀ c, e ≠ .sampler c) :
    ∃ c, engineQueue (pushed s sd cb eng e) e = engineQueue s e ++ [c] ∧
      c.words = (List.range 8).map (fun i => s.w.sreg (8 * cb.toNat + i)) ∧ c.ctx = s.ctx ∧ c.issuer = some s.w.id := by
  have hwb := writeBackCtx_onlyStorage s s.core s.ctx
  refine ⟨pushedCmd (writeBackCtx s s.core s.ctx) ((List.range 8).map fun i => s.w.sreg (8 * cb.toNat + i)) eng.toNat, ?_, rfl,
    hwb.ctx, congrArg (fun w : Warp => some w.id) hwb.w⟩
  simp only [pushed, advance, setS, engineQueue_modW]
  rw [engineQueue_setEngineQueue _ he (by simp), engineQueue_writeBackCtx]

theorem tested_w (s : State) (sd : BitVec 6) (eng : Nat) :
    (tested s sd eng).w = { s.w.setS sd.toNat (BitVec.ofNat 64 (tgetD s.w.counts eng 0 + 65536 * (tgetD s.w.errors eng false).toNat)) with
      o := s.w.iss.next, errors := tdel s.w.errors eng } := by
  simp only [tested, advance, setS, State.modW_w, genBump_w]
  rfl

/-- Settles O32: the four instructions as their definitions divide them, for each row of 06 Table 06-6. -/
theorem engineInstructions : Obligations.EngineInstructions := by
  unfold Obligations.EngineInstructions
  intro s r hr
  obtain ⟨hlt, hof, hdepth, he⟩ := engineTable_row hr
  refine ⟨fun sd cb => ⟨fun hfull => exec_push_of_refused hlt hof hdepth hfull sd cb, fun hroom => ?_⟩,
    fun k off _ => ⟨fun hk => exec_yldc_of_few hlt hk off, fun hk => exec_yldc_of_many hlt hk off⟩,
    fun k => ⟨exec_cwait_of_few hlt, fun hk => ⟨_, exec_cwait_of_many hlt hk, rfl, rfl, rfl, rfl⟩⟩,
    fun sd => ⟨_, exec_ctest hlt sd, ?_⟩,
    fun bad sd cb k kk off h => exec_engine_of_ge s h sd cb k kk off⟩
  · obtain ⟨c, hqueue, hwords, hctx, hissuer⟩ := engineQueue_pushed s sd cb r.1 he
    have hw := pushed_w s sd cb r.1 r.2.1
    refine ⟨_, c, exec_push_of_taken hlt hof hdepth hroom sd cb, hqueue, hwords, hctx, hissuer, ?_, fun i => ?_, fun i => ?_⟩
    · rw [hw]; rfl
    · rw [hw]; exact Warp.sreg_setS ..
    · rw [hw]; exact tgetD_tput ..
  · have hw := tested_w s sd r.1.toNat
    refine ⟨?_, fun hwf => ?_, fun i hi => ?_, ?_, genBump_gen s s.core⟩
    · rw [hw]
      refine (Warp.sreg_setS ..).trans ((if_pos rfl).trans ?_)
      cases tgetD s.w.errors r.1.toNat false <;> rfl
    · rw [hw, tgetD]
      simp only [tget_tdel_same hwf]
      rfl
    · rw [hw]; exact (Warp.sreg_setS ..).trans (if_neg hi)
    · rw [hw]; rfl

end Sys2Proof.Machine
end

section
/-! Engine commands (06 R147 to R150, 16 R393): what a head command does, its completion, and O33. -/
namespace Sys2Proof.Machine

/-! The head command. -/

section
variable {s : State} {e : Engine} {c : Cmd} {rest : List Cmd} {mine : Nat → Bool}
  (hqueue : engineQueue s e = c :: rest) (hmine : mine (cmdOp c) = true) (hruns : engineRuns s c.ctx = true)
include hqueue hmine hruns

theorem copyEvent_of_done {t : State} {n : Nat} {f : Flags} (hrun : runCmd s ⟨e, c.ctx⟩ c = (t, n, f, none)) :
    copyEvent e mine s = finishHead t e c ⟨0, f.toNat, n, 0, 0⟩ := by
  simp [copyEvent, hqueue, hmine, hruns, hrun]

theorem copyEvent_of_status {t : State} {n k fva fw : Nat} {f : Flags} (hrun : runCmd s ⟨e, c.ctx⟩ c = (t, n, f, some (.status k fva fw))) :
    copyEvent e mine s = finishHead t e c ⟨k, f.toNat, if k = 1 ∨ k = 5 then 0 else n, fva, fw⟩ := by
  simp [copyEvent, hqueue, hmine, hruns, hrun]

theorem copyEvent_of_poison {t : State} {n pa : Nat} {f : Flags} (hrun : runCmd s ⟨e, c.ctx⟩ c = (t, n, f, some (.poison pa))) :
    copyEvent e mine s = poisonStop t c.ctx pa 0 := by
  simp [copyEvent, hqueue, hmine, hruns, hrun]
end

/-- A command that the engine does not take, or a field of which is reserved, does nothing (06 R147). -/
theorem runCmd_of_refused (s : State) (g : Eng) {c : Cmd} (h : (opTaken g.e (cmdOp c) && copyFieldsOk c) = false) :
    runCmd s g c = (s, 0, 0, some (.status 1 0 0)) := by
  simp [runCmd, h]

/-- Each event performs the operation of its own, on the copy and DMA engines. -/
theorem exec_copyRule {r : (Engine → Instr) × Nat} (hr : r ∈ copyRules) {e : Engine} (he : copies e) :
    ∃ mine : Nat → Bool, mine r.2 = true ∧ ∀ s, exec (r.1 e) s = .next (copyEvent e mine s) := by
  simp only [copyRules, List.mem_cons, List.not_mem_nil, or_false] at hr
  cases e with
  | copy | dma =>
    rcases hr with rfl | rfl | rfl | rfl | rfl
    · exact ⟨otherOp _, rfl, fun _ => rfl⟩
    · exact ⟨fun op => op == 1 && opTaken _ 1, rfl, fun _ => rfl⟩
    · exact ⟨fun op => op == 2 && opTaken _ 2, rfl, fun _ => rfl⟩
    · exact ⟨fun op => op == 3 && opTaken _ 3, rfl, fun _ => rfl⟩
    · exact ⟨fun op => op == 4 && opTaken _ 4, rfl, fun _ => rfl⟩
  | _ => exact he.elim

theorem otherOp_of_ge {e : Engine} (he : copies e) {op : Nat} (h : 5 ≤ op) : otherOp e op = true ∧ opTaken e op = false := by
  cases e with
  | copy | dma => simp [otherOp, opTaken, h]
  | _ => exact he.elim

/-! Completion. -/

theorem pulse_w (s : State) (ctx : Nat) : (pulse s ctx).w = s.w := by
  unfold pulse modCtx
  split <;> rfl

theorem pulse_mem (s : State) (ctx : Nat) : (pulse s ctx).mem = s.mem := by
  unfold pulse modCtx
  split <;> rfl

theorem modWarp_focus (s : State) (f : Warp → Warp) : modWarp s s.w.id f = s.modW fun w => { f w with id := w.id } := by
  simp [modWarp, getWarp, setWarp, State.modW]

/-- The counts of a resident warp stand in the warp, and nothing of its group's image changes. -/
theorem resaveCounts_of_resident {s : State} (h : s.w.home.resident = true) : resaveCounts s s.w.id = s := by
  simp only [resaveCounts, getWarp, if_pos, h]
  split <;> simp

/-- The count of a command's issuer falls by one, and a failure sets its error bit (06 R150). -/
def countedDown (c : Cmd) (r : Report) (w : Warp) : Warp :=
  { w with counts := tput w.counts c.eng (tgetD w.counts c.eng 0 - 1)
           errors := if r.status ≠ 0 then tput w.errors c.eng true else w.errors }

theorem finishCmd_of_issuer {s : State} {c : Cmd} (hissuer : c.issuer = some s.w.id) (hres : s.w.home.resident = true)
    (hpacket : c.packet = none) (hrec : cmdRec c = false) (u : Walker) (who : Nat) (r : Report) :
    finishCmd s u who c r = (pulse s c.ctx).modW (countedDown c r) := by
  have hw := pulse_w s c.ctx
  simp only [finishCmd, hrec, hissuer, hpacket, Bool.false_and, Bool.false_eq_true, if_false, Bool.or_false, decide_eq_true_eq]
  rw [← hw, modWarp_focus]
  exact (resaveCounts_of_resident (s := (pulse s c.ctx).modW (countedDown c r)) (by rw [State.modW_w, hw]; exact hres))

theorem memOk_of_translate {s s1 : State} {u : Walker} {ctx va n : Nat} {k : Access} {r : Except PFault Xlat} (h : s.memOk)
    (hx : translate s u ctx k va n = (s1, r)) : s1.memOk := by
  rw [show s1 = (translate s u ctx k va n).1 by rw [hx]]
  exact translate_memOk h

theorem not_remote_of_dram {pa : Nat} (h : region pa < 2) : ¬ 3 ≤ region pa := by omega

/-- A range of one aligned sector is one piece. -/
theorem piecesOf_sector {va : Nat} (h : va % 32 = 0) : piecesOf va 32 = [(va, 32)] := by
  simp [piecesOf, sectorPieces, h]

theorem mreadN_mwriteN {m : Mem} (hwf : m.wf = true) (a : Nat) (bs : List Byte) : mreadN (mwriteN m a bs) a bs.length = bs := by
  have hlen (n : Nat) : (mreadN (mwriteN m a bs) a n).length = n := by
    generalize mwriteN m a bs = m'
    induction n generalizing a with
    | zero => rfl
    | succ n ih => rw [mreadN, List.length_cons, ih]
  refine List.ext_getElem (hlen _) fun i h h' => ?_
  rw [← List.getD_eq_getElem _ 0 h, ← List.getD_eq_getElem _ 0 h', getD_mreadN h', mread_mwriteN a bs hwf, if_pos (by omega),
    Nat.add_sub_cancel_left]

/-- The record of a command that nobody counts goes to Q7 (06 R149). -/
theorem finishCmd_record {s : State} {u : Walker} {who : Nat} {c : Cmd} {r : Report} {s1 : State} {x : Xlat}
    (hrec : cmdRec c = true) (hal : cmdWord c 7 % 32 = 0) (hissuer : c.issuer = none) (hpacket : c.packet = none)
    (hx : translate (pulse s c.ctx) u c.ctx .write (cmdWord c 7 % 2 ^ 64) 32 = (s1, .ok x)) (hregion : region x.pa < 2) :
    (finishCmd s u who c r).mem = mwriteN s1.mem x.pa (reportBytes r (cmdTag c)) := by
  have hlen : (reportBytes r (cmdTag c)).length = 32 := leBytes_length ..
  have htake : (reportBytes r (cmdTag c)).take 32 = reportBytes r (cmdTag c) := List.take_of_length_le (le_of_eq hlen)
  simp only [finishCmd, hrec, hal, hissuer, hpacket, unitWrite, hlen, piecesOf_sector hal, unitWritePieces, unitWritePiece, htake, hx,
    if_neg (not_remote_of_dram hregion), beq_self_eq_true, Bool.and_self, if_true]
  rw [physWrite_mem, if_pos hregion]

/-! The bytes of FILL and COPY. -/

theorem engPut_mem {s : State} {g : Eng} {pa : Nat} {bs : List Byte} (h : region pa < 2) : (engPut s g pa bs).mem = mwriteN s.mem pa bs := by
  rw [engPut, if_neg (not_remote_of_dram h), physWrite_mem, if_pos h]

theorem engXlat_of_translate {s s1 : State} {g : Eng} {k : Access} {va n : Nat} {x : Xlat}
    (h : translate s (.engine g.e) g.ctx k (va % 2 ^ 64) n = (s1, .ok x)) : engXlat s g k va n = (s1, .ok x) := by
  rw [engXlat, h]

/-- One piece written at the address that it translates to. -/
theorem engWriteAll_piece {s s1 : State} {g : Eng} {va n : Nat} {x : Xlat} {bs : List Byte}
    (hx : translate s (.engine g.e) g.ctx .write (va % 2 ^ 64) n = (s1, .ok x)) (hlen : bs.length = n) :
    engWriteAll s g [(va, n)] bs = (engPut s1 g x.pa bs, none) := by
  rw [engWriteAll, engXlat_of_translate hx]
  simp [engWriteAll, ← hlen]

/-- Bytes put at an address: they stand there, and every other byte is as before. -/
theorem mread_engPut {s : State} {g : Eng} {pa : Nat} {bs : List Byte} (hmem : s.memOk) (hregion : region pa < 2) (a : Nat) :
    mread (engPut s g pa bs).mem a = if pa ≤ a ∧ a < pa + bs.length then bs.getD (a - pa) 0 else mread s.mem a := by
  rw [engPut_mem hregion, mread_mwriteN pa bs hmem]

theorem mread_engPut_at {s : State} {g : Eng} {pa : Nat} {bs : List Byte} (hmem : s.memOk) (hregion : region pa < 2) {i : Nat}
    (hi : i < bs.length) :    mread (engPut s g pa bs).mem (pa + i) = bs.getD i 0 := by
  rw [mread_engPut hmem hregion, if_pos (by omega), Nat.add_sub_cancel_left]

/-- The repeated pattern of a FILL, byte by byte. -/
theorem getD_replicate_flatten {pat : List Byte} (hpat : pat.length = 4) : ∀ {k i : Nat}, i < 4 * k →
    (List.replicate k pat).flatten.getD i 0 = pat.getD (i % 4) 0
  | k + 1, i, h => by
    rw [List.replicate_succ, List.flatten_cons]
    by_cases hi : i < 4
    · rw [List.getD_append _ _ _ _ (by omega), Nat.mod_eq_of_lt hi]
    · rw [List.getD_append_right _ _ _ _ (by omega), hpat, getD_replicate_flatten hpat (by omega), ← Nat.mod_eq_sub_mod (by omega)]

theorem length_replicate_flatten {pat : List Byte} (hpat : pat.length = 4) {n : Nat} (h : n % 4 = 0) :
    (List.replicate (n / 4) pat).flatten.length = n := by
  simp [hpat]
  omega

theorem copyFieldsOk_fill {c : Cmd} (hop : cmdOp c = 2) (h : copyFieldsOk c = true) : cmdWord c 3 % 4 = 0 := by
  simp_all [copyFieldsOk]

/-- FILL of one piece (06 R148): the pattern over the piece. -/
theorem runCmd_fill {s s1 : State} {g : Eng} {c : Cmd} {x : Xlat} (htaken : opTaken g.e 2 = true) (hop : cmdOp c = 2)
    (hfields : copyFieldsOk c = true) (hpieces : piecesOf (cmdWord c 2) (cmdWord c 3) = [(cmdWord c 2, cmdWord c 3)])
    (hx : translate s (.engine g.e) g.ctx .write (cmdWord c 2 % 2 ^ 64) (cmdWord c 3) = (s1, .ok x)) :
    runCmd s g c = (engPut s1 g x.pa (List.replicate (cmdWord c 3 / 4) (leBytes 4 (cmdWord c 6))).flatten, cmdWord c 3, 0, none) := by
  have hlen := length_replicate_flatten (leBytes_length 4 (cmdWord c 6)) (copyFieldsOk_fill hop hfields)
  simp [runCmd, hop, htaken, hfields, hpieces, fillPieces, engWriteAll_piece hx hlen]

/-- COPY into one piece (06 R148), where the source reads the same as before the command: its bytes. -/
theorem runCmd_copy {s s1 s2 : State} {g : Eng} {c : Cmd} {x : Xlat} {bs : List Byte} (htaken : opTaken g.e 0 = true) (hop : cmdOp c = 0)
    (hfields : copyFieldsOk c = true) (hapart : vaMeet (cmdWord c 1) (cmdWord c 3) (cmdWord c 2) (cmdWord c 3) = false)
    (hpieces : piecesOf (cmdWord c 2) (cmdWord c 3) = [(cmdWord c 2, cmdWord c 3)])
    (hnew : engReadAll s g .read (piecesOf (cmdWord c 1) (cmdWord c 3)) [] = (s1, .ok bs))
    (hold : (engReadAll (withStorage s s1) g .read (piecesOf (cmdWord c 1) (cmdWord c 3)) []).2 = .ok bs) (hlen : bs.length = cmdWord c 3)
    (hx : translate s1 (.engine g.e) g.ctx .write (cmdWord c 2 % 2 ^ 64) (cmdWord c 3) = (s2, .ok x)) :
    runCmd s g c = (engPut s2 g x.pa bs, cmdWord c 3, 0, none) := by
  simp [runCmd, hop, htaken, hfields, runCopy, copyRowsOf, hapart, copyRows, hpieces, copyPieces, hnew, hold, engWriteAll_piece hx hlen]

/-- Settles O33: the head command by the event of its operation, its completion by its issuer's count or its record, and the bytes of
FILL and COPY by the one piece that they write. -/
theorem engineCommands : Obligations.EngineCommands := by
  unfold Obligations.EngineCommands
  refine ⟨?head, ?unknown, ?notify, ?count, ?record, ?fill, ?copy⟩
  case head =>
    intro r hr e s c rest he hqueue hop hruns
    obtain ⟨mine, hmine, hexec⟩ := exec_copyRule hr he
    rw [← hop] at hmine
    refine ⟨fun t n f h => ?_, fun t n f k fva fw h => ?_, fun t n f pa h => ?_, fun h => runCmd_of_refused s _ (by simp [h])⟩ <;> rw [hexec]
    · rw [copyEvent_of_done hqueue hmine hruns h]
    · rw [copyEvent_of_status hqueue hmine hruns h]
    · rw [copyEvent_of_poison hqueue hmine hruns h]
  case unknown =>
    intro e s c rest he hqueue hop hruns
    obtain ⟨hmine, htaken⟩ := otherOp_of_ge he hop
    exact congrArg _ (copyEvent_of_status hqueue hmine hruns (runCmd_of_refused s _ (by simp [htaken])))
  case notify =>
    intro s c rest hqueue hop hruns hplain
    show execNotify s = _
    simp [execNotify, hqueue, hop, hruns, hplain]
  case count =>
    intro s u who c r hissuer hres hpacket hrec
    have hw : ((pulse s c.ctx).modW (countedDown c r)).w = countedDown c r s.w := congrArg (countedDown c r) (pulse_w s c.ctx)
    simp only [finishCmd_of_issuer hissuer hres hpacket hrec, hw]
    refine ⟨rfl, fun i => (tgetD_tput ..).trans ?_, fun i => ?_, pulse_mem s c.ctx⟩
    · split
      · next h => rw [h]
      · rfl
    · show tgetD (if r.status ≠ 0 then tput s.w.errors c.eng true else s.w.errors) i false = _
      split
      · next h => rw [tgetD_tput]; split <;> simp_all
      · next h => simp_all
  case record =>
    intro s e c r s1 x hrec hal hissuer hpacket hmem hx hregion
    have hmem1 : s1.memOk := memOk_of_translate (pulse_memOk hmem) hx
    have hlen : (reportBytes r (cmdTag c)).length = 32 := leBytes_length ..
    rw [finishCmd_record hrec hal hissuer hpacket hx hregion, ← hlen, mreadN_mwriteN hmem1]
  case fill =>
    intro s g c s1 x htaken hop hfields hpieces hx hregion hmem
    have hmem1 : s1.memOk := memOk_of_translate hmem hx
    have hpat := leBytes_length 4 (cmdWord c 6)
    have hmul := copyFieldsOk_fill hop hfields
    have hlen := length_replicate_flatten hpat hmul
    refine ⟨_, runCmd_fill htaken hop hfields hpieces hx, fun i hi => ?_, fun a ha => ?_⟩
    · rw [mread_engPut_at hmem1 hregion (by rw [hlen]; exact hi), getD_replicate_flatten hpat (by omega),
        getD_leBytes _ (Nat.mod_lt i (by decide)), Nat.pow_mul]
    · rw [mread_engPut hmem1 hregion, hlen, if_neg ha]
  case copy =>
    intro s g c s1 s2 x bs htaken hop hfields hapart hpieces hnew hold hlen hx hregion hmem2
    refine ⟨_, runCmd_copy htaken hop hfields hapart hpieces hnew hold hlen hx, fun i hi => ?_, fun a ha => ?_⟩
    · exact mread_engPut_at hmem2 hregion (by rw [hlen]; exact hi)
    · rw [mread_engPut hmem2 hregion, hlen, if_neg ha]

end Sys2Proof.Machine
end

section
/-! Logged accesses that deliver nothing (15 R365): what noting one changes, and how one that is performed at its issue ends. -/
namespace Sys2Proof.Machine

/-- A logged instruction without a destination pushes nothing and reserves nothing: the queue that it found is noted. -/
theorem noted_discard (s : State) (op : MemOp) (tr : Bool) : (noted s op .discard false tr).1 =
    s.modW fun w => { w with logQueue := if s.w.handler then w.logQueue else w.queue } := by
  show (if s.w.handler then s else s.modW fun w => { w with logQueue := w.queue }) = _
  split <;> rfl

theorem asNoted_discard (s : State) (op : MemOp) (tr : Bool) : ∃ q, asNoted s op .discard false tr =
    s.modW fun w => { w with logQueue := q, iss := { w.iss with reqs := w.iss.reqs ++ [reqOf s op .discard false tr] } } := by
  rw [asNoted, noted_discard]
  exact ⟨_, rfl⟩

/-- An access that is performed at its issue, and that ends well. -/
theorem issueReq_of_ok {s t : State} {r : Req} (hhold : s.w.iss.hold = false)
    (h : performReq (s.modW fun w => { w with iss := { w.iss with reqs := w.iss.reqs ++ [r] } }) r = .done (.ok t)) :
    issueReq s r = advance t := by
  unfold issueReq
  simp only
  rw [if_neg (by simp [hhold]), h]

theorem logged_of_performed {s t : State} {op : MemOp} {tr : Bool} (hperf : performs s)
    (h : performReq (asNoted s op .discard false tr) (reqOf s op .discard false tr) = .done (.ok t)) :
    logged s op .discard false tr = advance t :=
  issueReq_of_ok (s := (noted s op .discard false tr).1) (by rw [noted_discard]; exact hperf) h

end Sys2Proof.Machine
end

section
/-! WAITMEM (06 R133, R134): the word at its home once the core's own bytes have gone there, and O29. -/
namespace Sys2Proof.Machine

/-- Four or eight bytes that lie in one line. -/
theorem homeFirst_of_line {s : State} {pa n : Nat} (hregion : region pa < 2) (hnt : s.w.ntst = []) (hn : 0 < n) (hline : pa % 128 + n ≤ 128)
    (hone : oneCopy s pa) :
    homeFirst s pa n = mapLines (writeBackPa s s.core s.ctx pa) (Line.staled s.ctx pa n) := by
  have hlines : (pa % 128 + n + 127) / 128 = 1 := by omega
  have hpa : writeBackPa s s.core s.ctx (pa / 128 * 128 + 128 * 0) = writeBackPa s s.core s.ctx pa := by
    unfold writeBackPa
    rw [Nat.mul_zero, Nat.add_zero, Nat.mul_div_cancel _ (by decide)]
  have hnone : performNtRange s pa n = s := by rw [performNtRange_of_dram hregion, performNt_of_nil hnt]
  unfold homeFirst
  simp only [hnone, hlines, if_pos hregion, List.range_one, List.foldl_cons, List.foldl_nil, hpa]
  rw [mapLines, (writeBackPa_onlyStorage hone).core]
  rfl

theorem writeBack_poison (s : State) (l : Line) : ∀ q ∈ (writeBack s l).poison, q ∈ s.poison := by
  obtain ⟨m, hm⟩ := flushFrom_frame s l 0 128
  unfold writeBack
  split
  · exact fun _ h => h
  · rw [hm]
    exact fun q h => (List.mem_filter.mp h).1

/-- A write-back can only clear poison. -/
theorem writeBackPa_poison {s : State} {pa : Nat} (hone : oneCopy s pa) : ∀ q ∈ (writeBackPa s s.core s.ctx pa).poison, q ∈ s.poison := by
  rw [writeBackPa_eq_mapLines hone]
  cases lineHeld s pa with
  | none => exact fun _ h => h
  | some l => exact writeBack_poison s l

/-- Outside the map, poison is a matter of the sectors only. -/
theorem poisoned_of_subset {s t : State} {ctx pa n : Nat} (hregion : region pa < 2) (h : ∀ q ∈ t.poison, q ∈ s.poison)
    (hs : poisoned s ctx pa n = false) : poisoned t ctx pa n = false := by
  have hmap : (region pa != 2) = true := by simp; omega
  simp only [poisoned, hmap, Bool.true_or, Bool.and_true, List.any_eq_false] at hs ⊢
  exact fun q hq => hs q (h q hq)

theorem physRead_eq_map (s : State) (ctx pa n : Nat) : physRead s ctx pa n = (List.range n).map fun i => physByte s ctx (pa + i) := by
  induction n generalizing pa with
  | zero => rfl
  | succ n ih =>
    rw [physRead, ih, List.range_succ_eq_map, List.map_cons, List.map_map]
    exact congrArg _ (List.map_congr_left fun i _ => congrArg _ (Nat.succ_add_eq_add_succ pa i))

section
variable {s : State} {pa n : Nat} (hregion : region pa < 2) (hnt : s.w.ntst = []) (hn : 0 < n) (hline : pa % 128 + n ≤ 128)
  (hone : oneCopy s pa)
include hregion hnt hn hline hone

theorem homeFirst_onlyStorage : onlyStorage s (homeFirst s pa n) := by
  rw [homeFirst_of_line hregion hnt hn hline hone]
  exact (writeBackPa_onlyStorage hone).trans (mapLines_onlyStorage ..)

theorem homeFirst_poison : ∀ q ∈ (homeFirst s pa n).poison, q ∈ s.poison := by
  rw [homeFirst_of_line hregion hnt hn hline hone]
  exact writeBackPa_poison hone

variable (hmem : s.memOk)
include hmem

/-- The home has the core's own bytes. -/
theorem mread_homeFirst {a : Nat} (ha : a / 128 = pa / 128) : mread (homeFirst s pa n).mem a = atHome s a := by
  rw [homeFirst_of_line hregion hnt hn hline hone, mapLines_mem, mread_writeBackPa hone hmem, if_pos ha]

/-- The core reads every byte as before. -/
theorem coreByte_homeFirst (hstep : inStep s pa) (a : Nat) : coreByte (homeFirst s pa n) a = coreByte s a := by
  have hst := writeBackPa_onlyStorage hone
  have hcore := coreByte_writeBackPa hone hmem a
  have hhome (ha : a / 128 = pa / 128) : atHome (writeBackPa s s.core s.ctx pa) a = coreByte s a := by
    rw [atHome_writeBackPa hone ha, mread_writeBackPa hone hmem, if_pos ha, coreByte_eq_atHome hstep ha]
  rw [homeFirst_of_line hregion hnt hn hline hone]
  generalize writeBackPa s s.core s.ctx pa = t at hst hcore hhome
  rw [← hst.ctx, coreByte_mapLines_staled hline (fun ha => by rw [hcore, hhome ha]), hcore]

/-- The bytes of the range at the home, none of which is poisoned. -/
theorem homePiece_homeFirst (hclean : poisoned s s.ctx pa n = false) : ∃ ts,
    homePiece (homeFirst s pa n) pa n = ({ homeFirst s pa n with towers := ts }, .ok ((List.range n).map fun i => atHome s (pa + i))) := by
  have hst := homeFirst_onlyStorage hregion hnt hn hline hone
  have hpoison : poisoned (homeFirst s pa n) (homeFirst s pa n).ctx pa n = false := by
    rw [hst.ctx]
    exact poisoned_of_subset hregion (homeFirst_poison hregion hnt hn hline hone) hclean
  have hbytes : physRead (homeFirst s pa n) (homeFirst s pa n).ctx pa n = (List.range n).map fun i => atHome s (pa + i) := by
    rw [physRead_eq_map]
    refine List.map_congr_left fun i hi => ?_
    have hi : i < n := List.mem_range.mp hi
    have hin : (pa + i) / 128 = pa / 128 := by omega
    rw [physByte_of_dram (region_eq_of_line hin ▸ hregion), mread_homeFirst hregion hnt hn hline hone hmem hin]
  refine ⟨(touch (homeFirst s pa n) (homeFirst s pa n).w.home.cls pa n false).towers, ?_⟩
  rw [homePiece, if_neg (by omega), if_neg (by simp [hpoison]), hbytes, touch_eq]

end

/-! The comparison (06 Table 06-2). -/

theorem signed_toNat {n : Nat} (x : BitVec n) : signed n x.toNat = x.toInt := by
  have hmod : (x.toNat : Int) % 2 ^ n = x.toNat := Int.emod_eq_of_lt (by omega) (by exact_mod_cast x.isLt)
  rw [signed, BitVec.toInt_eq_toNat_cond, Nat.mod_eq_of_lt x.isLt, hmod]
  norm_cast

theorem waitCond_toNat {n : Nat} (x y : BitVec n) :
    waitCond n 0 x.toNat y.toNat = (x == y) ∧ waitCond n 1 x.toNat y.toNat = (x != y) ∧ waitCond n 2 x.toNat y.toNat = y.ule x ∧
    waitCond n 3 x.toNat y.toNat = x.ult y ∧ waitCond n 4 x.toNat y.toNat = y.sle x ∧ waitCond n 5 x.toNat y.toNat = x.slt y := by
  have heq : (x.toNat == y.toNat) = (x == y) := by rw [Bool.eq_iff_iff, beq_iff_eq, beq_iff_eq, BitVec.toNat_inj]
  refine ⟨heq, congrArg (!·) heq, rfl, rfl, ?_, ?_⟩
  · show decide (signed n y.toNat ≤ signed n x.toNat) = _
    rw [signed_toNat, signed_toNat, BitVec.sle]
  · show decide (signed n x.toNat < signed n y.toNat) = _
    rw [signed_toNat, signed_toNat, BitVec.slt]

/-! The instruction, and the event that looks again. -/

theorem waitmemReq_of_performed {s t : State} (hperf : performs s) (v : W64) (w64 acq : Bool) (cond : BitVec 3) (sa : BitVec 5)
    (h : let op := MemOp.waitmem (s.w.sreg sa.toNat) (if w64 then 8 else 4) cond v acq
      doWaitmem (asNoted s op .discard false false) (reqOf s op .discard false false) (s.w.sreg sa.toNat)
        (if w64 then 8 else 4) cond v acq = .ok t) :
    waitmemReq s v w64 acq cond sa = advance t :=
  logged_of_performed hperf (congrArg _ h)

theorem focus_self (s : State) : focus s s.w.id = s := if_pos rfl
theorem getWarp_self (s : State) : getWarp s s.w.id = some s.w := if_pos rfl

section
variable {s s1 : State} {a : W64} {size : Nat} {cond : BitVec 3} {v : W64}

theorem doWaitmem_met (h : pollMem s a size cond v = .met s1) (r : Req) (acq : Bool) :
    doWaitmem s r a size cond v acq = .ok (if acq then genBump s1 s1.core else s1) := by
  rw [doWaitmem, h]

theorem doWaitmem_unmet (h : pollMem s a size cond v = .unmet s1) (r : Req) (acq : Bool) :
    doWaitmem s r a size cond v acq = .ok (s1.modW fun w => { w with wake := .waitmem r (s1.clock + 2048) }) := by
  rw [doWaitmem, h]

variable {r : Req} {again : Nat} {acq : Bool} (hwake : s.w.wake = .waitmem r again) (hop : r.op = .waitmem a size cond v acq)
include hwake hop

theorem exec_recheck_met (h : pollMem s a size cond v = .met s1) :
    exec (.waitmemRecheck s.w.id) s = .next ((if acq then genBump s1 s1.core else s1).modW fun w => { w with wake := .ready }) := by
  show execWaitmemRecheck s.w.id s = _
  simp only [execWaitmemRecheck, getWarp_self, hwake, focus_self, hop, h]

theorem exec_recheck_unmet (h : pollMem s a size cond v = .unmet s1) (hdue : again ≤ s.clock) :
    exec (.waitmemRecheck s.w.id) s = .next (s1.modW fun w => { w with wake := .waitmem r (s1.clock + 2048) }) := by
  show execWaitmemRecheck s.w.id s = _
  simp only [execWaitmemRecheck, getWarp_self, hwake, focus_self, hop, h, if_pos hdue]

end

theorem region_lt_two {pa : Nat} (h : pa / 2 ^ 48 < 2) : region pa < 2 := by
  simp only [region, bitsAt]
  omega

/-- Settles O29: the word is compared as its home has it once the core's own bytes have gone there, and the rest is by the definition. -/
theorem memoryWaits : Obligations.MemoryWaits := by
  unfold Obligations.MemoryWaits
  refine ⟨?issue, ?recheck, ?word, fun n x y => ?cond⟩
  case issue =>
    intro lit sv w64 acq cond sa s n i v a op r _ hperf s1
    have hexec (t : State) (h : doWaitmem (asNoted s op .discard false false) r a n cond v acq = .ok t) : exec i s = .next (advance t) := by
      cases lit with
      | false => exact congrArg _ (waitmemReq_of_performed hperf v w64 acq cond sa h)
      | true => exact congrArg _ (waitmemReq_of_performed hperf v w64 acq cond sa h)
    exact ⟨fun h => hexec _ (doWaitmem_met h r acq), fun h => hexec _ (doWaitmem_unmet h r acq)⟩
  case recheck =>
    intro s r a n cond v acq again s1 hwake hop
    exact ⟨exec_recheck_met hwake hop, exec_recheck_unmet hwake hop⟩
  case word =>
    intro s a n cond v s1 x hsize hmem hx hpa hline hnt hseq hone hstep hclean word
    have hregion := region_lt_two hpa
    have hn : 0 < n := by omega
    have hst := homeFirst_onlyStorage hregion hnt hn hline hone
    obtain ⟨ts, hread⟩ := homePiece_homeFirst hregion hnt hn hline hone hmem hclean
    refine ⟨dropRemotes { homeFirst s1 x.pa n with towers := ts } s1.w.id, ?_, fun i hi => ?_, fun b => ?_, hst.w⟩
    · simp only [pollMem, hx, hread, hst.w]
      rfl
    · exact mread_homeFirst hregion hnt hn hline hone hmem (by omega)
    · refine (seen_of_coreByte (pa := x.pa) (bs := []) hst hseq hnt hregion (by simp; omega) (fun b => ?_) b).trans ?_
      · rw [coreByte_homeFirst hregion hnt hn hline hone hmem hstep, if_neg (by simp)]
      · rw [if_neg (by simp)]
  case cond =>
    obtain ⟨heq, hne, hge, hlt, hsge, hslt⟩ := waitCond_toNat x y
    exact ⟨heq, hne, hge, hlt, fun _ => ⟨hsge, hslt⟩⟩

end Sys2Proof.Machine
end

section
/-! Addresses of lanes (06 R120), as the instructions list them and as the statements say them. -/
namespace Sys2Proof.Machine

theorem getD_perLane {α : Type} (f : Nat → α) (d : α) {l : Nat} (h : l < 128) : (perLane f).getD l d = f l := by
  simp [perLane, List.getD_eq_getElem?_getD, h]

theorem mem_maskLanes {m : Mask} {l : Nat} : l ∈ maskLanes m ↔ l < 128 ∧ hasLane m l = true := by
  simp [maskLanes, List.mem_filter]

/-- A base-form vector source has 32 bits in each lane. -/
theorem Warp.opnd_lt {w : Warp} {ty : Ty} {lit : Option W64} {l : Nat} {x : Src} (h : srcBase false x = true) :
    w.opnd ty false lit l x < 2 ^ 32 := by
  cases x with
  | queue n => exact BitVec.isLt _
  | vec n => exact BitVec.isLt _
  | _ => simp [srcBase] at h

theorem addrVec_eq (s : State) (lit : Option W64) {adr : Src} (h : srcBase false adr = true) (base : BitVec 4) (scale : Nat) :
    addrVec s.w lit adr base scale = perLane (laneAddr s lit adr base scale) := by
  refine List.map_congr_left fun l _ => ?_
  have hlt : s.w.opnd .n32 false none l adr < 2 ^ 32 := Warp.opnd_lt h
  have hext : (srcBits 32 s .n32 none adr l).zeroExtend 64 = BitVec.ofNat 64 (s.w.opnd .n32 false none l adr) := by
    show (BitVec.ofNat 32 (s.w.opnd .n32 false none l adr)).zeroExtend 64 = _
    apply BitVec.eq_of_toNat_eq
    simp
    omega
  rw [laneAddr, hext, ← BitVec.ofNat_mul]

theorem addrPair_eq (s : State) (lit : Option W64) (adr : Src) : addrPair s.w lit adr = perLane (pairAddr s lit adr) := rfl

end Sys2Proof.Machine
end

section
/-! Reads (06 R124, R130, 05 R110): what a read or a prefetch leaves unchanged, what it returns, and O22. -/
namespace Sys2Proof.Machine

/-! Steps that change caches only. -/

/-- Caches, translation caches and free choices may differ, the core's L1 holds at most `n` more lines, and the core reads every byte of
regions 0 and 1 as before. -/
structure CachesOnly (s t : State) (n : Nat) : Prop where
  frame : t = { s with cores := t.cores, towers := t.towers, free := t.free }
  lines : (getCore t t.core).lines.length ≤ (getCore s s.core).lines.length + n
  reads : ∀ a, coreByte t a = coreByte s a

namespace CachesOnly

theorem refl (s : State) : CachesOnly s s 0 := ⟨rfl, Nat.le_refl _, fun _ => rfl⟩

theorem trans {s t u : State} {n m : Nat} (h : CachesOnly s t n) (h' : CachesOnly t u m) : CachesOnly s u (n + m) := by
  obtain ⟨hframe, hlines, hreads⟩ := h
  obtain ⟨hframe', hlines', hreads'⟩ := h'
  exact ⟨by rw [hframe', hframe], by omega, fun a => (hreads' a).trans (hreads a)⟩

theorem mono {s t : State} {n m : Nat} (h : CachesOnly s t n) (hnm : n ≤ m) : CachesOnly s t m :=
  ⟨h.frame, h.lines.trans (Nat.add_le_add_left hnm _), h.reads⟩

/-- L2 slices and free choices are not what a core reads. -/
theorem of_towers (s : State) (ts : Tab Tower) (f : Nat) : CachesOnly s { s with towers := ts, free := f } 0 :=
  ⟨rfl, Nat.le_refl _, fun _ => rfl⟩

section
variable {s t : State} {n : Nat} (h : CachesOnly s t n)
include h

theorem w : t.w = s.w := by rw [h.frame]
theorem mem : t.mem = s.mem := by rw [h.frame]
theorem poison : t.poison = s.poison := by rw [h.frame]

theorem physByte (ctx a : Nat) : physByte t ctx a = Machine.physByte s ctx a := by
  rw [h.frame]
  rfl

theorem poisoned (ctx pa k : Nat) : poisoned t ctx pa k = Machine.poisoned s ctx pa k := by
  rw [h.frame]
  rfl

theorem ctx : t.ctx = s.ctx := congrArg (·.home.ctx) h.w

/-- The warp reads every byte as before. -/
theorem seen (a : Nat) : seen t a = Machine.seen s a := by
  cases hseq : s.w.isSeq with
  | true =>
    have hseq' : t.w.isSeq = true := h.w ▸ hseq
    rw [Machine.seen, Machine.seen, if_pos hseq, if_pos hseq', h.physByte, h.ctx]
  | false =>
    rw [seen_eq_pendingByte hseq, seen_eq_pendingByte (h.w ▸ hseq), h.w, h.reads, h.physByte, h.ctx]

theorem roomFor {m : Nat} (hroom : roomFor s (n + m)) : roomFor t m := by
  have hparts : l1Lines t t.core = l1Lines s s.core := by
    rw [State.core, h.w, h.frame]
    rfl
  have hlines := h.lines
  unfold Machine.roomFor at hroom ⊢
  omega

end

end CachesOnly

theorem l2Access_cachesOnly (s : State) (cls : Nat) (hint : Hint) (line : Nat) (dirty : BitVec 128) :
    CachesOnly s (l2Access s cls hint line dirty) 0 := .of_towers s _ s.free

theorem touch_cachesOnly (s : State) (cls pa n : Nat) (wr : Bool) : CachesOnly s (touch s cls pa n wr) 0 := by
  rw [touch_eq]
  exact .of_towers s _ s.free

/-- A line brought in takes the place of the core's copy, or one place more. -/
theorem length_openLine {s : State} (room : roomFor s 1) (cls : Nat) (hint : Hint) (pa : Nat) :
    (getCore (openLine s s.core s.ctx cls hint pa).1 s.core).lines.length ≤ (getCore s s.core).lines.length + 1 := by
  unfold openLine
  simp only
  split
  · rw [getCore_setCore, if_pos rfl]
    exact Nat.succ_le_succ (List.length_filter_le ..)
  · rw [shrinkL1_of_le _ (by unfold roomFor at room; omega), getCore_setCore, if_pos rfl, getCore_l2Access]
    split <;> simp

theorem openLine_cachesOnly {s : State} (room : roomFor s 1) (cls : Nat) (hint : Hint) (pa : Nat) :
    CachesOnly s (openLine s s.core s.ctx cls hint pa).1 1 := by
  obtain ⟨hst, hmem, hgen, hkey, hfresh, hbytes, hheld, hothers⟩ := openLine_opens room cls hint pa
  have hpoison := openLine_poison room cls hint pa
  have hlength := length_openLine room cls hint pa
  generalize (openLine s s.core s.ctx cls hint pa).1 = t at *
  generalize (openLine s s.core s.ctx cls hint pa).2 = l at *
  refine ⟨?_, by rwa [hst.core], fun a => ?_⟩
  · unfold onlyStorage at hst
    rw [hst, hmem, hpoison]
  · by_cases ha : a / 128 = pa / 128
    · rw [coreByte_of_some (hheld a ha), hgen, if_pos (Line.reads_of_fresh hfresh (Nat.mod_lt a (by decide))), hbytes a ha]
    · rw [coreByte, hothers a ha, hgen, hmem, coreByte]

/-! A read. -/

theorem length_physRead (s : State) (ctx pa n : Nat) : (physRead s ctx pa n).length = n := by
  rw [physRead_eq_map, List.length_map, List.length_range]

theorem length_overNt (w : Warp) (pa : Nat) (bs : List Byte) : (overNt w pa bs).length = bs.length := by simp [overNt]

theorem getD_overNt (w : Warp) (pa : Nat) {bs : List Byte} {i : Nat} (h : i < bs.length) :
    (overNt w pa bs).getD i 0 = (pendingByte w.ntst (pa + i)).getD (bs.getD i 0) := by
  simp [overNt, pendingByte, List.getD_eq_getElem?_getD, h]

theorem readsPoison_of_clean {s : State} {core ctx pa n : Nat} (h : poisoned s ctx pa n = false) : readsPoison s core ctx pa n = false := by
  simp [readsPoison, h]

/-- 06 R124: a read within this device returns what the warp sees, and changes caches only. -/
theorem readPiece_seen {s : State} (hint : Hint) {pa n : Nat} (hregion : region pa < 3) (hclean : poisoned s s.ctx pa n = false)
    (hroom : s.w.isSeq = true ∨ roomFor s 1) : ∃ t bs, readPiece s hint pa n = (t, .ok bs) ∧ bs.length = n ∧
      CachesOnly s t 1 ∧ t.free = s.free ∧ ∀ i < n, pa % 128 + i < 128 → bs.getD i 0 = seen s (pa + i) := by
  have hown : ¬ 3 ≤ region pa := Nat.not_le.mpr hregion
  cases hseq : s.w.isSeq with
  | true =>
    refine ⟨touch s s.w.home.cls pa n false, physRead s s.ctx pa n, ?_, length_physRead .., (touch_cachesOnly ..).mono (by decide),
      touch_free .., fun i hi _ => ?_⟩
    · rw [readPiece, if_pos hseq, homePiece, if_neg hown, if_neg (by simp [hclean])]
    · rw [getD_physRead hi, seen, if_pos hseq]
  | false =>
    have hpiece {t : State} {bs : List Byte} (h : coreLoad s s.core s.ctx s.w.home.cls hint pa n = (t, bs)) (hw : t.w = s.w) :
        readPiece s hint pa n = (t, .ok (overNt s.w pa bs)) := by
      rw [readPiece, if_neg (by simp [hseq]), if_neg hown, readsPoison_of_clean hclean, if_neg (by decide), h, ← hw]
    have hline {i : Nat} (hi : pa % 128 + i < 128) : (pa + i) / 128 = pa / 128 := by omega
    by_cases hdram : region pa < 2
    · have hroom := hroom.resolve_left (by simp [hseq])
      have hopen := openLine_opens hroom s.w.home.cls hint pa
      have hcaches := openLine_cachesOnly hroom s.w.home.cls hint pa
      obtain ⟨⟨t, l⟩, ho⟩ : ∃ o, openLine s s.core s.ctx s.w.home.cls hint pa = o := ⟨_, rfl⟩
      rw [ho] at hopen hcaches
      refine ⟨t, _, hpiece (bs := (List.range n).map fun i => l.bytes.getD (pa % 128 + i) 0) (by rw [coreLoad, if_pos hdram, ho]) hcaches.w,
        by simp [length_overNt], hcaches, (congrArg State.free hopen.storage).trans rfl, fun i hi hin => ?_⟩
      have hmod : pa % 128 + i = (pa + i) % 128 := by omega
      have hbyte : ((List.range n).map fun i => l.bytes.getD (pa % 128 + i) 0).getD i 0 = coreByte s (pa + i) := by
        rw [← hopen.bytes _ (hline hin), ← hmod]
        simp [List.getD_eq_getElem?_getD, hi]
      rw [getD_overNt _ _ (by simpa using hi), hbyte, seen_eq_pendingByte hseq, if_pos (region_eq_of_line (hline hin) ▸ hdram)]
    · refine ⟨s, _, hpiece (bs := physRead s s.ctx pa n) (by rw [coreLoad, if_neg hdram]) rfl, by rw [length_overNt, length_physRead],
        (CachesOnly.refl s).mono (by decide), rfl, fun i hi hin => ?_⟩
      rw [getD_overNt _ _ (by rwa [length_physRead]), getD_physRead hi, seen_eq_pendingByte hseq,
        if_neg (region_eq_of_line (hline hin) ▸ hdram)]

/-- The pieces of a read, one after the other. -/
theorem readPieces_seen (hint : Hint) : ∀ (ps : List (Nat × Nat × Nat)) (s : State) (acc : List (Nat × List Byte)),
    (∀ p ∈ ps, region p.2.1 < 3 ∧ poisoned s s.ctx p.2.1 p.2.2 = false) → s.w.isSeq = true ∨ roomFor s ps.length →
    ∃ t rs, readPieces hint ps s acc false = (t, .ok (acc.reverse ++ rs)) ∧ CachesOnly s t ps.length ∧ t.free = s.free ∧
      rs.map (·.1) = ps.map (·.1) ∧
      ∀ k < ps.length, ∀ i < (ps.getD k (0, 0, 0)).2.2, (ps.getD k (0, 0, 0)).2.1 % 128 + i < 128 →
        (rs.getD k (0, [])).2.getD i 0 = seen s ((ps.getD k (0, 0, 0)).2.1 + i)
  | [], s, acc, _, _ => ⟨s, [], by simp [readPieces], .refl s, rfl, rfl, nofun⟩
  | (l, pa, n) :: ps, s, acc, hps, hroom => by
    obtain ⟨⟨hregion, hclean⟩, hps⟩ := List.forall_mem_cons.mp hps
    have hroom1 : s.w.isSeq = true ∨ roomFor s 1 := hroom.imp_right fun h => by
      simp only [roomFor, List.length_cons] at h ⊢
      omega
    obtain ⟨t, bs, hread, -, hcaches, hfree, hbytes⟩ := readPiece_seen hint hregion hclean hroom1
    have hps' : ∀ p ∈ ps, region p.2.1 < 3 ∧ poisoned t t.ctx p.2.1 p.2.2 = false := fun p hp => by
      rw [hcaches.ctx, hcaches.poisoned]
      exact hps p hp
    have hroom' : t.w.isSeq = true ∨ roomFor t ps.length :=
      hroom.imp (fun h => hcaches.w ▸ h) fun h => hcaches.roomFor (Nat.add_comm .. ▸ h)
    obtain ⟨u, rs, hreads, hcaches', hfree', hkeys, hrest⟩ := readPieces_seen hint ps t ((l, bs) :: acc) hps' hroom'
    refine ⟨u, (l, bs) :: rs, ?_, (hcaches.trans hcaches').mono (Nat.add_comm ..).le, hfree'.trans hfree, by simp [hkeys],
      fun k hk i hi hline => ?_⟩
    · rw [readPieces, hread]
      simpa using hreads
    · cases k with
      | zero => exact hbytes i hi hline
      | succ k => exact (hrest k (Nat.lt_of_succ_lt_succ hk) i hi hline).trans (hcaches.seen _)

theorem onlyCaches_of {s t : State} {n : Nat} (h : CachesOnly s t n) (hfree : t.free = s.free) : onlyCaches s t := by
  refine ⟨?_, h.seen⟩
  rw [h.frame, hfree]

/-! A prefetch. -/

theorem installWalks_engines (s : State) (core group ctx va : Nat) (xs : List (Nat × Nat)) :
    (installWalks s (.core core group) ctx va xs).engines = s.engines := by
  induction xs generalizing s with
  | nil => rfl
  | cons x xs ih =>
    unfold installWalks
    extract_lets tlbs key others level new
    split
    next walks t ht =>
    refine (ih _).trans ?_
    split at ht
    · exact (congrArg (·.2.engines) ht).symm
    · exact (congrArg (·.2.engines) ht).symm

/-- A walk that only looks fills the walk caches, and sets no bit (06 R130). -/
theorem walk_prefetch (s : State) (core group ctx : Nat) (k : Access) (va n : Nat) :
    onlyWalkCaches s (walk s (.core core group) ctx k true va n).1 ∧ (walk s (.core core group) ctx k true va n).1.engines = s.engines := by
  unfold walk
  split
  · exact ⟨.refl s, rfl⟩
  · split
    next levels table _ =>
    extract_lets t
    have ht : onlyWalkCaches s t := touchEntries_onlyWalkCaches s _ _
    have hte : t.engines = s.engines := by
      obtain ⟨ts, h⟩ := touchEntries_frame s (accessCls s (.core core group)) (walkReads _ s va levels table)
      exact (congrArg State.engines h).trans rfl
    split
    · exact ⟨ht, hte⟩
    · next level a e seen hwalk =>
      have hboth := And.intro (ht.trans (installWalks_onlyWalkCaches t (.core core group) ctx va seen))
        ((installWalks_engines t core group ctx va seen).trans hte)
      extract_lets t2 size
      split
      · exact hboth
      · exact hboth

theorem translatePrefetch_walk (s : State) (core group ctx : Nat) (k : Access) (va : Nat) :
    onlyWalkCaches s (translatePrefetch s (.core core group) ctx k va).1 ∧
      (translatePrefetch s (.core core group) ctx k va).1.engines = s.engines := by
  have hwalk := walk_prefetch s core group ctx k va 1
  unfold translatePrefetch
  split
  · exact ⟨.refl s, rfl⟩
  · extract_lets use byWalk
    have hby : onlyWalkCaches s byWalk.1 ∧ byWalk.1.engines = s.engines := by
      unfold byWalk
      split <;> (next h => rwa [h] at hwalk)
    clear_value use byWalk
    split
    · split
      · exact ⟨.refl s, rfl⟩
      · exact hby
    · exact hby

theorem cachesOnly_of_walk {s t : State} (h : onlyWalkCaches s t) (he : t.engines = s.engines) : CachesOnly s t 0 := by
  obtain ⟨hframe, hcore⟩ := h
  have hw : t.core = s.core := by rw [hframe]; rfl
  obtain ⟨x, hx⟩ := hcore s.core
  have hheld (a : Nat) : lineHeld t a = lineHeld s a := by
    rw [lineHeld, hw, hx, hframe]
    rfl
  refine ⟨by rw [hframe, he], by rw [hw, hx]; rfl, fun a => ?_⟩
  rw [coreByte, hheld, hw, hx, hframe]
  rfl

/-- What a prefetch of one address does: nothing where it would fault, else a line brought in (06 R130). -/
def prefetchOne (hint : Hint) (va : W64) (s : State) : State :=
  match translatePrefetch s s.walker s.ctx .read va.toNat with
  | (s, .error _) => s
  | (s, .ok x) =>
    let s := if hint = .keep && region x.pa < 2 then l2Access s s.w.home.cls .keep (x.pa / 128) 0 else s
    if region x.pa < 2 then (openLine s s.core s.ctx s.w.home.cls hint x.pa).1 else s

theorem prefetch_cons (hint : Hint) (va : W64) (vas : List W64) (s : State) :
    prefetch hint (va :: vas) s = prefetch hint vas (prefetchOne hint va s) := by
  obtain ⟨⟨t, r⟩, h⟩ : ∃ o, translatePrefetch s s.walker s.ctx .read va.toNat = o := ⟨_, rfl⟩
  rw [prefetch, prefetchOne, h]
  cases r <;> rfl

/-- The state in which a prefetch brings its line in: with the keep hint the line is in its home slice too (06 R129). -/
def kept (s : State) (hint : Hint) (pa : Nat) : State :=
  if hint = .keep && region pa < 2 then l2Access s s.w.home.cls .keep (pa / 128) 0 else s

theorem kept_cachesOnly (s : State) (hint : Hint) (pa : Nat) : CachesOnly s (kept s hint pa) 0 := by
  unfold kept
  split
  · exact l2Access_cachesOnly ..
  · exact .refl s

/-- The state with the line of an address brought in for the warp in focus. -/
def opened (s : State) (hint : Hint) (pa : Nat) : State := (openLine s s.core s.ctx s.w.home.cls hint pa).1

/-- A prefetch of one address, by what its translation finds. -/
theorem prefetchOne_cases (hint : Hint) (va : W64) (s : State) : ∃ t, CachesOnly s t 0 ∧
    (prefetchOne hint va s = t ∨ ∃ pa, prefetchOne hint va s = opened (kept t hint pa) hint pa) ∧
    ∀ s2 x, translatePrefetch s s.walker s.ctx .read va.toNat = (s2, .ok x) → region x.pa < 2 →
      prefetchOne hint va s = opened (kept t hint x.pa) hint x.pa := by
  obtain ⟨hwalk, he⟩ := translatePrefetch_walk s s.w.coreNo s.w.home.group s.ctx .read va.toNat
  obtain ⟨⟨t, r⟩, h⟩ : ∃ o, translatePrefetch s s.walker s.ctx .read va.toNat = o := ⟨_, rfl⟩
  have ht : CachesOnly s t 0 := by
    have h' : translatePrefetch s (.core s.w.coreNo s.w.home.group) s.ctx .read va.toNat = (t, r) := h
    rw [h'] at hwalk he
    exact cachesOnly_of_walk hwalk he
  have hopen {x : Xlat} (hx : r = .ok x) (hregion : region x.pa < 2) : prefetchOne hint va s = opened (kept t hint x.pa) hint x.pa := by
    simp only [prefetchOne, h, hx, if_pos hregion]
    rfl
  refine ⟨t, ht, ?_, fun s2 x hx hregion => hopen (congrArg Prod.snd (h.symm.trans hx)) hregion⟩
  cases r with
  | error f => exact .inl (by rw [prefetchOne, h])
  | ok x =>
    by_cases hregion : region x.pa < 2
    · exact .inr ⟨x.pa, hopen rfl hregion⟩
    · exact .inl (by simp [prefetchOne, h, hregion])

/-- A line brought in stands in the core's L1, fetched in this generation. -/
theorem opened_line (s : State) (hint : Hint) (pa : Nat) : ∃ k ∈ (getCore (opened s hint pa) s.core).lines,
    k.ctx = s.ctx ∧ k.pa = pa / 128 * 128 ∧ k.gen = (getCore (opened s hint pa) s.core).gen := by
  unfold opened openLine
  simp only
  split
  · next l hl =>
    obtain ⟨hctx, hpa⟩ := l.refresh_key s (getCore s s.core).gen
    obtain ⟨hctx', hpa'⟩ := lineHeld_key hl
    have hfresh := l.refresh_fresh s (getCore s s.core).gen
    simp only [Line.fresh, Bool.and_eq_true, beq_iff_eq] at hfresh
    rw [getCore_setCore, if_pos rfl]
    exact ⟨_, List.mem_cons_self .., hctx.trans hctx', hpa.trans hpa', hfresh.1⟩
  · rw [getCore_setCore, if_pos rfl]
    split
    · exact ⟨_, List.mem_append_right _ (List.mem_singleton_self _), rfl, rfl, rfl⟩
    · exact ⟨_, List.mem_cons_self .., rfl, rfl, rfl⟩

/-! What a prefetch leaves unchanged. -/

theorem evictLine_onlyStorage (s : State) (core : Nat) (l : Line) : onlyStorage s (evictLine s core l) :=
  (writeBack_frame s l).1.trans (setCore_onlyStorage ..)

theorem shrinkL1_onlyStorage (core : Nat) (hint : Hint) (room n : Nat) (s : State) : onlyStorage s (shrinkL1 core hint room n s) := by
  induction n generalizing s with
  | zero => exact .refl s
  | succ n ih =>
    rw [shrinkL1]
    split
    · exact .refl s
    · split
      · exact (evictLine_onlyStorage ..).trans (ih _)
      · exact .refl s

theorem opened_onlyStorage (s : State) (hint : Hint) (pa : Nat) : onlyStorage s (opened s hint pa) := by
  unfold opened openLine
  simp only
  split
  · refine .trans ?_ (setCore_onlyStorage ..)
    split
    · exact .refl s
    · exact l2Access_onlyStorage ..
  · exact (shrinkL1_onlyStorage ..).trans ((l2Access_onlyStorage ..).trans (setCore_onlyStorage ..))

/-- Storage, caches and free choices are all that differs. -/
def onlyStorageAndChoices (s t : State) : Prop :=
  t = { s with cores := t.cores, towers := t.towers, free := t.free, mem := t.mem, poison := t.poison }

theorem onlyStorageAndChoices.trans {s t u : State} (h : onlyStorageAndChoices s t) (h' : onlyStorageAndChoices t u) :
    onlyStorageAndChoices s u := by
  unfold onlyStorageAndChoices at *
  rw [h', h]

theorem onlyStorageAndChoices.of_storage {s t : State} (h : onlyStorage s t) : onlyStorageAndChoices s t := by
  unfold onlyStorage at h
  rw [h]
  rfl

theorem CachesOnly.choices {s t : State} {n : Nat} (h : CachesOnly s t n) : onlyStorageAndChoices s t := by
  rw [h.frame]
  rfl

theorem prefetchOne_frame (hint : Hint) (va : W64) (s : State) : onlyStorageAndChoices s (prefetchOne hint va s) := by
  obtain ⟨t, ht, h | ⟨pa, h⟩, -⟩ := prefetchOne_cases hint va s
  · exact h ▸ ht.choices
  · exact h ▸ ht.choices.trans ((kept_cachesOnly t hint pa).choices.trans (.of_storage (opened_onlyStorage ..)))

theorem prefetch_frame (hint : Hint) : ∀ (vas : List W64) (s : State), onlyStorageAndChoices s (prefetch hint vas s)
  | [], _ => rfl
  | va :: vas, s => prefetch_cons hint va vas s ▸ (prefetchOne_frame hint va s).trans (prefetch_frame hint vas _)

theorem prefetchOne_cachesOnly {s : State} (hroom : roomFor s 1) (hint : Hint) (va : W64) : CachesOnly s (prefetchOne hint va s) 1 := by
  obtain ⟨t, ht, h | ⟨pa, h⟩, -⟩ := prefetchOne_cases hint va s
  · exact h ▸ ht.mono (by decide)
  · have hk := ht.trans (kept_cachesOnly t hint pa)
    exact h ▸ (hk.trans (openLine_cachesOnly (hk.roomFor (by simpa using hroom)) ..)).mono (by decide)

/-- With room for every line, none leaves, and nothing that is read changes. -/
theorem prefetch_cachesOnly (hint : Hint) : ∀ (vas : List W64) {s : State}, roomFor s vas.length →
    CachesOnly s (prefetch hint vas s) vas.length
  | [], s, _ => .refl s
  | va :: vas, s, hroom => by
    have hone : roomFor s 1 := by
      simp only [roomFor, List.length_cons] at hroom ⊢
      omega
    have hcaches := prefetchOne_cachesOnly hone hint va
    rw [prefetch_cons]
    exact (hcaches.trans (prefetch_cachesOnly hint vas (hcaches.roomFor (Nat.add_comm .. ▸ hroom)))).mono (Nat.add_comm ..).le

/-! The instruction. -/

/-- The addresses of PRF, lane by lane (06 R120, R130). -/
def prefetchAddrs (s : State) (lit : Option W64) (adr : Src) (base : BitVec 4) : List W64 :=
  (maskLanes s.lanes).map (laneAddr s lit adr base 1)

theorem exec_prf {lit : Option W64} {adr : Src} {base : BitVec 4} {hint : Hint} {s s1 : State} (hwf : WellFormed (.prf lit adr base hint))
    (hprep : prep s [(adr, 1)] [] = .go s1) :
    exec (.prf lit adr base hint) s = .next (advance (prefetch hint (prefetchAddrs s1 lit adr base) s1)) := by
  have hform : (srcBase false adr && hint != .evictFirst) = true := hwf
  have hadr : srcBase false adr = true := (Bool.and_eq_true_iff.mp hform).1
  have haddrs : (maskLanes s1.lanes).map (fun l => (addrVec s1.w lit adr base 1).getD l 0) = prefetchAddrs s1 lit adr base := by
    rw [addrVec_eq s1 lit hadr]
    exact List.map_congr_left fun l hl => getD_perLane _ _ (mem_maskLanes.mp hl).1
  show execPrf lit adr base hint s = _
  rw [execPrf, hprep, ← haddrs]

/-! The offset of the warp in focus is no part of what it reads. -/

/-- A search by what does not depend on the offset finds the same warp. -/
theorem find?_allWarps_advance (s : State) {P : Warp → Bool} (hP : P (advance s).w = P s.w) :
    (allWarps (advance s)).find? P = (allWarps s).find? P ∨
    (allWarps (advance s)).find? P = some (advance s).w ∧ (allWarps s).find? P = some s.w := by
  cases hw : P s.w with
  | false =>
    refine .inl ?_
    rw [allWarps, allWarps, List.find?_cons_of_neg (by simp [hP, hw]), List.find?_cons_of_neg (by simp [hw])]
    rfl
  | true => exact .inr ⟨List.find?_cons_of_pos (hP.trans hw), List.find?_cons_of_pos hw⟩

theorem mapRead_advance (s : State) (ctx pa : Nat) : mapRead (advance s) ctx pa = mapRead s ctx pa := by
  have hslot (i j : Nat) : warpInSlot (advance s) i j = warpInSlot s i j ∨
      warpInSlot (advance s) i j = some (advance s).w ∧ warpInSlot s i j = some s.w := find?_allWarps_advance s rfl
  have hstream (i j : Nat) : warpAtStream (advance s) i j = warpAtStream s i j ∨
      warpAtStream (advance s) i j = some (advance s).w ∧ warpAtStream s i j = some s.w := find?_allWarps_advance s rfl
  unfold mapRead
  generalize bitsAt pa 44 4 = kind
  match kind with
  | 0 =>
    rcases hslot (bitsAt pa 32 12) (pa % 2 ^ 32 / 0x40000) with h | ⟨h, h'⟩
    · simp only [h]
    · simp only [h, h']
      rfl
  | 1 | 2 | 3 | 4 => rfl
  | _ + 5 =>
    rcases hstream (bitsAt pa 32 12) (pa % 2 ^ 32) with h | ⟨h, h'⟩
    · simp only [h]
    · simp only [h, h']
      rfl

theorem seen_advance (s : State) (a : Nat) : seen (advance s) a = seen s a := by
  have hphys : physByte (advance s) (advance s).ctx a = physByte s s.ctx a := by
    unfold physByte
    rw [mapRead_advance]
    rfl
  unfold seen
  rw [hphys]
  rfl

/-! A line that leaves. -/

theorem mread_evictLine {s : State} (hmem : s.memOk) (core : Nat) (l : Line) (a : Nat) : mread (evictLine s core l).mem a =
    if l.pa ≤ a ∧ a < l.pa + 128 ∧ l.dirty.getLsbD (a - l.pa) = true then l.bytes.getD (a - l.pa) 0 else mread s.mem a :=
  mread_writeBack hmem l a

theorem mem_lines_evictLine (s : State) (core : Nat) (l x : Line) :
    x ∈ (getCore (evictLine s core l) core).lines ↔ x ∈ (getCore s core).lines ∧ ¬ (x.ctx = l.ctx ∧ x.pa = l.pa) := by
  have hcore : getCore (writeBack s l) core = getCore s core := by rw [getCore, (writeBack_frame s l).2, getCore]
  simp only [evictLine, getCore_setCore, if_true, hcore, List.mem_filter, Line.same, Bool.not_eq_true', Bool.and_eq_false_iff,
    beq_eq_false_iff_ne, not_and_or, ne_eq]

/-- Settles O22: reads by the line that they bring in, a prefetch by the lines that it brings in, each address after the other, and a line
that leaves by its write-back. -/
theorem readsReturnWhatIsSeen : Obligations.ReadsReturnWhatIsSeen := by
  unfold Obligations.ReadsReturnWhatIsSeen
  refine ⟨?read, ?reads, ?prefetch, ?evict⟩
  case read =>
    intro s hint pa n hregion hclean hroom
    obtain ⟨t, bs, hread, hlen, hcaches, hfree, hbytes⟩ := readPiece_seen hint hregion hclean hroom
    exact ⟨t, bs, hread, hlen, onlyCaches_of hcaches hfree, hbytes⟩
  case reads =>
    intro s hint ps hps hroom
    obtain ⟨t, rs, hread, hcaches, hfree, hkeys, hbytes⟩ := readPieces_seen hint ps s [] hps hroom
    exact ⟨t, rs, hread, onlyCaches_of hcaches hfree, hkeys, hbytes⟩
  case prefetch =>
    intro lit adr base hint s s1 hwf hprep
    have hframe := prefetch_frame hint (prefetchAddrs s1 lit adr base) s1
    have hw : (prefetch hint (prefetchAddrs s1 lit adr base) s1).w = s1.w := by rw [hframe]
    refine ⟨_, exec_prf hwf hprep, by rw [← hw]; rfl, ?_, fun hroom => ?_, fun l s2 x hlane hx hregion => ?_⟩
    · obtain ⟨cs, ts, f, m, p, h⟩ : ∃ cs ts f m p, prefetch hint (prefetchAddrs s1 lit adr base) s1 =
          { s1 with cores := cs, towers := ts, free := f, mem := m, poison := p } := ⟨_, _, _, _, _, hframe⟩
      rw [h]
      rfl
    · have hcaches := prefetch_cachesOnly hint (prefetchAddrs s1 lit adr base) (by rwa [prefetchAddrs, List.length_map])
      exact ⟨hcaches.mem, hcaches.poison, fun a => (seen_advance ..).trans (hcaches.seen a)⟩
    · obtain ⟨t, ht, -, hopen⟩ := prefetchOne_cases hint (laneAddr s1 lit adr base 1 l) s1
      have hk := ht.trans (kept_cachesOnly t hint x.pa)
      have hcore : (kept t hint x.pa).core = s1.core := congrArg Warp.coreNo hk.w
      have hline := opened_line (kept t hint x.pa) hint x.pa
      rw [hcore, hk.ctx, ← hopen s2 x hx hregion] at hline
      rw [prefetchAddrs, hlane]
      exact hline
  case evict =>
    intro s c l hmem
    exact ⟨evictLine_memOk hmem, mread_evictLine hmem c l, mem_lines_evictLine s c l, evictLine_onlyStorage s c l⟩

end Sys2Proof.Machine
end

section
/-! Stores (06 R124 to R127): the bytes of a lane, the stores of an issue in ascending order of lanes, and O23. -/
namespace Sys2Proof.Machine

/-! The bytes that a store writes. -/

theorem leBytes_eq_map (n x : Nat) : leBytes n x = (List.range n).map fun i => BitVec.ofNat 8 (x / 256 ^ i) := by
  refine List.ext_getElem (by simp) fun i h h' => ?_
  rw [← List.getD_eq_getElem _ 0 h, getD_leBytes x (by simpa using h)]
  simp

theorem ofNat_div_eq_extractLsb' {w : Nat} (x : BitVec w) (i : Nat) : BitVec.ofNat 8 (x.toNat / 256 ^ i) = x.extractLsb' (8 * i) 8 := by
  rw [BitVec.extractLsb', Nat.shiftRight_eq_div_pow, Nat.pow_mul]

/-- A value's bytes, the lowest first. -/
theorem leBytes_toNat {w : Nat} (n : Nat) (x : BitVec w) : leBytes n x.toNat = (List.range n).map fun i => x.extractLsb' (8 * i) 8 := by
  rw [leBytes_eq_map]
  exact List.map_congr_left fun i _ => ofNat_div_eq_extractLsb' x i

/-- Registers put together: each stands 32 bits above the one before. -/
theorem joinBits_words (f : Nat → W32) : ∀ (n j k : Nat), j < n →
    joinBits ((List.range' k n).map fun i => (32, (f i).toNat)) / 2 ^ (32 * j) % 2 ^ 32 = (f (k + j)).toNat
  | n + 1, 0, k, _ => by
    rw [List.range'_succ, List.map_cons, joinBits, Nat.mul_zero, Nat.pow_zero, Nat.div_one, Nat.add_mul_mod_self_left, Nat.mod_mod,
      Nat.mod_eq_of_lt (f k).isLt, Nat.add_zero]
  | n + 1, j + 1, k, h => by
    have hlt := (f k).isLt
    have hrest := joinBits_words f n j (k + 1) (Nat.lt_of_succ_lt_succ h)
    rw [List.range'_succ, List.map_cons, joinBits, Nat.mod_eq_of_lt hlt, Nat.mul_succ, Nat.add_comm (32 * j), Nat.pow_add,
      ← Nat.div_div_eq_div_mul, Nat.add_mul_div_left _ _ (by decide), Nat.div_eq_of_lt hlt, Nat.zero_add, hrest]
    congr 2
    omega

/-- A byte of registers put together is a byte of one of them. -/
theorem ofNat_joinBits_div (f : Nat → W32) {n i : Nat} (h : i < 4 * n) :
    BitVec.ofNat 8 (joinBits ((List.range n).map fun j => (32, (f j).toNat)) / 256 ^ i) = (f (i / 4)).extractLsb' (8 * (i % 4)) 8 := by
  have hword := joinBits_words f n (i / 4) 0 (by omega)
  rw [← List.range_eq_range', Nat.zero_add] at hword
  rw [← ofNat_div_eq_extractLsb', ← hword]
  generalize joinBits _ = x
  have hpow : (256 : Nat) ^ i = 2 ^ (32 * (i / 4)) * 256 ^ (i % 4) := by
    rw [show (256 : Nat) = 2 ^ 8 from rfl, ← Nat.pow_mul, ← Nat.pow_mul, ← Nat.pow_add]
    congr 1
    omega
  rw [hpow, ← Nat.div_div_eq_div_mul]
  generalize x / 2 ^ (32 * (i / 4)) = y
  have hr : i % 4 < 4 := Nat.mod_lt i (by decide)
  generalize i % 4 = r at hr
  apply BitVec.eq_of_toNat_eq
  simp only [BitVec.toNat_ofNat]
  match r, hr with
  | 0, _ | 1, _ | 2, _ | 3, _ => omega

/-- A store names as many registers as it has words, and one that is no named register is a word at most (06 R125). -/
theorem storeOk_data {pair hints elem : Bool} {m : Store} (h : storeOk pair hints elem m = true) :
    srcBase false m.src = true ∧ (sizeBytes m.size ≤ 4 ∨ ∃ n, m.src = .vec n) := by
  simp only [storeOk, Bool.and_eq_true, Bool.or_eq_true, decide_eq_true_eq] at h
  obtain ⟨⟨⟨⟨-, hsrc⟩, -⟩, -⟩, hsize⟩ := h
  refine ⟨hsrc, hsize.imp_right fun h => ?_⟩
  cases hm : m.src with
  | vec n => exact ⟨n, rfl⟩
  | _ => simp [hm, isVec16] at h

theorem sizeBytes_le (z : Size) : sizeBytes z ≤ 4 * sizeRegs z := by cases z <;> decide

/-- What is written in a lane is what the statement of a store writes there (06 R125). -/
theorem leBytes_dataOf {pair hints elem : Bool} {m : Store} (h : storeOk pair hints elem m = true) (s : State) (l : Nat) :
    leBytes (sizeBytes m.size) (dataOf s.w m.src (sizeRegs m.size) l) = storeBytes s m l := by
  obtain ⟨hsrc, hsize⟩ := storeOk_data h
  cases hm : m.src with
  | vec n =>
    rw [leBytes_eq_map, storeBytes, hm]
    refine List.map_congr_left fun i hi => ?_
    have hi : i < 4 * sizeRegs m.size := Nat.lt_of_lt_of_le (List.mem_range.mp hi) (sizeBytes_le m.size)
    exact ofNat_joinBits_div (fun j => (s.w.srcV (n.toNat + j)).lane l) hi
  | queue n =>
    rw [storeBytes, hm]
    refine Eq.trans ?_ (leBytes_toNat _ (srcBits 32 s .b32 none (.queue n) l))
    congr 1
    show s.w.opnd .b32 false none l (.queue n) = (s.w.opnd .b32 false none l (.queue n)) % 2 ^ 32
    rw [Nat.mod_eq_of_lt (Warp.opnd_lt (hm ▸ hsrc))]
  | _ => simp [hm, srcBase] at hsrc

/-! A vector store. -/

/-- The lanes that pass their checks are among those checked. -/
theorem checkLanes_oks {α : Type} {f : State → Nat → State × Except LFault α} : ∀ {ls : List Nat} {s t : State}
    {acc oks : List (Nat × α)} {bad bad' : List (Nat × LFault)}, checkLanes f ls s acc bad = (t, oks, bad') →
    ∀ p ∈ oks, p ∈ acc ∨ p.1 ∈ ls
  | [], s, t, acc, oks, bad, bad', h, p, hp => by
    obtain ⟨-, rfl, -⟩ : s = t ∧ acc.reverse = oks ∧ _ := by simpa [checkLanes] using h
    exact .inl (List.mem_reverse.mp hp)
  | l :: ls, s, t, acc, oks, bad, bad', h, p, hp => by
    rw [checkLanes] at h
    split at h
    · rcases checkLanes_oks h p hp with hacc | hls
      · rcases List.mem_cons.mp hacc with rfl | hacc
        · exact .inr (List.mem_cons_self ..)
        · exact .inl hacc
      · exact .inr (List.mem_cons_of_mem _ hls)
    · exact (checkLanes_oks h p hp).imp_right (List.mem_cons_of_mem _)

theorem asNoted_helpers (s : State) (op : MemOp) (tr : Bool) : (asNoted s op .discard false tr).w.helpers = s.w.helpers := by
  obtain ⟨q, hq⟩ := asNoted_discard s op tr
  rw [hq]
  rfl

theorem reqOf_lanes (s : State) (op : MemOp) (tr : Bool) : (reqOf s op .discard false tr).lanes = s.lanes := by
  show (noted s op .discard false tr).1.lanes = s.lanes
  rw [noted_discard]
  rfl

section
variable {s1 s2 : State} {va : List W64} {n : Nat} {data : List Nat} {hint : Hint} {nt : Bool} {oks : List (Nat × Xlat)}

theorem doStore_of_checked
    (hlanes : laneChecks .write n va (writers s1) (asNoted s1 (.store va n data hint nt) .discard false false) = (s2, oks, [])) :
    doStore (asNoted s1 (.store va n data hint nt) .discard false false) (reqOf s1 (.store va n data hint nt) .discard false false)
        va n data hint nt = .ok (oks.foldl (fun s p =>
      if nt then writeNt s p.2.pa (leBytes n (data.getD p.1 0)) else writePiece s hint p.2.pa (leBytes n (data.getD p.1 0))) s2) := by
  rw [laneChecks, writers] at hlanes
  simp only [doStore, reqOf_lanes, asNoted_helpers, hlanes]

end

section
variable {s s1 : State} {m : Store} {k : Nat} (hprep : prep s [(m.adr, k), (m.src, sizeRegs m.size)] [] = .go s1)
include hprep

theorem storeForm_of_prep (op : Warp → List Nat → MemOp) :
    storeForm m k op s = logged s1 (op s1.w (perLane (dataOf s1.w m.src (sizeRegs m.size)))) .discard false false := by
  rw [storeForm, hprep]

/-- 06 R124: the lanes store one after the other, upwards. -/
theorem storeForm_stores {pair hints elem : Bool} (hform : storeOk pair hints elem m = true) (hperf : performs s1) {hint : Hint} {nt : Bool}
    {op : Warp → List Nat → MemOp} {va : List W64} (hop : ∀ d, op s1.w d = .store va (sizeBytes m.size) d hint nt)
    {s2 : State} {oks : List (Nat × Xlat)} (hlanes : laneChecks .write (sizeBytes m.size) va (writers s1)
      (asNoted s1 (.store va (sizeBytes m.size) (perLane (dataOf s1.w m.src (sizeRegs m.size))) hint nt) .discard false false) = (s2, oks, [])) :
    storeForm m k op s = advance (oks.foldl (fun s p =>
      if nt then writeNt s p.2.pa (storeBytes s1 m p.1) else writePiece s hint p.2.pa (storeBytes s1 m p.1)) s2) := by
  rw [storeForm_of_prep hprep, hop, logged_of_performed hperf (congrArg _ (doStore_of_checked hlanes))]
  refine congrArg advance (List.foldl_ext _ _ s2 fun t p hp => ?_)
  have hl : p.1 < 128 := (mem_maskLanes.mp ((checkLanes_oks hlanes p hp).resolve_left (List.not_mem_nil))).1
  rw [getD_perLane _ _ hl, leBytes_dataOf hform]

end

/-! A uniform store. -/

/-- A scalar as an operand that executes once. -/
theorem opnd_toNat_of_sca (s : State) {x : Src} (h : srcBase true x = true) :
    s.w.opnd .n64 true none 0 x = (onceBits 64 s .n64 none x).toNat ∧
      BitVec.ofNat 64 (s.w.opnd .n64 true none 0 x) = onceBits 64 s .n64 none x := by
  cases x with
  | sca k =>
    refine ⟨?_, rfl⟩
    show (s.w.sreg k.toNat).toNat = (s.w.sreg k.toNat).toNat % 2 ^ 64
    exact (Nat.mod_eq_of_lt (BitVec.isLt _)).symm
  | _ => simp [srcBase] at h

/-! The scratchpad. -/

/-- Stores into a memory, one lane after the other, of the lanes that are within it: the last that holds a byte stands. -/
theorem mread_scratchStores (inside : Nat → Bool) (off : Nat → Nat) (bytes : Nat → List Byte) :
    ∀ (lanes : List Nat) {m : Mem}, m.wf = true →
    (lanes.foldl (fun m l => if inside l then mwriteN m (off l) (bytes l) else m) m).wf = true ∧
    ∀ a, mread (lanes.foldl (fun m l => if inside l then mwriteN m (off l) (bytes l) else m) m) a =
      lastWrite ((lanes.filter inside).map fun l => (off l, bytes l)) a (mread m a)
  | [], _, h => ⟨h, fun _ => rfl⟩
  | l :: ls, m, h => by
    rw [List.foldl_cons, List.filter_cons]
    cases hin : inside l with
    | false => exact mread_scratchStores inside off bytes ls h
    | true =>
      obtain ⟨hwf, hread⟩ := mread_scratchStores inside off bytes ls (mwriteN_wf (off l) (bytes l) h)
      refine ⟨hwf, fun a => (hread a).trans ?_⟩
      rw [mread_mwriteN _ _ h]
      rfl

/-- The scratchpad stores of an issue, upwards (06 R127). -/
def scratchStored (s : State) (lanes : List Nat) (off : List W64) (n : Nat) (data : List Nat) (m : Mem) : Mem :=
  lanes.foldl (fun m l => if inScratch s (off.getD l 0) n then mwriteLE m (off.getD l 0).toNat n (data.getD l 0) else m) m

theorem scratchFaults_of_aligned {lanes : List Nat} {off : List W64} {n : Nat} (h : ∀ l ∈ lanes, (off.getD l 0).toNat % n = 0) :
    scratchFaults lanes off n = [] := by
  rw [scratchFaults, List.map_eq_nil_iff, List.filter_eq_nil_iff]
  exact fun l hl => by simpa using h l hl

section
variable {s : State} {g : Group} {gid : Nat} (hgid : s.w.groupId = some gid) (hget : getGroup s gid = some g)
include hgid

theorem group_setGroup (x : Group) : (setGroup s gid x).group = some x := by
  show s.w.groupId.bind (getGroup (setGroup s gid x)) = _
  rw [hgid]
  exact (getGroup_setGroup ..).trans (if_pos rfl)

include hget

theorem group_of_groupId : s.group = some g := by
  rw [State.group, hgid]
  exact hget

/-- STS performed: the workgroup's scratchpad is written, lane by lane upwards (06 R127). -/
theorem doScratchStore_of_aligned {off : List W64} {n : Nat} {data : List Nat}
    (haligned : ∀ l ∈ maskLanes (writers s), (off.getD l 0).toNat % n = 0) :
    doScratchStore (asNoted s (.scratchStore off n data) .discard false false)
        (reqOf s (.scratchStore off n data) .discard false false) off n data =
      .ok (setGroup (asNoted s (.scratchStore off n data) .discard false false) gid
        { g with mem := scratchStored s (maskLanes (writers s)) off n data g.mem }) := by
  have hlanes : (reqOf s (.scratchStore off n data) .discard false false).lanes &&&
      ~~~ (asNoted s (.scratchStore off n data) .discard false false).w.helpers = writers s := by
    rw [reqOf_lanes, asNoted_helpers]
    rfl
  obtain ⟨q, hq⟩ := asNoted_discard s (.scratchStore off n data) false
  have hgid' : (asNoted s (.scratchStore off n data) .discard false false).w.groupId = some gid := by rw [hq]; exact hgid
  have hget' : getGroup (asNoted s (.scratchStore off n data) .discard false false) gid = some g := by rw [hq]; exact hget
  have hgroup' := group_of_groupId hgid' hget'
  have hsize : scratchSize (asNoted s (.scratchStore off n data) .discard false false) = scratchSize s := by
    rw [scratchSize, scratchSize, hgroup', group_of_groupId hgid hget]
  have hmem : scratchMem (asNoted s (.scratchStore off n data) .discard false false) = g.mem := by rw [scratchMem, hgroup']; rfl
  simp only [doScratchStore, hlanes, scratchFaults_of_aligned haligned, hgid', modGroup, hget', hmem, inScratch, hsize]
  rfl

end

/-- The scratchpad afterwards, byte by byte. -/
theorem mread_scratchStored {s : State} {g : Group} (hgroup : s.group = some g) {pair hints elem : Bool} {m : Store}
    (hform : storeOk pair hints elem m = true) (off : List W64) (hwf : g.mem.wf = true) :
    let n := sizeBytes m.size
    let lanes := maskLanes (writers s)
    let t := scratchStored s lanes off n (perLane (dataOf s.w m.src (sizeRegs m.size))) g.mem
    t.wf = true ∧ ∀ a, mread t a = lastWrite ((lanes.filter fun l => decide ((off.getD l 0).toNat + n ≤ g.scratch * 1024)).map fun l =>
      ((off.getD l 0).toNat, storeBytes s m l)) a (mread g.mem a) := by
  intro n lanes t
  have hsize : scratchSize s = g.scratch * 1024 := by rw [scratchSize, hgroup]; rfl
  have ht : t = lanes.foldl (fun x l => if decide ((off.getD l 0).toNat + n ≤ g.scratch * 1024) then
      mwriteN x (off.getD l 0).toNat (storeBytes s m l) else x) g.mem := by
    refine List.foldl_ext _ _ g.mem fun x l hl => ?_
    rw [inScratch, hsize, getD_perLane _ _ (mem_maskLanes.mp hl).1, mwriteLE, leBytes_dataOf hform]
  rw [ht]
  exact mread_scratchStores _ (fun l => (off.getD l 0).toNat) _ lanes hwf

/-- Settles O23: vector stores lane by lane, STU once, and STS by the memory that its lanes leave. -/
theorem stores : Obligations.Stores := by
  unfold Obligations.Stores
  refine ⟨?vector, ?uniform, ?scratch⟩
  case vector =>
    intro r hr m s s1 s2 oks hwf hprep hperf n va op hlanes
    simp only [storeRules, List.mem_cons, List.not_mem_nil, or_false] at hr
    have hbase {pair hints elem : Bool} (hform : storeOk pair hints elem m = true) (hpair : pair = false) :
        addrVec s1.w m.lit m.adr m.base (sizeBytes m.size) = perLane (laneAddr s1 m.lit m.adr m.base (sizeBytes m.size)) := by
      simp only [storeOk, hpair, Bool.and_eq_true] at hform
      obtain ⟨⟨⟨⟨hadr, -⟩, -⟩, -⟩, -⟩ := hform
      exact addrVec_eq s1 m.lit hadr m.base _
    rcases hr with rfl | rfl | rfl
    · have hform : storeOk false true false m = true := hwf
      exact congrArg _ (storeForm_stores hprep hform hperf (fun d => by rw [hbase hform rfl]) hlanes)
    · have hform : storeOk true true false m = true := hwf
      exact congrArg _ (storeForm_stores hprep hform hperf (fun d => rfl) hlanes)
    · have hform : storeOk false false false m = true := hwf
      have hhint : m.hint = .default := by
        simp only [storeOk, Bool.and_eq_true, Bool.false_or, beq_iff_eq] at hform
        exact hform.1.1.2
      refine congrArg _ (storeForm_stores (hint := m.hint) hprep hform hperf (fun d => ?_) hlanes)
      rw [hbase hform rfl, hhint]
  case uniform =>
    intro m s s2 x hwf hperf n va v hx
    have hform : (uniOk m.adr m.size m.hint && srcBase true m.src) = true := hwf
    simp only [uniOk, Bool.and_eq_true] at hform
    obtain ⟨⟨⟨hadr, -⟩, -⟩, hsrc⟩ := hform
    have haddr : addrUni s.w m.lit m.adr m.base = va := by rw [addrUni, (opnd_toNat_of_sca s hadr).2]
    have hdata : s.w.opnd .n64 true none 0 m.src = v.toNat := (opnd_toNat_of_sca s hsrc).1
    have hdone : doUstore (asNoted s (.ustore va n v.toNat) .discard false false) va n v.toNat =
        .ok (writePiece s2 .default x.pa (leBytes n v.toNat)) := by
      rw [doUstore, hx]
    show execStu m s = _
    rw [execStu, haddr, hdata, ← leBytes_toNat]
    exact congrArg _ (logged_of_performed hperf (congrArg _ hdone))
  case scratch =>
    intro m s s1 g hwf hprep hgroup hperf n off lanes haligned
    have hform : storeOk false false false m = true := hwf
    obtain ⟨gid, hgid, hget⟩ := Option.bind_eq_some_iff.mp hgroup
    have haddr : addrVec s1.w m.lit m.adr m.base n = off := by
      simp only [storeOk, Bool.and_eq_true] at hform
      obtain ⟨⟨⟨⟨hadr, -⟩, -⟩, -⟩, -⟩ := hform
      exact addrVec_eq s1 m.lit hadr m.base _
    have hexec : exec (.sts m) s = .next (advance _) := congrArg _ ((storeForm_of_prep hprep _).trans (by
      rw [haddr]
      exact logged_of_performed hperf (congrArg _ (doScratchStore_of_aligned hgid hget haligned))))
    obtain ⟨q, hq⟩ := asNoted_discard s1 (.scratchStore off n (perLane (dataOf s1.w m.src (sizeRegs m.size)))) false
    rw [hq] at hexec
    exact ⟨_, _, hexec, group_setGroup (s := advance _) hgid _, rfl, rfl, rfl, mread_scratchStored hgroup hform off⟩

end Sys2Proof.Machine
end

section
/-! The checks before a vector instruction's effect (07 R154, R157, R169): what each outcome of `prep` needs, what is left of them in a warp
that has no channels, and O7. -/
namespace Sys2Proof.Machine

section
variable {s : State} {srcs : List (Src × Nat)} {dsts : List (Dst × Nat)}

/-! The outcomes, in the order of the checks. -/

theorem prep_of_regFault {n : Nat} (hlane : s.allLanes ≠ 0)
    (h : regFault s (srcs.flatMap srcRegs) (dsts.flatMap dstRegs) = some n) : prep s srcs dsts = .stop (raise0 s REG_RANGE [n]) := by
  simp only [prep, bne_iff_ne.mpr hlane, if_true, h]

theorem prep_of_transientFault {a : Nat} (hlane : s.allLanes ≠ 0)
    (hreg : regFault s (srcs.flatMap srcRegs) (dsts.flatMap dstRegs) = none) (h : transientFault s.w srcs = some a) :
    prep s srcs dsts = .stop (raise0 s QUEUE_TRANSIENT [a]) := by
  simp only [prep, bne_iff_ne.mpr hlane, if_true, hreg, h]

/-- Past the two faults, ports that are ready let the instruction go on with the head slots that it takes. -/
theorem prep_of_ready (hreg : s.allLanes ≠ 0 → regFault s (srcs.flatMap srcRegs) (dsts.flatMap dstRegs) = none)
    (htr : s.allLanes ≠ 0 → transientFault s.w srcs = none) (hfull : (dsts.flatMap dstRegs).any (portFull s) = false)
    (hempty : emptyPort s (srcs.flatMap srcRegs) = none) : prep s srcs dsts = .go (takeSlots s (srcs.flatMap srcRegs)) := by
  by_cases hlane : s.allLanes = 0
  · simp [prep, hlane, hfull, hempty]
  · simp [prep, hreg hlane, htr hlane, hfull, hempty]

/-! Transient entries. -/

/-- The queue entry of index `n` has age 9 or more and is marked transient (07 R154). -/
def Warp.late (w : Warp) (n : BitVec 4) : Prop := 8 ≤ n.toNat ∧ (w.activeQueue.getD n.toNat ⟨Vec.zero, false⟩).tr = true

theorem transientFault_eq_none {w : Warp} : transientFault w srcs = none ↔ ∀ n k, (Src.queue n, k) ∈ srcs → ¬ w.late n := by
  simp only [transientFault, List.findSome?_eq_none_iff, Warp.late]
  constructor
  · rintro h n k hmem ⟨hage, htr⟩
    have hnone := h _ hmem
    simp only [hage, htr, decide_true, Bool.and_true, if_true, reduceCtorEq] at hnone
  · rintro h ⟨x, k⟩ hmem
    cases x with
    | queue n => simpa using h n k hmem
    | _ => rfl

theorem transientFault_eq_some {w : Warp} {a : Nat} (h : transientFault w srcs = some a) :
    ∃ n k, (Src.queue n, k) ∈ srcs ∧ w.late n ∧ a = n.toNat + 1 := by
  obtain ⟨⟨x, k⟩, hmem, hx⟩ := List.exists_of_findSome?_eq_some h
  cases x with
  | queue n =>
    obtain ⟨hlate, rfl⟩ : w.late n ∧ n.toNat + 1 = a := by simpa [Warp.late] using hx
    exact ⟨n, k, hmem, hlate, rfl⟩
  | _ => cases hx

/-! A warp without channels. -/

section
variable (h : noChannels s)
include h

theorem noChannels.producerChan (n : Nat) : Machine.producerChan s.w n = none := by
  simp [Machine.producerChan, h.1]

theorem noChannels.portFull (n : Nat) : Machine.portFull s n = false := by
  simp [Machine.portFull, h.producerChan]

theorem noChannels.emptyPort (ns : List Nat) : Machine.emptyPort s ns = none := by
  simp [Machine.emptyPort, (h.2 _).1]

theorem noChannels.takeSlots : ∀ ns : List Nat, Machine.takeSlots s ns = s
  | [] => rfl
  | n :: ns => by simpa [Machine.takeSlots, (h.2 n).1] using noChannels.takeSlots ns

/-- Only the allotment forbids a register. -/
theorem noChannels.regFault (srcs dsts : List Nat) : Machine.regFault s srcs dsts = (srcs ++ dsts).find? fun n => s.w.v.length ≤ n := by
  have hmisuse (ns : List Nat) : (ns.find? fun _ => false) = none := List.find?_eq_none.mpr fun _ _ => Bool.false_ne_true
  simp [Machine.regFault, h.producerChan, (h.2 _).1, (h.2 _).2, hmisuse]

theorem noChannels.prep_of_noFault (hreg : s.allLanes ≠ 0 → ∀ n ∈ srcs.flatMap srcRegs ++ dsts.flatMap dstRegs, n < s.w.v.length)
    (hlate : s.allLanes ≠ 0 → ∀ n k, (Src.queue n, k) ∈ srcs → ¬ s.w.late n) : prep s srcs dsts = .go s := by
  have hbeyond (hlane : s.allLanes ≠ 0) : Machine.regFault s (srcs.flatMap srcRegs) (dsts.flatMap dstRegs) = none := by
    rw [h.regFault, List.find?_eq_none]
    exact fun n hn => by simpa using hreg hlane n hn
  rw [prep_of_ready hbeyond (fun hlane => transientFault_eq_none.mpr (hlate hlane)) (by simp [h.portFull]) (h.emptyPort _), h.takeSlots]

end
end

/-- Settles O7: in a warp without channels `prep` looks for a register beyond the allotment, then for a transient entry, then goes on. -/
theorem operandsAreCheckedFirst : Obligations.OperandsAreCheckedFirst := by
  unfold Obligations.OperandsAreCheckedFirst
  intro s srcs dsts h regs late
  refine ⟨fun hnone => ?noLane, fun hlane hbeyond => ?beyond, fun hlane hreg hlate => ?transient, fun hreg hlate => ?go⟩
  case noLane => exact h.prep_of_noFault (fun hlane => absurd hnone hlane) (fun hlane => absurd hnone hlane)
  case beyond =>
    obtain ⟨n, hn⟩ : ∃ n, regs.find? (fun n => s.w.v.length ≤ n) = some n := by
      rw [← Option.isSome_iff_exists, List.find?_isSome]
      simpa using hbeyond
    exact ⟨n, List.mem_of_find?_eq_some hn, by simpa using List.find?_some hn, prep_of_regFault hlane (by rw [h.regFault, hn])⟩
  case transient =>
    have hbeyond : regFault s (srcs.flatMap srcRegs) (dsts.flatMap dstRegs) = none := by
      rw [h.regFault, List.find?_eq_none]
      exact fun n hn => by simpa using hreg n hn
    obtain ⟨a, ha⟩ : ∃ a, transientFault s.w srcs = some a := by
      rw [← Option.ne_none_iff_exists', ne_eq, transientFault_eq_none]
      obtain ⟨n, k, hmem, hlate⟩ := hlate
      exact fun hnone => hnone n k hmem hlate
    obtain ⟨n, k, hmem, hlate, rfl⟩ := transientFault_eq_some ha
    exact ⟨n, k, hmem, hlate, prep_of_transientFault hlane hbeyond ha⟩
  case go => exact h.prep_of_noFault (fun _ => hreg) (fun _ => hlate)

end Sys2Proof.Machine
end

section
/-! Masks (07 R160, 08 R183, R198, R199): what the mask instructions compute, and O4. -/
namespace Sys2Proof.Machine

/-! Masks of tests. -/

theorem mask_ext {m m' : Mask} (h : ∀ l < 128, hasLane m l = hasLane m' l) : m = m' := BitVec.eq_of_getLsbD_eq h

theorem maskOf_congr {p q : Nat → Bool} (h : ∀ l < 128, p l = q l) : maskOf p = maskOf q :=
  mask_ext fun l hl => by rw [hasLane_maskOf p hl, hasLane_maskOf q hl, h l hl]

theorem popBits_eq : ∀ n x : Nat, popBits n x = ((List.range n).filter x.testBit).length
  | 0, _ => rfl
  | n + 1, x => by
    have hhead : x % 2 = if x.testBit 0 then 1 else 0 := by
      rw [Nat.testBit_zero]
      by_cases hx : x % 2 = 1 <;> simp [hx]
      omega
    have hrest : x.testBit ∘ Nat.succ = (x / 2).testBit := funext (Nat.testBit_succ x)
    rw [popBits, popBits_eq n, List.range_succ_eq_map, List.filter_cons, List.filter_map, hhead, hrest]
    split <;> simp [Nat.add_comm]

/-- 08 Table 08-12, MPOP: the lanes whose bit is set are counted. -/
theorem popBits_toNat (m : Mask) : popBits 128 m.toNat = ((List.range 128).filter fun l => m.getLsbD l).length := popBits_eq 128 m.toNat

/-- The first lane that a test selects stands after those that it does not select. -/
theorem find?_range'_getD (p : Nat → Bool) : ∀ n k : Nat,
    ((List.range' k n).find? p).getD (k + n) = k + ((List.range' k n).takeWhile fun l => !p l).length
  | 0, k => rfl
  | n + 1, k => by
    have ih := find?_range'_getD p n (k + 1)
    rw [List.range'_succ, List.find?_cons, List.takeWhile_cons]
    cases hp : p k with
    | true => simp
    | false =>
      rw [show k + (n + 1) = k + 1 + n by omega, ih]
      simp [Nat.add_assoc, Nat.add_comm]

/-- 08 Table 08-12, MFIRST: below the lowest lane no bit is set, and there are 128 lanes below that of an empty mask. -/
theorem lowLane_eq (m : Mask) : lowLane m = ((List.range 128).takeWhile fun l => !m.getLsbD l).length := by
  have h := find?_range'_getD (hasLane m) 128 0
  rw [Nat.zero_add, Nat.zero_add, ← List.range_eq_range'] at h
  exact h

/-! Operands that name no register. -/

/-- The checks see of the sources their registers and queue entries only. -/
theorem prep_congr_srcs {s : State} {srcs srcs' : List (Src × Nat)} (dsts : List (Dst × Nat))
    (hregs : srcs.flatMap srcRegs = srcs'.flatMap srcRegs) (htr : transientFault s.w srcs = transientFault s.w srcs') :
    prep s srcs dsts = prep s srcs' dsts := by
  simp only [prep, hregs, htr]

theorem prep_sources_of_two {s : State} {o : Op} (hc : o.c = .unused) (dsts : List (Dst × Nat)) :
    prep s (sources o) dsts = prep s [(o.a, 1), (o.b, 1)] dsts :=
  prep_congr_srcs dsts (by simp [sources, hc, srcRegs]) (by simp [transientFault, sources, hc, List.findSome?])

theorem prep_sources_of_mask {s : State} {o : Op} {k : BitVec 5} (ha : o.a = .msk k) (hb : o.b = .unused) (hc : o.c = .unused)
    (dsts : List (Dst × Nat)) : prep s (sources o) dsts = prep s [] dsts :=
  prep_congr_srcs dsts (by simp [sources, ha, hb, hc, srcRegs]) (by simp [transientFault, sources, ha, hb, hc, List.findSome?])

/-! What the form of a minor says of its operands (02 R30, R31, R36). -/

section
variable {g : Sig} {ty : Ty} {o : Op} (h : opOk g ty o = true)
include h

/-- A minor with no uniform form has U = 0. -/
theorem opOk_u (hg : g.uni = false) : o.u = false := by
  simp only [opOk, hg, Bool.or_false, Bool.and_eq_true, Bool.not_eq_true'] at h
  exact h.1.1

/-- In either form each slot is what the minor takes there. -/
theorem opOk_slots : (slotExt o.u g.a o.a = true ∨ slotBase o.u g.a o.a = true) ∧
    (slotExt o.u g.b o.b = true ∨ slotBase o.u g.b o.b = true ∨ o.b = .lit ∧ (g.b = .src ∨ g.b = .pair)) ∧
    (slotExt o.u g.c o.c = true ∨ slotBase o.u g.c o.c = true) := by
  simp only [opOk, Bool.and_eq_true] at h
  obtain ⟨-, h⟩ := h
  cases hext : o.ext with
  | true =>
    rw [hext, if_pos rfl] at h
    simp only [Bool.and_eq_true] at h
    obtain ⟨⟨⟨⟨⟨⟨⟨-, ha⟩, hb⟩, hc⟩, -⟩, -⟩, -⟩, -⟩ := h
    exact ⟨.inl ha, .inl hb, .inl hc⟩
  | false =>
    rw [hext, if_neg Bool.false_ne_true] at h
    simp only [Bool.and_eq_true] at h
    obtain ⟨⟨⟨⟨⟨-, ha⟩, hb⟩, hc⟩, -⟩, -⟩ := h
    refine ⟨.inr ha, .inr ?_, .inr hc⟩
    by_cases hlit : o.b = .lit
    · exact .inr ⟨hlit, by simpa [hlit] using hb⟩
    · exact .inl (by simpa [hlit] using hb)

theorem opOk_b_unused (hg : g.b = .no) : o.b = .unused := by
  obtain ⟨-, hb, -⟩ := opOk_slots h
  simpa [hg, slotExt, slotBase] using hb

theorem opOk_c_unused (hg : g.c = .no) : o.c = .unused := by
  obtain ⟨-, -, hc⟩ := opOk_slots h
  simpa [hg, slotExt, slotBase] using hc

theorem opOk_a_mask (hg : g.a = .msk) : ∃ k, o.a = .msk k := by
  obtain ⟨ha, -, -⟩ := opOk_slots h
  cases hoa : o.a with
  | msk k => exact ⟨k, rfl⟩
  | _ => simp [hg, hoa, slotExt, slotBase, isMsk] at ha

/-- Over lanes a mask goes to a mask register. -/
theorem opOk_d_mask (hu : o.u = false) (ha3 : g.a3 = false) (hg : g.d = .msk) : ∃ k, o.d = .msk k := by
  simp only [opOk, Bool.and_eq_true] at h
  obtain ⟨-, h⟩ := h
  have hd : dstExt false .msk o.d = true ∨ dstBase false .msk o.d = true := by
    cases hext : o.ext with
    | true =>
      rw [hext, if_pos rfl, hu, hg] at h
      simp only [Bool.and_eq_true] at h
      obtain ⟨⟨⟨⟨-, hd⟩, -⟩, -⟩, -⟩ := h
      exact .inl hd
    | false =>
      rw [hext, if_neg Bool.false_ne_true, ha3, if_neg Bool.false_ne_true, hu, hg] at h
      simp only [Bool.and_eq_true] at h
      exact .inr h.2
  cases hod : o.d with
  | msk k => exact ⟨k, rfl⟩
  | _ => simp [hod, dstExt, dstBase] at hd

end

/-- The form check of a minor of MASK, which CVT and SCAN alone add to. -/
theorem opOk_of_aluOk_mask {o : Op} {mn : Nat} {g : Sig} (hg : sigOf 2 mn o.mod.toNat = some g)
    (hwf : aluOk ⟨2, mn, o, .i32, 0, false⟩ = true) : opOk g o.ty o = true := by
  simpa [aluOk, hg] using hwf

/-! The instructions. -/

theorem srcBits_bne_zero (s : State) (ty : Ty) (lit : Option W64) (x : Src) (l : Nat) :
    (srcBits 32 s ty lit x l != 0) = (s.w.opnd ty false lit l x % 2 ^ 32 != 0) := by
  rw [Bool.eq_iff_iff, bne_iff_ne, bne_iff_ne, ne_eq, ne_eq, ← BitVec.toNat_inj]
  rfl

/-- No lane raises a flag where the test raises none. -/
theorem foldl_noFlags {α : Type} (f : α → Bool) (acc : Flags) : ∀ xs : List α,
    (xs.map fun x => (f x, (0 : Flags))).foldl (fun acc r => acc ||| r.2) acc = acc
  | [] => rfl
  | x :: xs => by
    rw [List.map_cons, List.foldl_cons, show acc ||| (0 : Flags) = acc from BitVec.or_zero]
    exact foldl_noFlags f acc xs

theorem maskOf_getD_map (f : Nat → Bool) :
    maskOf (fun l => (((List.range 128).map fun l => (f l, (0 : Flags))).getD l (false, 0)).1) = maskOf f :=
  maskOf_congr fun l hl => by simp [hl]

/-- A compare over lanes that raises no flag writes its test of the lanes that issue (08 R183). -/
theorem compare_of_prep {o : Op} {wide : Bool} {p : Nat → Nat → Bool} {s s1 : State} {k : BitVec 5} (hu : o.u = false) (hd : o.d = .msk k)
    (hprep : prep s [(o.a, 1), (o.b, 1)] [] = .go s1) :
    compare o wide (fun a b => (p a b, 0)) s =
      advance (writeMask s1 k.toNat (testLanes s1 fun l => p (s1.w.opnd o.ty false o.lit l o.a) (s1.w.opnd o.ty false o.lit l o.b))) := by
  have hlanes (l : Nat) (b : Bool) : (if hasLane s1.lanes l = true then (b, (0 : Flags)) else (false, 0)) = (hasLane s1.lanes l && b, 0) := by
    cases hasLane s1.lanes l <;> rfl
  simp only [compare, hu, Bool.false_eq_true, if_false, hprep, hd, hlanes, maskOf_getD_map, foldl_noFlags, raiseFlags_zero, testLanes]

/-- A mask delivered to lanes: the checks are those of a destination alone, since a mask names no register. -/
theorem maskToLanes_of_prep {o : Op} {s s1 : State} {k : BitVec 5} (ha : o.a = .msk k) (hprep : prep s [] [(o.d, 1)] = .go s1)
    {g : Mask → Nat → Nat} {f : Mask → Nat → W32} (hg : ∀ m l, BitVec.ofNat 32 (g m l) = f m l) :
    maskToLanes o g s = advance (putResult s1 o.d o.tr [overLanes s1 fun l => f (maskSrc s1 o.a) l]) := by
  simp only [maskToLanes, hprep, ha, hg, maskSrc, overLanes]

/-! Mask registers as pairs of scalars (07 R160). -/

theorem Warp.mreg_eq (w : Warp) (k : Nat) :
    w.mreg k = (w.sreg (2 * k)).zeroExtend 128 ||| (w.sreg (2 * k + 1)).zeroExtend 128 <<< 64 := by
  have hlo := (w.sreg (2 * k)).isLt
  have hhi := (w.sreg (2 * k + 1)).isLt
  apply BitVec.eq_of_toNat_eq
  rw [Warp.mreg, BitVec.toNat_or, BitVec.toNat_shiftLeft, Nat.lor_comm]
  simp only [BitVec.truncate_eq_setWidth, BitVec.toNat_setWidth, BitVec.toNat_ofNat]
  rw [Nat.mod_eq_of_lt (a := (w.sreg (2 * k)).toNat) (by omega), Nat.mod_eq_of_lt (a := (w.sreg (2 * k + 1)).toNat) (by omega),
    Nat.mod_eq_of_lt (a := _ <<< _) (by rw [Nat.shiftLeft_eq]; omega), ← Nat.shiftLeft_add_eq_or_of_lt hlo, Nat.shiftLeft_eq]
  omega

theorem Warp.extract_mreg (w : Warp) (k : Nat) :
    (w.mreg k).extractLsb' 0 64 = w.sreg (2 * k) ∧ (w.mreg k).extractLsb' 64 64 = w.sreg (2 * k + 1) := by
  have hlo := (w.sreg (2 * k)).isLt
  have hhi := (w.sreg (2 * k + 1)).isLt
  constructor <;> apply BitVec.eq_of_toNat_eq
  · rw [BitVec.extractLsb'_toNat, Warp.mreg, BitVec.toNat_ofNat, Nat.shiftRight_zero]
    omega
  · rw [BitVec.extractLsb'_toNat, Warp.mreg, BitVec.toNat_ofNat, Nat.shiftRight_eq_div_pow]
    omega

/-- A scalar written, or left where a condition holds. -/
theorem setS_unless (s : State) (n : Nat) (x : W64) {c : Prop} [Decidable c] {t : State} (ht : (if c then s else setS s n x) = t) :
    t.w.iss = s.w.iss ∧ t.mem = s.mem ∧ ∀ m, t.w.sreg m = if m = n ∧ ¬ c then x else s.w.sreg m := by
  subst ht
  by_cases h : c
  · simp [h]
  · simp only [h, if_false, not_false_eq_true, and_true]
    exact ⟨rfl, rfl, fun m => Warp.sreg_setS ..⟩

/-- MLIT writes a literal into one scalar of a pair or both (08 R199). -/
theorem exec_mlit (lit : W64) (half : BitVec 2) (d : BitVec 5) (s : State) : ∃ t, exec (.mlit lit half d) s = .next t ∧
    t.w.o = s.w.iss.next ∧ t.mem = s.mem ∧
    (∀ n, n ≠ 2 * d.toNat → n ≠ 2 * d.toNat + 1 → t.w.sreg n = s.w.sreg n) ∧
    t.w.sreg (2 * d.toNat) = (if half = 1 then s.w.sreg (2 * d.toNat) else lit) ∧
    t.w.sreg (2 * d.toNat + 1) = (if half = 0 then s.w.sreg (2 * d.toNat + 1) else lit) := by
  obtain ⟨s1, h1⟩ : ∃ s1, (if half = 1 then s else setS s (2 * d.toNat) lit) = s1 := ⟨_, rfl⟩
  obtain ⟨s2, h2⟩ : ∃ s2, (if half = 0 then s1 else setS s1 (2 * d.toNat + 1) lit) = s2 := ⟨_, rfl⟩
  have hexec : exec (.mlit lit half d) s = .next (advance s2) := by
    show execMlit lit half d s = _
    rw [execMlit, h1, ← h2]
  obtain ⟨hiss1, hmem1, hs1⟩ := setS_unless s _ lit h1
  obtain ⟨hiss2, hmem2, hs2⟩ := setS_unless s1 _ lit h2
  have hsreg (n : Nat) : (advance s2).w.sreg n = s2.w.sreg n := rfl
  refine ⟨advance s2, hexec, congrArg Issue.next (hiss2.trans hiss1), hmem2.trans hmem1, fun n hlo hhi => ?_, ?_, ?_⟩ <;>
    rw [hsreg, hs2, hs1]
  · rw [if_neg (fun h => hhi h.1), if_neg (fun h => hlo h.1)]
  · rw [if_neg (fun h => absurd h.1 (by omega))]
    by_cases h : half = 1 <;> simp [h]
  · rw [if_neg (c := _ = 2 * d.toNat ∧ _) (fun h => absurd h.1 (by omega))]
    by_cases h : half = 0 <;> simp [h]

/-- A mask written by the first plane of an offset that writes it (08 R183). -/
theorem writeMask_first {s : State} (h : s.w.iss.masks = []) (k : Nat) (m : Mask) :
    (writeMask s k m).w.s = (s.w.setM k (m &&& s.lanes)).s := by
  have hnone : (0 : Mask) &&& ~~~ s.lanes = 0 := BitVec.zero_and
  simp only [writeMask, h, List.find?_nil, Option.map_none, Option.getD_none, hnone, show ∀ x : Mask, x ||| 0 = x from fun _ => BitVec.or_zero]
  rfl

theorem Warp.sreg_setM_of_ne (w : Warp) {k n : Nat} (m : Mask) (hlo : n ≠ 2 * k) (hhi : n ≠ 2 * k + 1) : (w.setM k m).sreg n = w.sreg n := by
  rw [Warp.sreg_setM, if_neg hlo, if_neg hhi]

/-- Settles O4: each minor by its own lemma above; the rest is what a mask register is as a pair of scalars. -/
theorem maskRegisters : Obligations.MaskRegisters := by
  unfold Obligations.MaskRegisters
  refine ⟨?mset, ?ops, ?toLanes, ?mlit, ?pair, ?test⟩
  case mset =>
    intro o s s1 hwf hprep
    have hok := opOk_of_aluOk_mask (o := o) (mn := 0) (g := maskOp .src .no .msk) rfl hwf
    have hu := opOk_u hok rfl
    obtain ⟨k, hd⟩ := opOk_d_mask hok hu rfl rfl
    rw [prep_sources_of_two (opOk_c_unused hok rfl)] at hprep
    refine congrArg _ ((compare_of_prep (p := fun a _ => a % 2 ^ 32 != 0) hu hd hprep).trans ?_)
    simp only [putTest, hd, srcBits_bne_zero]
  case ops =>
    intro r hr o k s _ hd
    simp only [maskRules, List.mem_cons, List.not_mem_nil, or_false] at hr
    have hexec (g : Mask → Mask → Mask) : maskOp2 o g s = advance (setM s k.toNat (g (maskSrc s o.a) (maskSrc s o.b))) := by
      rw [maskOp2, hd]
      rfl
    rcases hr with rfl | rfl | rfl | rfl | rfl <;> exact congrArg _ (hexec _)
  case toLanes =>
    intro r hr o s s1 hwf hprep
    have hform {mn : Nat} (hg : sigOf 2 mn o.mod.toNat = some (maskOp .msk .no .vec)) (hwf : aluOk ⟨2, mn, o, .i32, 0, false⟩ = true) :
        ∃ k, o.a = .msk k ∧ prep s [] [(o.d, 1)] = .go s1 := by
      have hok := opOk_of_aluOk_mask hg hwf
      obtain ⟨k, ha⟩ := opOk_a_mask hok rfl
      rw [prep_sources_of_mask ha (opOk_b_unused hok rfl) (opOk_c_unused hok rfl)] at hprep
      exact ⟨k, ha, hprep⟩
    simp only [maskToLaneRules, List.mem_cons, List.not_mem_nil, or_false] at hr
    rcases hr with rfl | rfl | rfl
    · obtain ⟨k, ha, hprep⟩ := hform (mn := 1) rfl hwf
      exact congrArg _ (maskToLanes_of_prep ha hprep fun m l => apply_ite _ _ _ _)
    · obtain ⟨k, ha, hprep⟩ := hform (mn := 7) rfl hwf
      exact congrArg _ (maskToLanes_of_prep ha hprep fun m _ => congrArg _ (popBits_toNat m))
    · obtain ⟨k, ha, hprep⟩ := hform (mn := 8) rfl hwf
      exact congrArg _ (maskToLanes_of_prep ha hprep fun m _ => congrArg _ (lowLane_eq m))
  case mlit =>
    intro lit half d s _
    obtain ⟨t, hexec, ho, hmem, hother, hlo, hhi⟩ := exec_mlit lit half d s
    refine ⟨t, hexec, ho, ?_, hother, hmem⟩
    obtain ⟨hlow, hhigh⟩ := s.w.extract_mreg d.toNat
    rw [t.w.mreg_eq, hlo, hhi, hlow, hhigh]
  case pair =>
    intro s k m
    refine ⟨Warp.mreg_setM .., ?_, ?_, fun n hlo hhi => Warp.sreg_setM_of_ne _ m hlo hhi⟩
    · exact (Warp.sreg_setM ..).trans (if_pos rfl)
    · exact (Warp.sreg_setM ..).trans ((if_neg (by omega)).trans (if_pos rfl))
  case test =>
    intro s k m hfirst
    have hs (n : Nat) : (writeMask s k m).w.sreg n = (s.w.setM k (m &&& s.lanes)).sreg n :=
      congrArg (fun x : List W64 => x.getD n 0) (writeMask_first hfirst k m)
    refine ⟨?_, fun n hlo hhi => (hs n).trans (Warp.sreg_setM_of_ne _ _ hlo hhi)⟩
    rw [← Warp.mreg_setM s.w k (m &&& s.lanes), Warp.mreg, Warp.mreg, hs, hs]

end Sys2Proof.Machine
end

section
/-! Special registers (07 Table 07-1, R163 to R165): what SRD reads and SWR writes, and O17. -/
namespace Sys2Proof.Machine

/-! SRD: one scalar, or the pair of a register of 128 bits read whole. -/

theorem exec_srd_whole {n : BitVec 5} (h : specialWide n.toNat = false) (sd : BitVec 6) (s : State) :
    exec (.srd 0 n sd) s = .next (advance (setS s sd.toNat (BitVec.ofNat 64 (readSpecial s n.toNat)))) := by
  show execSrd 0 n sd s = _
  simp [execSrd, h]

theorem exec_srd_pair {n : BitVec 5} (h : specialWide n.toNat = true) (sd : BitVec 6) (s : State) :
    exec (.srd 0 n sd) s = .next (advance (setS (setS s sd.toNat (BitVec.ofNat 64 (readSpecial s n.toNat))) (sd.toNat + 1)
      (BitVec.ofNat 64 (readSpecial s n.toNat / 2 ^ 64)))) := by
  show execSrd 0 n sd s = _
  simp [execSrd, h]

theorem exec_srd_low (n : BitVec 5) (sd : BitVec 6) (s : State) :
    exec (.srd 1 n sd) s = .next (advance (setS s sd.toNat (BitVec.ofNat 64 (readSpecial s n.toNat)))) := rfl

theorem exec_srd_high (n : BitVec 5) (sd : BitVec 6) (s : State) :
    exec (.srd 2 n sd) s = .next (advance (setS s sd.toNat (BitVec.ofNat 64 (readSpecial s n.toNat / 2 ^ 64)))) := rfl

theorem ofNat_toNat_low (m : Mask) : BitVec.ofNat 64 m.toNat = m.extractLsb' 0 64 := rfl
theorem ofNat_toNat_high (m : Mask) : BitVec.ofNat 64 (m.toNat / 2 ^ 64) = m.extractLsb' 64 64 := by
  rw [BitVec.extractLsb', Nat.shiftRight_eq_div_pow]

/-! The values of Table 07-1. -/

theorem ofNat_toNat_word (x : W64) : BitVec.ofNat 64 x.toNat = x := by rw [BitVec.ofNat_toNat, BitVec.setWidth_eq]

theorem ofNat_mod_word (n : Nat) : BitVec.ofNat 64 (n % 2 ^ 64) = BitVec.ofNat 64 n := by
  apply BitVec.eq_of_toNat_eq
  simp

theorem ofNat_slotWord (s : State) : BitVec.ofNat 64 (joinBits [(4, s.w.home.index), (6, s.w.home.slot)]) =
    BitVec.ofNat 64 (s.w.home.index % 16 + 16 * (s.w.home.slot % 64)) := rfl

theorem ofNat_modeWord : ∀ (rm : BitVec 3) (ftz : Bool),
    BitVec.ofNat 64 (joinBits [(3, rm.toNat), (1, ftz.toNat)]) = rm.zeroExtend 64 ||| (if ftz then 8 else 0) := by decide

theorem toNat_append_add {n m : Nat} (x : BitVec n) (y : BitVec m) : (x ++ y).toNat = 2 ^ m * x.toNat + y.toNat := by
  rw [BitVec.toNat_append, ← Nat.shiftLeft_add_eq_or_of_lt y.isLt, Nat.shiftLeft_eq, Nat.mul_comm]

theorem ofNat_seedWord (a b c d : BitVec 16) :
    BitVec.ofNat 64 (joinBits [(16, a.toNat), (16, b.toNat), (16, c.toNat), (16, d.toNat)]) = d ++ c ++ b ++ a := by
  apply BitVec.eq_of_toNat_eq
  simp only [toNat_append_add, BitVec.toNat_ofNat, joinBits]
  omega

theorem ofNat_leaseWord (l : Lease) : BitVec.ofNat 64 (leaseWord l) =
    if unitsLeft l = 0 then 0
    else BitVec.ofNat 64 (unitsLeft l % 2048 + 2048 * (l.level % 4) + 8192 * (if l.paused then 1 else 0)) := by
  have hleft : l.left = unitsLeft l := rfl
  rw [leaseWord, hleft]
  by_cases h : unitsLeft l = 0
  · simp [h, joinBits]
  · simp only [h, if_false, joinBits]
    cases l.paused <;> exact congrArg (BitVec.ofNat 64) (by simp [Nat.mul_add, Nat.add_assoc])

theorem ofNat_setCounter (s : State) (f : Cluster → W32) : BitVec.ofNat 64 (setCounter s f) =
    if (getCluster s s.w.cluster).owner = some s.ctx then (f (getCluster s s.w.cluster)).zeroExtend 64 else 0 := by
  rw [setCounter]
  by_cases h : (getCluster s s.w.cluster).owner = some s.ctx <;> simp [h]

theorem ofNat_readSpecial : ∀ r ∈ specialReads, ∀ s, BitVec.ofNat 64 (readSpecial s r.1.toNat) = r.2 s := by
  simp only [specialReads, List.forall_mem_cons, List.not_mem_nil, IsEmpty.forall_iff, implies_true, and_true]
  exact ⟨fun s => BitVec.ofNat_toNat .., ofNat_slotWord, fun _ => rfl, fun _ => rfl, fun _ => rfl, fun s => BitVec.ofNat_toNat ..,
    fun s => ofNat_modeWord .., fun _ => rfl, fun s => ofNat_seedWord .., fun s => BitVec.ofNat_toNat .., fun s => ofNat_toNat_word _,
    fun s => ofNat_toNat_word _, fun s => ofNat_toNat_word _, fun s => ofNat_setCounter .., fun s => ofNat_setCounter ..,
    fun s => BitVec.ofNat_toNat .., fun s => ofNat_mod_word _, fun s => BitVec.ofNat_toNat .., fun s => ofNat_leaseWord _⟩

/-- Lanes and planes read zero in a sequencer (07 R164, 09 R205). -/
theorem readSpecial_of_seq {s : State} (h : s.w.isSeq = true) : ∀ r ∈ [(0 : BitVec 5), 3, 4, 15], readSpecial s r.toNat = 0 := by
  simp [readSpecial, h]

/-- %wid and %lane in a warp that is in no handler: those of the lowest lane of %exec, where there is one (07 R164). -/
theorem exec_srd_lane {s : State} (hseq : s.w.isSeq = false) (hhandler : s.w.handler = false) (sd : BitVec 6) :
    exec (.srd 0 1 sd) s =
      .next (advance (setS s sd.toNat (s.w.wid + BitVec.ofNat 64 (if s.w.exec = 0 then 0 else lowLane s.w.exec)))) ∧
    exec (.srd 0 3 sd) s = .next (advance (setS s sd.toNat (BitVec.ofNat 64 (lowLane s.w.exec)))) := by
  have hmask : s.w.readMask = s.w.exec := by rw [Warp.readMask, hhandler, if_neg Bool.false_ne_true]
  have hread : readSpecial s 1 = s.w.wid.toNat + (if s.w.exec = 0 then 0 else lowLane s.w.exec) ∧ readSpecial s 3 = lowLane s.w.exec := by
    simp only [readSpecial, hseq, hmask, Bool.false_or, decide_eq_true_eq, Bool.false_eq_true, if_false, and_self]
  obtain ⟨hwid, hlane⟩ := hread
  rw [exec_srd_whole (n := 1) rfl, exec_srd_whole (n := 3) rfl]
  show Host.Outcome.next (advance (setS s sd.toNat (BitVec.ofNat 64 (readSpecial s 1)))) = _ ∧
    Host.Outcome.next (advance (setS s sd.toNat (BitVec.ofNat 64 (readSpecial s 3)))) = _
  rw [hwid, hlane, BitVec.ofNat_add, ofNat_toNat_word]
  exact ⟨rfl, rfl⟩

theorem lowLane_of_isLowest {m : Mask} {l : Nat} (h : isLowest m l) (hl : l < 128) : lowLane m = l := by
  obtain ⟨hset, hbelow⟩ := h
  have hfind : (List.range 128).find? (hasLane m) = some l := by
    rw [List.find?_range_eq_some]
    exact ⟨hset, List.mem_range.mpr hl, fun i hi => by simpa [hasLane] using hbelow i hi⟩
  rw [lowLane, hfind, Option.getD_some]

theorem lowLane_zero : lowLane 0 = 128 := by decide

/-! SWR. -/

theorem exec_swr_word {n : BitVec 5} (h : specialWide n.toNat = false) (ss : BitVec 6) (s : State) :
    exec (.swr 0 n ss) s = .next (advance (writeSpecial s n.toNat 0 (s.w.sreg ss.toNat).toNat)) := by
  show execSwr 0 n ss s = _
  simp [execSwr, h]

/-- The fields of %fpmode in what is written (04 Table 04-9). -/
theorem modeFields (x : W64) : (x.toNat % 8 < 5 ↔ x.extractLsb' 0 3 < 5) ∧ BitVec.ofNat 3 x.toNat = x.extractLsb' 0 3 ∧
    (bitsAt x.toNat 3 1 == 1) = x.getLsbD 3 := by
  refine ⟨?_, rfl, ?_⟩
  · rw [BitVec.lt_def, BitVec.extractLsb'_toNat]
    rfl
  · rw [BitVec.getLsbD, Nat.testBit_eq_decide_div_mod_eq]
    rfl

theorem writeSpecial_of_mem : ∀ r ∈ specialWrites, ∀ s (x : W64), writeSpecial s r.1.toNat 0 x.toNat = { s with w := r.2 s.w x } := by
  simp only [specialWrites, List.forall_mem_cons, List.not_mem_nil, IsEmpty.forall_iff, implies_true, and_true]
  refine ⟨fun s x => rfl, fun s x => ?mode, fun s x => ?link, fun s x => rfl⟩
  case mode =>
    obtain ⟨hlt, hrm, hftz⟩ := modeFields x
    have hwrite : writeSpecial s 10 0 x.toNat = s.modW fun w => { w with fp := { w.fp with
      rm := if x.toNat % 8 < 5 then BitVec.ofNat 3 x.toNat else w.fp.rm, ftz := bitsAt x.toNat 3 1 == 1 } } := rfl
    simp only [hlt, hrm, hftz] at hwrite
    exact hwrite
  case link =>
    have hwrite : writeSpecial s 16 0 x.toNat = s.modW fun w => { w with link := BitVec.ofNat 64 x.toNat } := rfl
    rw [ofNat_toNat_word] at hwrite
    exact hwrite

/-- A register that is RO, or a reserved number, ignores a write (07 R163). -/
theorem writeSpecial_of_readOnly {n : BitVec 5} (h : n ∉ [(0 : BitVec 5), 9, 10, 16, 22]) (s : State) (half : BitVec 2) (x : Nat) :
    writeSpecial s n.toNat half x = s := by
  have hne (k : Nat) (hk : BitVec.ofNat 5 k ∈ [(0 : BitVec 5), 9, 10, 16, 22]) : n.toNat ≠ k := fun he => h (by
    rw [← he, BitVec.ofNat_toNat, BitVec.setWidth_eq] at hk
    exact hk)
  rw [writeSpecial]
  split
  case h_1 he => exact absurd he (hne 0 (by decide))
  case h_2 he => exact absurd he (hne 9 (by decide))
  case h_3 he => exact absurd he (hne 10 (by decide))
  case h_4 he => exact absurd he (hne 16 (by decide))
  case h_5 he => exact absurd he (hne 22 (by decide))
  case h_6 => rfl

theorem putHalves_whole (old : Mask) (lo hi : W64) : putHalves old 0 (lo.toNat + 2 ^ 64 * hi.toNat) = hi ++ lo := by
  have hput (x : Nat) : putHalves old 0 x = BitVec.ofNat 128 x := rfl
  have hlo := lo.isLt
  have hhi := hi.isLt
  apply BitVec.eq_of_toNat_eq
  rw [hput, toNat_append_add, BitVec.toNat_ofNat]
  omega

theorem putHalves_low (old : Mask) (x : W64) : putHalves old 1 x.toNat = old.extractLsb' 64 64 ++ x := by
  have hput (x : Nat) : putHalves old 1 x = BitVec.ofNat 128 (old.toNat / 2 ^ 64 * 2 ^ 64 + x % 2 ^ 64) := rfl
  have hx := x.isLt
  have hold := old.isLt
  apply BitVec.eq_of_toNat_eq
  rw [hput, toNat_append_add, BitVec.toNat_ofNat, BitVec.extractLsb'_toNat, Nat.shiftRight_eq_div_pow]
  omega

theorem putHalves_high (old : Mask) (x : W64) : putHalves old 2 x.toNat = x ++ old.extractLsb' 0 64 := by
  have hput (x : Nat) : putHalves old 2 x = BitVec.ofNat 128 (old.toNat % 2 ^ 64 + x % 2 ^ 64 * 2 ^ 64) := rfl
  have hx := x.isLt
  apply BitVec.eq_of_toNat_eq
  rw [hput, toNat_append_add, BitVec.toNat_ofNat, BitVec.extractLsb'_toNat, Nat.shiftRight_zero]
  omega

/-- The operand of SWR from a scalar: of a whole write of %exec, a pair (07 R165). -/
theorem exec_swr_exec (ss : BitVec 6) (s : State) :
    exec (.swr 0 0 ss) s =
      .next (advance (s.modW fun w => writeExec w 0 ((s.w.sreg ss.toNat).toNat + 2 ^ 64 * (s.w.sreg (ss.toNat + 1)).toNat))) := rfl

theorem writeExec_of_warp {w : Warp} (hseq : w.isSeq = false) (hhandler : w.handler = false) (half : BitVec 2) (x : Nat) :
    writeExec w half x = { w with exec := putHalves w.exec half x &&& ~~~ w.exited } := by
  simp only [writeExec, hseq, hhandler, Bool.false_eq_true, if_false, Warp.gate]

theorem writeExec_of_handler {w : Warp} (hseq : w.isSeq = false) (hhandler : w.handler = true) (half : BitVec 2) (x : Nat) :
    (writeExec w half x).exec = w.exec ∧ (writeExec w half x).trapExec = putHalves w.trapExec half x &&& ~~~ w.exited := by
  simp only [writeExec, hseq, hhandler, Bool.false_eq_true, if_false, if_true, Warp.gate, and_self]

/-- Settles O17: each register is read and written as its row of Table 07-1 says. -/
theorem specialRegistersRead : Obligations.SpecialRegistersRead := by
  unfold Obligations.SpecialRegistersRead
  refine ⟨⟨?table, ?masks, ?lowest, ?noLane, ?plane, ?seqRead⟩, ?writable, ?readOnly, ?exec, ?handlerExec⟩
  case table =>
    intro r hr sd s
    have hword : ∀ r ∈ specialReads, specialWide r.1.toNat = false := by
      simp only [specialReads, List.forall_mem_cons, List.not_mem_nil, IsEmpty.forall_iff, implies_true, and_true]
      decide
    rw [exec_srd_whole (hword r hr), ofNat_readSpecial r hr]
  case masks =>
    intro sd s hseq r hr
    have hmask : specialWide r.1.toNat = true ∧ readSpecial s r.1.toNat = r.2.toNat := by
      simp only [List.mem_cons, List.not_mem_nil, or_false] at hr
      rcases hr with rfl | rfl <;> simp [readSpecial, specialWide, hseq, Warp.readMask]
    obtain ⟨hwide, hread⟩ := hmask
    rw [exec_srd_pair hwide, exec_srd_low, exec_srd_high, hread, ofNat_toNat_low, ofNat_toNat_high]
    exact ⟨rfl, rfl, rfl⟩
  case lowest =>
    intro sd s l hseq hhandler hlow hl
    have hne : s.w.exec ≠ 0 := by
      intro h0
      have hset := hlow.1
      simp [h0] at hset
    obtain ⟨hwid, hlane⟩ := exec_srd_lane hseq hhandler sd
    rw [hwid, hlane, if_neg hne, lowLane_of_isLowest hlow hl]
    exact ⟨rfl, rfl⟩
  case noLane =>
    intro sd s hseq hhandler h0
    obtain ⟨hwid, hlane⟩ := exec_srd_lane hseq hhandler sd
    rw [hwid, hlane, h0, if_pos rfl, lowLane_zero, BitVec.add_zero]
    exact ⟨rfl, rfl⟩
  case plane =>
    intro sd s hseq hhandler
    rw [exec_srd_whole rfl]
    simp [readSpecial, readPlane, hseq, hhandler]
  case seqRead =>
    intro half sd s r hr hseq hhalf
    have hzero := readSpecial_of_seq hseq r hr
    have hwide : (decide (half = 0) && specialWide r.toNat) = false := by
      rw [Bool.and_eq_false_iff, decide_eq_false_iff_not]
      rcases hhalf with h | rfl | rfl
      · exact .inl h
      · exact .inr rfl
      · exact .inr rfl
    show execSrd half r sd s = _
    rw [execSrd, hzero, hwide]
    exact congrArg (fun t => Host.Outcome.next (advance t)) (ite_self (setS s sd.toNat 0))
  case writable =>
    intro r hr ss lit s
    have hword : ∀ r ∈ specialWrites, specialWide r.1.toNat = false := by
      simp only [specialWrites, List.forall_mem_cons, List.not_mem_nil, IsEmpty.forall_iff, implies_true, and_true]
      decide
    refine ⟨by rw [exec_swr_word (hword r hr), writeSpecial_of_mem r hr], ?_⟩
    show execSwrLit 0 r.1 lit s = _
    rw [execSwrLit, writeSpecial_of_mem r hr]
  case readOnly =>
    intro n half ss lit s hn
    constructor
    · show execSwr half n ss s = _
      exact congrArg (fun t => Host.Outcome.next (advance t)) (writeSpecial_of_readOnly hn ..)
    · show execSwrLit half n lit s = _
      exact congrArg (fun t => Host.Outcome.next (advance t)) (writeSpecial_of_readOnly hn ..)
  case exec =>
    intro ss lit s hseq hhandler to_ lo hi low high
    have hwrite (half : BitVec 2) (x : Nat) {m : Mask} (hm : putHalves s.w.exec half x = m) :
        Host.Outcome.next (advance (s.modW fun w => writeExec w half x)) = to_ m := by
      refine congrArg (fun t => Host.Outcome.next (advance t)) (State.modW_congr ?_)
      rw [writeExec_of_warp hseq hhandler, hm]
    exact ⟨hwrite 0 _ (putHalves_whole ..), hwrite 1 _ (putHalves_low ..), hwrite 2 _ (putHalves_high ..),
      hwrite 1 _ (putHalves_low ..), hwrite 2 _ (putHalves_high ..)⟩
  case handlerExec =>
    intro ss s hseq hhandler
    obtain ⟨hexec, htrap⟩ := writeExec_of_handler hseq hhandler 0 ((s.w.sreg ss.toNat).toNat + 2 ^ 64 * (s.w.sreg (ss.toNat + 1)).toNat)
    exact ⟨_, exec_swr_exec ss s, hexec, htrap.trans (by rw [putHalves_whole])⟩

end Sys2Proof.Machine
end

section
/-! How results reach the queue and the registers (07 R153, R155, R157), how a load's words do (06 R125, 15 R367), and O8. -/
namespace Sys2Proof.Machine

/-! The queue that is read and pushed. -/

@[simp] theorem Warp.activeQueue_setQueue (w : Warp) (q : List QEntry) : (w.setQueue q).activeQueue = q := by
  cases h : w.handler <;> simp [Warp.setQueue, Warp.activeQueue, h]

/-- A handler's push leaves the program's queue, and a program's leaves the handler's (07 R156). -/
theorem Warp.setQueue_frame (w : Warp) (q : List QEntry) : ∃ q1 q2, w.setQueue q = { w with queue := q1, hqueue := q2 } ∧
    if w.handler then q1 = w.queue else q2 = w.hqueue := by
  by_cases h : w.handler = true
  · exact ⟨w.queue, q, by rw [Warp.setQueue, if_pos h], by rw [if_pos h]⟩
  · exact ⟨q, w.hqueue, by rw [Warp.setQueue, if_neg h], by rw [if_neg h]⟩

/-! One push. -/

theorem pushQ_eq {s : State} (hseq : s.w.isSeq = false) (x : Vec) (tr : Bool) : pushQ s x tr = s.modW fun w =>
    { w.setQueue (⟨Vec.select w.iss.lanes x Vec.zero, tr⟩ :: w.activeQueue.take (w.activeQueue.length - 1)) with
      iss := { w.iss with pushed := true } } := if_neg (by simp [hseq])

/-- 07 R153, R155: the new youngest entry, the oldest gone, and all else as it was. -/
theorem pushQ_spec {s : State} (hseq : s.w.isSeq = false) (x : Vec) (tr : Bool) :
    (pushQ s x tr).w.activeQueue = ⟨Vec.select s.lanes x Vec.zero, tr⟩ :: s.w.activeQueue.take (s.w.activeQueue.length - 1) ∧
    ∃ q1 q2, pushQ s x tr = (s.modW fun w => { w with queue := q1, hqueue := q2, iss := { w.iss with pushed := true } }) ∧
      if s.w.handler then q1 = s.w.queue else q2 = s.w.hqueue := by
  rw [pushQ_eq hseq]
  obtain ⟨q1, q2, hframe, hother⟩ := s.w.setQueue_frame _
  refine ⟨Warp.activeQueue_setQueue s.w _, q1, q2, ?_, hother⟩
  exact State.modW_congr (congrArg (fun w : Warp => { w with iss := { s.w.iss with pushed := true } }) hframe)

/-! A named register. -/

theorem writeV_of_noPort {s : State} {n : Nat} (h : producerChan s.w n = none) (x : Vec) :
    writeV s n x = s.modW fun w => w.setV n w.iss.lanes x := by
  rw [writeV, h]

theorem Warp.lane_setV (w : Warp) {n : Nat} (hn : n < w.v.length) (m : Mask) (x : Vec) {l : Nat} (hl : l < 128) :
    ((w.setV n m x).vreg n).lane l = if hasLane m l then x.lane l else (w.vreg n).lane l := by
  rw [Warp.vreg_setV, if_pos ⟨rfl, hn⟩, Vec.lane_select _ _ _ hl]

theorem Warp.vreg_setV_of_ne (w : Warp) {n k : Nat} (hk : k ≠ n) (m : Mask) (x : Vec) : (w.setV n m x).vreg k = w.vreg k := by
  rw [Warp.vreg_setV, if_neg (fun h => hk h.1)]

/-- Successive registers from `n` up, written in the lanes of a mask. -/
def Warp.setWords (w : Warp) (n : Nat) (m : Mask) (x : Nat → Vec) (words : Nat) : Warp :=
  (List.range words).foldl (fun w i => w.setV (n + i) m (x i)) w

section
variable (w : Warp) (n : Nat) (m : Mask) (x : Nat → Vec)

theorem Warp.setWords_succ (words : Nat) : w.setWords n m x (words + 1) = (w.setWords n m x words).setV (n + words) m (x words) := by
  rw [Warp.setWords, List.range_succ, List.foldl_append]
  rfl

theorem Warp.setWords_frame : ∀ words, ∃ v, w.setWords n m x words = { w with v := v } ∧ v.length = w.v.length
  | 0 => ⟨_, rfl, rfl⟩
  | words + 1 => by
    obtain ⟨v, hframe, hlen⟩ := Warp.setWords_frame words
    rw [Warp.setWords_succ, hframe]
    exact ⟨_, rfl, (listSet_length ..).trans hlen⟩

theorem Warp.vreg_setWords (k : Nat) : ∀ words, (w.setWords n m x words).vreg k =
    if n ≤ k ∧ k < n + words ∧ k < w.v.length then Vec.select m (x (k - n)) (w.vreg k) else w.vreg k
  | 0 => by rw [if_neg (by omega)]; rfl
  | words + 1 => by
    obtain ⟨v, hframe, hlen⟩ := w.setWords_frame n m x words
    have hlen : (w.setWords n m x words).v.length = w.v.length := by rw [hframe, hlen]
    rw [Warp.setWords_succ, Warp.vreg_setV, hlen, Warp.vreg_setWords _ words, Warp.vreg_setWords k words]
    by_cases hk : k = n + words ∧ n + words < w.v.length
    · rw [if_pos hk, if_neg (by omega), if_pos (by omega), hk.1, Nat.add_sub_cancel_left]
    · rw [if_neg hk]
      exact if_congr (by omega) rfl rfl

end

/-! What an access returns. -/

section
variable {s : State} (hseq : s.w.isSeq = false) (m : Mask) (x : Vec)
include hseq

/-- 15 R367: the issuing lanes of the youngest entry are filled, and all else is as it was. -/
theorem fillYoungest_spec :
    (∀ e rest, s.w.activeQueue = e :: rest → (fillYoungest s m x).w.activeQueue = { e with v := Vec.select m x e.v } :: rest) ∧
    ∃ q1 q2, fillYoungest s m x = (s.modW fun w => { w with queue := q1, hqueue := q2 }) ∧
      if s.w.handler then q1 = s.w.queue else q2 = s.w.hqueue := by
  have hfill : fillYoungest s m x = s.modW _ := if_neg (by simp [hseq])
  cases hq : s.w.activeQueue with
  | nil =>
    refine ⟨fun _ _ h => absurd h.symm (List.cons_ne_nil _ _), s.w.queue, s.w.hqueue, ?_, by split <;> rfl⟩
    rw [hfill]
    exact State.modW_congr (by rw [hq])
  | cons e rest =>
    obtain ⟨q1, q2, hframe, hother⟩ := s.w.setQueue_frame ({ e with v := Vec.select m x e.v } :: rest)
    have hfill : fillYoungest s m x = s.modW fun w => w.setQueue ({ e with v := Vec.select m x e.v } :: rest) := by
      rw [hfill]
      exact State.modW_congr (by rw [hq])
    rw [hfill]
    refine ⟨?_, q1, q2, State.modW_congr hframe, hother⟩
    rintro _ _ ⟨⟩
    exact Warp.activeQueue_setQueue ..

end

theorem foldl_putWord {r : Req} (h : r.slots = []) (n : Nat) (x : Nat → Vec) : ∀ (words : Nat) (s : State),
    (List.range words).foldl (fun s i => putWord s r (n + i) (x i)) s = s.modW fun w => w.setWords n r.lanes x words
  | 0, s => rfl
  | words + 1, s => by
    rw [List.range_succ, List.foldl_append, foldl_putWord h n x words, List.foldl_cons, List.foldl_nil, putWord, h]
    simp only [Warp.setWords_succ]
    rfl

/-- Word `i` of what an access returns, in the lanes of its issue. -/
def Req.word (r : Req) (val : Nat → Nat) (i : Nat) : Vec :=
  Vec.ofFn fun l => if hasLane r.lanes l then BitVec.ofNat 32 (val l / 2 ^ (32 * i)) else 0

/-- The registers of an access's destination, with the words that it returns. -/
def Warp.delivered (w : Warp) (r : Req) (words : Nat) (val : Nat → Nat) : Warp :=
  match r.dst with
  | .vec n => w.setWords n.toNat r.lanes (r.word val) words
  | .sca n => w.setS n.toNat (BitVec.ofNat 64 (val 0))
  | _ => w

theorem deliver_eq {r : Req} (h : r.slots = []) (s : State) (words : Nat) (val : Nat → Nat) : deliver s r words val =
    (if r.pushes then fillYoungest s r.lanes (r.word val 0) else s).modW fun w => w.delivered r words val := by
  unfold deliver Warp.delivered
  cases r.dst with
  | vec n => exact foldl_putWord h n.toNat (r.word val) words _
  | sca n => rfl
  | queue | msk n | discard => rfl

theorem Req.lane_select_word (r : Req) (val : Nat → Nat) (i : Nat) (y : Vec) {l : Nat} (hl : l < 128) :
    (Vec.select r.lanes (r.word val i) y).lane l = if hasLane r.lanes l then BitVec.ofNat 32 (val l / 2 ^ (32 * i)) else y.lane l := by
  rw [Vec.lane_select _ _ _ hl, Req.word, Vec.lane_ofFn _ hl]
  split <;> rfl

section
variable (w : Warp) (r : Req) (words : Nat) (val : Nat → Nat)

theorem Warp.delivered_frame : ∃ v s, w.delivered r words val = { w with v := v, s := s } ∧ v.length = w.v.length := by
  unfold Warp.delivered
  cases r.dst with
  | vec n =>
    obtain ⟨v, hframe, hlen⟩ := w.setWords_frame n.toNat r.lanes (r.word val) words
    exact ⟨v, w.s, hframe, hlen⟩
  | queue | sca n | msk n | discard => exact ⟨_, _, rfl, rfl⟩

theorem Warp.sreg_delivered (k : Nat) : (w.delivered r words val).sreg k =
    if r.dst = .sca (BitVec.ofNat 6 k) ∧ k < 64 then BitVec.ofNat 64 (val 0) else w.sreg k := by
  unfold Warp.delivered
  cases r.dst with
  | vec n =>
    obtain ⟨v, hframe, -⟩ := w.setWords_frame n.toNat r.lanes (r.word val) words
    rw [if_neg (fun h => Dst.noConfusion h.1)]
    show (w.setWords n.toNat r.lanes (r.word val) words).sreg k = w.sreg k
    rw [hframe]
    rfl
  | sca n =>
    have hn := n.isLt
    have hname : k = n.toNat ↔ Dst.sca n = .sca (BitVec.ofNat 6 k) ∧ k < 64 := by
      rw [Dst.sca.injEq, ← BitVec.toNat_inj, BitVec.toNat_ofNat]
      omega
    rw [Warp.sreg_setS]
    exact if_congr hname rfl rfl
  | queue | msk n | discard => exact (if_neg (fun h => Dst.noConfusion h.1)).symm

theorem Warp.vreg_delivered_of_vec {n : BitVec 9} (hd : r.dst = .vec n) (k : Nat) : (w.delivered r words val).vreg k =
    if n.toNat ≤ k ∧ k < n.toNat + words ∧ k < w.v.length then Vec.select r.lanes (r.word val (k - n.toNat)) (w.vreg k) else w.vreg k := by
  rw [Warp.delivered, hd]
  exact Warp.vreg_setWords ..

theorem Warp.vreg_delivered_of_other {k : Nat} (hk : ∀ n, r.dst = .vec n → k < n.toNat ∨ n.toNat + words ≤ k) :
    (w.delivered r words val).vreg k = w.vreg k := by
  cases h : r.dst with
  | vec n =>
    have hout := hk n h
    rw [Warp.vreg_delivered_of_vec _ _ _ _ h, if_neg (by omega)]
  | sca n =>
    rw [Warp.delivered, h]
    rfl
  | queue | msk n | discard => rw [Warp.delivered, h]

end

/-- The queue entry that an access pushed, once its low words have come; an access that pushed none leaves the queue alone. -/
theorem fillPushed_spec {s : State} (hseq : s.w.isSeq = false) (r : Req) (x : Vec) :
    (∀ e rest, s.w.activeQueue = e :: rest → (if r.pushes then fillYoungest s r.lanes x else s).w.activeQueue =
      { e with v := if r.pushes then Vec.select r.lanes x e.v else e.v } :: rest) ∧
    ∃ q1 q2, (if r.pushes then fillYoungest s r.lanes x else s) = (s.modW fun w => { w with queue := q1, hqueue := q2 }) ∧
      if s.w.handler then q1 = s.w.queue else q2 = s.w.hqueue := by
  by_cases hp : r.pushes = true
  · simp only [if_pos hp]
    exact fillYoungest_spec hseq r.lanes x
  · simp only [if_neg hp]
    exact ⟨fun _ _ h => h, s.w.queue, s.w.hqueue, rfl, by split <;> rfl⟩

/-- A vector result is its registers and a push. -/
theorem putResult_eq {s : State} (hport : ∀ n, producerChan s.w n = none) {d : Dst}
    (hd : d = .queue ∨ ∃ n, d = .vec n ∧ n.toNat < s.w.v.length) (tr : Bool) (x : Vec) : ∃ v : List Vec, putResult s d tr [x] = pushQ (s.modW fun w => { w with v := v }) x tr ∧ v.length = s.w.v.length ∧
      (∀ n, d = .vec n → ∀ l < 128, (v.getD n.toNat Vec.zero).lane l = if hasLane s.lanes l then x.lane l else (s.w.vreg n.toNat).lane l) ∧
      ∀ k, (∀ n, d = .vec n → k ≠ n.toNat) → v.getD k Vec.zero = s.w.vreg k := by
  rcases hd with rfl | ⟨n, rfl, hn⟩
  · exact ⟨s.w.v, rfl, rfl, fun n h => Dst.noConfusion h, fun k _ => rfl⟩
  · refine ⟨(s.w.setV n.toNat s.lanes x).v, ?_, Warp.setV_length .., ?_, fun k hk => Warp.vreg_setV_of_ne _ (hk n rfl) _ _⟩
    · show pushQ (writeV s n.toNat x) x tr = _
      rw [writeV_of_noPort (hport _)]
      rfl
    · rintro _ ⟨⟩ l hl
      exact Warp.lane_setV _ hn _ _ hl

/-- Settles O8: a result is its registers and one push; what an access returns fills its queue entry and then its registers. -/
theorem resultsAreDelivered : Obligations.ResultsAreDelivered := by
  unfold Obligations.ResultsAreDelivered
  refine ⟨?result, ?access⟩
  case result =>
    intro s d tr x hseq hport hd t
    obtain ⟨v, ht', hlen, hnamed, hothers⟩ := putResult_eq hport hd tr x
    obtain ⟨hqueue, hframe⟩ := pushQ_spec (s := s.modW fun w => { w with v := v }) hseq x tr
    obtain ⟨q1, q2, hpush, hother⟩ := hframe
    have ht : t = s.modW fun w => { w with v := v, queue := q1, hqueue := q2, iss := { w.iss with pushed := true } } := ht'.trans hpush
    have hreg (k : Nat) : t.w.vreg k = v.getD k Vec.zero := by rw [ht]; rfl
    refine ⟨⟨_, (congrArg (fun u : State => u.w.activeQueue) ht').trans hqueue, rfl, fun l hl => ?_⟩,
      fun n hn l hl => ?_, fun k hk => ?_, ?_, ?_, ?_, ?_⟩
    · rw [Vec.lane_select _ _ _ hl, Vec.lane_zero]
      rfl
    · rw [hreg, hnamed n hn l hl]
    · rw [hreg, hothers k hk]
    · rw [ht]; exact hlen
    · rw [ht]; rfl
    · rw [ht]; rfl
    · rw [ht]; exact hother
  case access =>
    intro s r words val hseq hslots t word
    obtain ⟨hqueue, q1, q2, hfill, hother⟩ := fillPushed_spec hseq r (r.word val 0)
    obtain ⟨v, sc, hframe, hlen⟩ := Warp.delivered_frame { s.w with queue := q1, hqueue := q2 } r words val
    have hw : t.w = Warp.delivered { s.w with queue := q1, hqueue := q2 } r words val := by
      rw [show t = _ from deliver_eq hslots .., hfill]
      rfl
    have hactive : t.w.activeQueue = (if r.pushes then fillYoungest s r.lanes (r.word val 0) else s).w.activeQueue := by
      rw [hw, hframe, hfill]
      rfl
    refine ⟨fun n hn hfit i hi l hl => ?_, fun k hk => ?_, fun k => ?_, fun e rest he => ?_, ?_, ?_, ?_, ?_⟩
    · rw [hw, Warp.vreg_delivered_of_vec _ _ _ _ hn, if_pos (by exact ⟨by omega, by omega, by show _ < s.w.v.length; omega⟩),
        Nat.add_sub_cancel_left, Req.lane_select_word _ _ _ _ hl]
      rfl
    · rw [hw]
      exact Warp.vreg_delivered_of_other _ _ _ _ hk
    · rw [hw]
      exact Warp.sreg_delivered ..
    · refine ⟨_, hactive.trans (hqueue e rest he), rfl, fun l hl => ?_⟩
      by_cases hp : r.pushes = true
      · simp only [hp, if_pos, true_and]
        exact Req.lane_select_word _ _ _ _ hl
      · simp [hp]
    · rw [show t = _ from deliver_eq hslots .., hfill]
      rfl
    · rw [hw, hframe]
    · rw [hw, hframe]
      exact hother
    · rw [hw, hframe]
      exact hlen

end Sys2Proof.Machine
end

section
/-! Registers claimed and given back (07 R166, R167), and O19. -/
namespace Sys2Proof.Machine

theorem inGroup.groupId {s : State} {gid : Nat} {g : Group} (h : inGroup s gid g) : s.w.groupId = some gid := by
  rw [Warp.groupId, h.1]

theorem inGroup.group {s : State} {gid : Nat} {g : Group} (h : inGroup s gid g) : s.group = some g :=
  group_of_groupId h.groupId h.2

theorem modGroup_of_getGroup {s : State} {gid : Nat} {g : Group} (h : getGroup s gid = some g) (f : Group → Group) :
    modGroup s gid f = setGroup s gid (f g) := by
  rw [modGroup, h]

/-! CLAIM. -/

/-- The limit of a CLAIM, as a number of cycles. -/
def claimLimit (limit : Option W32) : Option Nat := limit.map (·.toNat)

theorem exec_claimForms (sd : BitVec 6) (n : BitVec 7) (limit : Option W32) (s : State) :
    exec (claimForms sd n limit) s = .next (claimFor sd.toNat n.toNat (claimLimit limit) s) := by
  cases limit with
  | none => rfl
  | some x =>
    have hlit : (x.zeroExtend 64).toNat % 2 ^ 32 = x.toNat := by
      have hx := x.isLt
      rw [BitVec.toNat_setWidth]
      omega
    show Host.Outcome.next (claimFor sd.toNat n.toNat (some ((x.zeroExtend 64).toNat % 2 ^ 32)) s) = _
    rw [hlit]
    rfl

theorem claimLimit_beq_zero (limit : Option W32) : (claimLimit limit == some 0) = true ↔ limit = some 0 := by
  cases limit with
  | none => simp [claimLimit]
  | some x => simp [claimLimit, ← BitVec.toNat_inj]

section
variable {s : State} {gid : Nat} {g : Group} (h : inGroup s gid g) (sd n : Nat) (limit : Option Nat)
include h

theorem claimFor_eq : claimFor sd n limit s =
    if 512 < s.w.v.length + 8 * n ∨ tgetD g.reserve s.w.home.group 0 < 8 * n then advance (setS s sd 2)
    else if claimsOf s g s.w.home.group = [] ∧ 8 * n ≤ tgetD g.pool s.w.home.group 0 then advance (grantClaim s gid n sd)
    else if s.w.handler = true ∨ (limit == some 0) = true then advance (setS s sd 1)
    else advance ((setGroup s gid { g with claims := g.claims ++ [s.w.home.index] }).modW fun w =>
      { w with wake := .claim n (BitVec.ofNat 6 sd) (limit.map (s.clock + ·)) }) := by
  rw [claimFor, h.groupId, h.group]
  simp only [modGroup_of_getGroup h.2, Bool.or_eq_true, Bool.and_eq_true, decide_eq_true_eq, List.isEmpty_iff]
  rfl

theorem grantClaim_eq : grantClaim s gid n sd =
    (setGroup s gid { g with pool := tput g.pool s.w.home.group (tgetD g.pool s.w.home.group 0 - 8 * n) }).modW fun w =>
      { w with v := w.v ++ List.replicate (8 * n) Vec.zero }.setS sd 0 := by
  rw [grantClaim, modGroup_of_getGroup h.2]

end

theorem exec_claimWaitLimit {s : State} {n : Nat} {sd : BitVec 6} {limit : Nat} (h : s.w.wake = .claim n sd (some limit)) :
    exec (.claimWaitLimit s.w.id) s = .next (if limit ≤ s.clock then serveClaim s n sd 1 else s) := by
  show execClaimWaitLimit s.w.id s = _
  rw [execClaimWaitLimit, getWarp_self, focus_self]
  simp only [h]

theorem serveClaim_refused {s : State} {gid : Nat} {g : Group} (h : inGroup s gid g) (n : Nat) (sd : BitVec 6) : serveClaim s n sd 1 =
    (setGroup s gid { g with claims := g.claims.filter (· != s.w.home.index) }).modW fun w =>
      { w with s := (w.setS sd.toNat 1).s, wake := .ready } := by
  rw [serveClaim, h.groupId]
  simp only [leaveClaims, modGroup_of_getGroup h.2, if_neg Nat.one_ne_zero]
  rfl

/-! GIVEBACK. -/

theorem foldl_eq_min? {f : Option Nat → Nat → Option Nat} (hnone : ∀ x, f none x = some x)
    (hsome : ∀ y x, f (some y) x = some (min x y)) (xs : List Nat) : xs.foldl f none = xs.min? := by
  have hrest : ∀ (xs : List Nat) (y : Nat), xs.foldl f (some y) = some (xs.foldl min y) := by
    intro xs
    induction xs with
    | nil => exact fun y => rfl
    | cons x xs ih => exact fun y => by rw [List.foldl_cons, hsome, ih, Nat.min_comm]; rfl
  cases xs with
  | nil => rfl
  | cons x xs => rw [List.foldl_cons, hnone, hrest, List.min?_cons']

/-- A register that lies in a range that the warp in focus has mapped (07 R168). -/
def mappedReg (s : State) (g : Group) (r : Nat) : Prop :=
  ∃ c ∈ g.chans, c.2.consumer = some s.w.home.index ∧ c.2.port ≤ r ∧ r < c.2.port + c.2.depth

section
variable {s : State} {g : Group} (hgroup : s.group = some g) (lo : Nat)
include hgroup

theorem mappedFrom_eq : mappedFrom s lo =
    ((g.chans.filter fun c => c.2.consumer == some s.w.home.index && lo < c.2.port + c.2.depth).map fun c => max lo c.2.port).min? := by
  rw [mappedFrom, hgroup]
  exact foldl_eq_min? (fun _ => rfl) (fun _ _ => rfl) _

theorem mappedFrom_eq_none (hdepth : ∀ c ∈ g.chans, 0 < c.2.depth) (hfree : ∀ i, lo ≤ i → ¬ mappedReg s g i) : mappedFrom s lo = none := by
  rw [mappedFrom_eq hgroup, List.min?_eq_none_iff, List.map_eq_nil_iff, List.filter_eq_nil_iff]
  intro c hc hown
  simp only [Bool.and_eq_true, beq_iff_eq, decide_eq_true_eq] at hown
  have hpos := hdepth c hc
  exact hfree (max lo c.2.port) (by omega) ⟨c, hc, hown.1, by omega, by omega⟩

theorem mappedFrom_eq_some (hdepth : ∀ c ∈ g.chans, 0 < c.2.depth) {r : Nat} (hlo : lo ≤ r) (hr : mappedReg s g r)
    (hfirst : ∀ i, lo ≤ i → i < r → ¬ mappedReg s g i) : mappedFrom s lo = some r := by
  have hbelow : ∀ c ∈ g.chans, c.2.consumer = some s.w.home.index → lo < c.2.port + c.2.depth → r ≤ max lo c.2.port := by
    intro c hc hown hend
    have hpos := hdepth c hc
    by_contra hlt
    exact hfirst (max lo c.2.port) (by omega) (by omega) ⟨c, hc, hown, by omega, by omega⟩
  obtain ⟨c, hc, hown, hport, hend⟩ := hr
  have hmax := hbelow c hc hown (by omega)
  rw [mappedFrom_eq hgroup, List.min?_eq_some_iff]
  simp only [List.mem_map, List.mem_filter, Bool.and_eq_true, beq_iff_eq, decide_eq_true_eq]
  refine ⟨⟨c, ⟨hc, hown, by omega⟩, by omega⟩, ?_⟩
  rintro _ ⟨c', ⟨hc', hown', hend'⟩, rfl⟩
  exact hbelow c' hc' hown' hend'

end

theorem exec_giveback_of_short {s : State} {n : BitVec 7} (h : s.w.v.length < 8 * n.toNat) :
    exec (.giveback n) s = .next (raise0 s REG_RANGE [s.w.v.length, 8 * n.toNat, 0xFFFFFFFF]) := by
  show execGiveback n s = _
  simp only [execGiveback, if_pos h]

theorem exec_giveback_of_mapped {s : State} {n : BitVec 7} (h : 8 * n.toNat ≤ s.w.v.length) {r : Nat}
    (hr : mappedFrom s (s.w.v.length - 8 * n.toNat) = some r) :
    exec (.giveback n) s = .next (raise0 s REG_RANGE [s.w.v.length, 8 * n.toNat, r]) := by
  show execGiveback n s = _
  simp only [execGiveback, if_neg (Nat.not_lt.mpr h), hr]

theorem exec_giveback_of_free {s : State} {n : BitVec 7} {gid : Nat} {g : Group} (hg : inGroup s gid g) (h : 8 * n.toNat ≤ s.w.v.length)
    (hfree : mappedFrom s (s.w.v.length - 8 * n.toNat) = none) :
    exec (.giveback n) s = .next (advance ((setGroup s gid
      { g with pool := tput g.pool s.w.home.group (tgetD g.pool s.w.home.group 0 + 8 * n.toNat) }).modW fun w =>
        { w with v := w.v.take (s.w.v.length - 8 * n.toNat) })) := by
  show execGiveback n s = _
  simp only [execGiveback, if_neg (Nat.not_lt.mpr h), hfree, hg.groupId, modGroup_of_getGroup hg.2]

/-- Settles O19: CLAIM by what `claimFor` does in a workgroup, its limit, and GIVEBACK by the lowest mapped register. -/
theorem registerClaims : Obligations.RegisterClaims := by
  unfold Obligations.RegisterClaims
  refine ⟨?claim, ?limit, ?giveback⟩
  case claim =>
    intro sd n limit s gid g _ hg lg k pool never free noWait
    rw [exec_claimForms, claimFor_eq hg]
    refine ⟨fun hnever => ?_, fun hnever hfree => ?_, fun hnever hfree hwait => ?_, fun hnever hfree hwait => ?_⟩
    · rw [if_pos hnever]
      rfl
    · rw [if_neg hnever, if_pos hfree, grantClaim_eq hg]
      refine ⟨_, { g with pool := tput g.pool lg (pool - k) }, rfl, ?_, rfl, rfl, fun i hi => ?_, rfl, ?_, rfl, fun i => tgetD_tput _⟩
      · exact (Warp.sreg_setS ..).trans (if_pos rfl)
      · exact (Warp.sreg_setS ..).trans (if_neg hi)
      · exact (getGroup_setGroup ..).trans (if_pos rfl)
    · rw [if_neg hnever, if_neg hfree, if_pos (hwait.imp_right (claimLimit_beq_zero limit).mpr)]
      rfl
    · rw [if_neg hnever, if_neg hfree, if_neg (fun h => hwait (h.imp_right (claimLimit_beq_zero limit).mp)), BitVec.ofNat_toNat, BitVec.setWidth_eq,
        claimLimit, Option.map_map]
      rfl
  case limit =>
    intro s gid g n sd limit hg hwake hlimit
    rw [exec_claimWaitLimit hwake, if_pos hlimit]
    exact congrArg Host.Outcome.next (serveClaim_refused hg n sd)
  case giveback =>
    intro n s gid g hg hdepth a k lg mapped
    refine ⟨exec_giveback_of_short, fun r hk hlo _ hr hfirst => ?_, fun hk hfree => ?_⟩
    · exact exec_giveback_of_mapped hk (mappedFrom_eq_some hg.group _ hdepth hlo hr hfirst)
    · exact exec_giveback_of_free hg hk (mappedFrom_eq_none hg.group _ hdepth hfree)

end Sys2Proof.Machine
end

section
/-! Producers whose consumer is filed under a key that is not its own. What a producer writes to its port goes to the consumer's registers,
and `setWarp` puts the consumer back under its own id: where that is the id of the warp in focus (`misfiled`), the consumer's record takes
the place of the warp that wrote. O9, and the clause of O20 for a producer's write, speak of such states too (only the last part of that
clause has the premise `channelsOk`), and fail there. -/
namespace Sys2Proof.Machine

/-- MOV of the youngest queue entry into the port. -/
def portMov : Op := plainOp .b32 (.queue 0) .unused (.vec 4)

/-- Refutes O9: after MOV into the port the warp in focus is the consumer's record, whose index in its workgroup is 7 and not 0. -/
theorem not_arithmeticFrame : ¬ Obligations.ArithmeticFrame := by
  unfold Obligations.ArithmeticFrame
  intro h
  obtain ⟨-, ⟨hkept, -⟩, -⟩ := h.1 (.mov portMov) _ (misfiled 0) (misfiled 0) _ rfl (by decide) rfl rfl
  have hindex := congrArg (fun w : Warp => w.home.index) hkept
  exact absurd hindex (by decide +kernel)

/-- `misfiled`, with a consumer's record that names no workgroup. -/
def misfiledElsewhere (lanes : Mask) : State :=
  { misfiled lanes with warps := [(201, { consumerOfSameId with kind := .none })] }

/-- Refutes O20: after the write the record in focus is of no workgroup, so its channel 0 cannot be looked up, and the statement says that
it holds one more full slot. -/
theorem not_channels : ¬ Obligations.Channels := by
  unfold Obligations.Channels
  intro h
  obtain ⟨-, -, -, hproducer, -⟩ := h
  obtain ⟨-, ⟨hslot, -⟩, -⟩ := (hproducer (misfiledElsewhere 0) 4 0 ⟨some 7, 0, 1, 0, 0, [], 0, false⟩ Vec.zero rfl rfl rfl rfl).1
    (by decide) (by decide)
  exact absurd hslot (by decide +kernel)

end Sys2Proof.Machine
end
